-- ==== Sys2Proof/Word.lean ====
section
/-! DEFINITION. Word.lean: the word types of the block. Registers are 64 bits wide (R3), descriptors 64 bytes
(R75), cells 80 bytes (R152, R298). Times are counts of 62.5 ps units held as naturals (R26). -/

namespace Sys2Proof

/-- One byte. -/
abbrev Byte := BitVec 8

/-- One register (R3). -/
abbrev W64 := BitVec 64

/-- A 64-byte descriptor, command or payload; bit 0 is bit 0 of its lowest-addressed byte (R2). -/
abbrev Line := BitVec 512

/-- A time on the GTC, in units of 62.5 ps (R26). -/
abbrev Gtc := Nat

/-- A source number (R37, Table 2.3). -/
abbrev Source := Nat

/-- A sparse table: number of the object and the object, at most one entry a number. -/
abbrev Tbl (α : Type) := List (Nat × α)

end Sys2Proof
end

