-- ==== Sys2Proof/Syntax.lean ====
section
/-! DEFINITION. Syntax.lean: the commands of the block, one constructor of Instr per row of spec/opcode_table.json,
with the operands the row's event carries. The table gives no bits to any row, so the operand shapes are the model's
(assumption log 2); the layouts inside the 64-byte and 12-byte operands are the spec's. -/

namespace Sys2Proof

/-- A cell on a lattice port, a near port or inside a Fyton/UDP datagram: 12 header bytes, 64 payload bytes and the
CRC-32C (R152, R155, R298). -/
structure Cell where
  hdr : BitVec 96
  payload : Line
  crc : BitVec 32
deriving DecidableEq, Repr

/-- Addresses of a Fyton/UDP datagram: MAC index it arrived on, its source MAC address, IP version and addresses, UDP
ports (R362, R364). -/
structure Dgram where
  mac : Nat
  sa : BitVec 48
  ipv6 : Bool
  srcIp : BitVec 128
  dstIp : BitVec 128
  sport : Nat
  dport : Nat
deriving DecidableEq, Repr

/-- How an ejected cell reached the transport: over the lattice (or a local crossbar port), or inside a Fyton/UDP
datagram (R364). -/
inductive Via where
  | lattice
  | udp (g : Dgram)
deriving DecidableEq, Repr

/-- A ring of a function, of a queue pair or of the manager (Table 3.1). -/
inductive RingRef where
  | ctlSq (fn : Nat)
  | ctlCq (fn : Nat)
  | mgrSq
  | mgrCq
  | sq (qp : Nat)
  | rq (qp : Nat)
  | cq (fn num : Nat)
  | eq (fn : Nat)
deriving DecidableEq, Repr

/-- What a received Ethernet frame carries, as far as Table 13.2 looks at it. -/
inductive FrameBody where
  /-- MAC Control opcode 0x0001 -/
  | pause (quanta : Nat)
  /-- MAC Control opcode 0x0101: class-enable vector and quanta of priorities 0 to 7 -/
  | pfc (enable : BitVec 8) (quanta : List Nat)
  /-- another MAC Control opcode -/
  | otherControl
  /-- a UDP datagram over IPv4 or IPv6, `udpLen` its payload length in bytes; `ipOk` says IHL 5, MF 0, fragment offset 0 and a valid header checksum -/
  | udp (ipv6 ipOk : Bool) (dscp ecn sport dport : Nat) (srcIp dstIp : BitVec 128) (sumZero sumOk : Bool)
      (udpLen shimVersion shimCells : Nat) (cells : List Cell)
  /-- any other payload; `ip` says whether it is an IP packet and `dscp` its DSCP -/
  | other (ip : Bool) (dscp : Nat)
deriving DecidableEq, Repr

/-- A received Ethernet frame (R354 to R357). `bytes` are the frame's bytes without its FCS; `len` counts the FCS. -/
structure Frame where
  da : BitVec 48
  sa : BitVec 48
  tagged : Bool
  pcp : Nat
  vid : Nat
  etherType : Nat
  len : Nat
  fcsOk : Bool
  body : FrameBody
  bytes : List Byte
  stamp : Gtc
deriving DecidableEq, Repr

/-- What a scrub read finds in a line (R276). -/
inductive ScrubResult where
  | clean | corrected | uncorrectable
deriving DecidableEq, Repr

/-- How a device read of host memory is answered (R389, R391). -/
inductive HostStatus where
  | success | unsupportedRequest | completerAbort
deriving DecidableEq, Repr

/-- A translation ATS returned for pages to pin: first page, pages covered, first translated page (R408). -/
structure Pin where
  page : Nat
  pages : Nat
  target : Nat
deriving DecidableEq, Repr

/-- A PRI Page Request Group response (Table 15.4). -/
inductive PrgCode where
  | success | invalidRequest | responseFailure
deriving DecidableEq, Repr

/-- Why the root lost its reference (R54). -/
inductive RefLossCause where
  | ppsMissed | tenMhzLost | ptpSilent
deriving DecidableEq, Repr

/-- A host configuration-space write with an effect the manual gives (R397). -/
inductive ConfigOp where
  | vfEnable (on : Bool)
  | numVfs (n : Nat)
  | memorySpace (on : Bool)
  | busMaster (on : Bool)
  | msixEnable (fn : Nat) (on : Bool)
  | msixFunctionMask (fn : Nat) (on : Bool)
  | msixVectorMask (fn vector : Nat) (on : Bool)
  | ats (fn : Nat) (on : Bool)
  | pri (fn : Nat) (on : Bool)
  | cacheEnable (on : Bool)
  | memEnable (on : Bool)
deriving DecidableEq, Repr

/-- A CHAIN message of link attestation (R487): whether its certificates verify to VENDOR_ROOT_HASH, the attestation
key it certifies, and the 96 measurement bytes in three parts. -/
structure ChainMsg where
  verifies : Bool
  attKey : BitVec 256
  bodyHash : BitVec 256
  svnVersion : BitVec 256
  ownerHash : BitVec 256
deriving DecidableEq, Repr

/-- One entry of a RESPONSE message (R487). -/
structure RespEntry where
  port : Nat
  coord : Nat
  nonce : BitVec 256
deriving DecidableEq, Repr

/-- A RESPONSE message (R487). `sigKey` is the attestation key under which its signature verifies, if any. -/
structure RespMsg where
  version : Nat
  entries : List RespEntry
  signer : Nat
  digest : BitVec 256
  measDigest : BitVec 256
  sigKey : Option (BitVec 256)
deriving DecidableEq, Repr

/-- The transport an SPDM request arrives on (R484). -/
inductive SpdmBus where
  | doe | mctp
deriving DecidableEq, Repr

/-- What a folio tick reads from the analogue side: engine temperatures (R347), detected heater errors per ring
(R340), carrier powers (R349), and what forward error correction did in the folio that ends (R342, R462): bits corrected, as
CAL_STATUS index, lane and bits; codewords with a correction of lattice ports; symbols corrected on MACs. -/
structure TickInputs where
  temps : List (Nat × Int)
  heaterErr : List (Nat × Int)
  laserPwr : List (Nat × Nat)
  bits : List (Nat × Nat × Nat)
  codewords : List (Nat × Nat)
  symbols : List (Nat × Nat)
deriving DecidableEq, Repr

/-- The commands: one constructor per row of spec/opcode_table.json. A constructor's docstring names the row's rule.
Rows that the spec calls descriptors or manager commands carry their 64 bytes (`d`), read by the layouts of the
spec's tables. The rows without operands stand last. -/
inductive Instr where
  /-- R506, R552: the straps sampled at the release -/
  | devResetNRelease (mgmtMode : Bool) (addrSel : BitVec 2) (testMode : Bool)
  /-- R517: the stack that failed -/
  | hbmStackFailure (stack : Nat)
  /-- R275: the granule whose fill ended -/
  | granuleZeroFillDone (g : Nat)
  /-- R509: the value written to GLB_CTL -/
  | glbCtlDeviceReset (v : W64)
  /-- R548: hottest logic die and hottest HBM stack, in °C -/
  | thermalWarning (dieT hbmT : Int)
  /-- R516: corrected or uncorrectable; the HBM line of an uncorrectable HBM access, or none for a cell -/
  | bridgeWordError (corrected : Bool) (line : Option Nat)
  /-- R517: the detecting source -/
  | controlStateUncorrectable (src : Source)
  /-- R515: structure code of Table 21.5 and object number -/
  | ondieUncorrectable (code obj : Nat)
  /-- R13 -/
  | folioTick (inp : TickInputs)
  /-- R33 -/
  | timFolioSizeWrite (v : W64)
  /-- R50 -/
  | gtcStep (d : Line)
  /-- R55: the reference's second -/
  | refAcquire (seconds : Nat)
  /-- R54 -/
  | refLoss (cause : RefLossCause)
  /-- R54 -/
  | refReturn (seconds : Nat)
  /-- R69: function, doorbell number, INDEX -/
  | doorbellProducer (fn num index : Nat)
  /-- R69 -/
  | doorbellConsumer (fn num index : Nat)
  /-- R92 -/
  | doorbellConsumerArm (fn num index : Nat)
  /-- R316: near port and the ZDB cell -/
  | zdbDoorbell (n : Nat) (cell : Cell)
  /-- R74: ring, the 64 bytes returned and whether they are poisoned -/
  | descriptorFetchResult (ring : RingRef) (d : Line) (poison : Bool)
  /-- R74 -/
  | descriptorRefetch (ring : RingRef)
  /-- R74 -/
  | doorbellAheadWindowClose (ring : RingRef)
  /-- R76 -/
  | nop (qp : Nat) (d : Line)
  /-- R105 -/
  | send (qp : Nat) (d : Line)
  /-- R107 -/
  | write (qp : Nat) (d : Line)
  /-- R108 -/
  | writeTrig (qp : Nat) (d : Line)
  /-- R109 -/
  | read (qp : Nat) (d : Line)
  /-- R359 -/
  | rawSend (qp : Nat) (d : Line)
  /-- R78 -/
  | recv (qp : Nat) (d : Line)
  /-- R358 -/
  | rawRecv (qp : Nat) (d : Line)
  /-- R238 -/
  | allreduceSum (qp : Nat) (d : Line)
  /-- R241 -/
  | allreduceMax (qp : Nat) (d : Line)
  /-- R241 -/
  | reduceScatter (qp : Nat) (d : Line)
  /-- R241 -/
  | allgather (qp : Nat) (d : Line)
  /-- R241 -/
  | broadcast (qp : Nat) (d : Line)
  /-- R241 -/
  | barrier (qp : Nat) (d : Line)
  /-- R80: the TRIGGERED slot and the work descriptor of the pair -/
  | triggered (qp : Nat) (d : Line) (work : Line)
  /-- R82 -/
  | ringCreate (fn : Nat) (d : Line)
  /-- R82 -/
  | ringDestroy (fn : Nat) (d : Line)
  /-- R82 -/
  | ringDestroyDone (ring : RingRef)
  /-- R96 -/
  | ringRebind (fn : Nat) (d : Line)
  /-- R92 -/
  | interruptModerationClose (ring : RingRef)
  /-- R65: function and the value written to its TRN_CTL_CFG -/
  | ctlRingEnable (fn : Nat) (v : W64)
  /-- R65 -/
  | ctlRingDisable (fn : Nat) (v : W64)
  /-- R530 -/
  | mgrRingEnable (v : W64)
  /-- R530 -/
  | mgrRingDisable (v : W64)
  /-- R93 -/
  | journalClear (v : W64)
  /-- R100 -/
  | qpCreate (d : Line)
  /-- R104 -/
  | qpModify (d : Line)
  /-- R100 -/
  | qpDestroy (d : Line)
  /-- R103 -/
  | sqdDrainDone (qp : Nat)
  /-- R99 -/
  | qpContextLoaded (qp : Nat)
  /-- R133: translations ATS returned for the pages to pin (R136) -/
  | regionRegister (d : Line) (pins : List Pin)
  /-- R135 -/
  | regionInvalidate (d : Line)
  /-- R135: the key -/
  | regionInvalidateDone (key : Nat)
  /-- R116 -/
  | headCellArrival (via : Via) (cell : Cell)
  /-- R120 -/
  | dataCellArrival (via : Via) (cell : Cell)
  /-- R123 -/
  | ackCell (via : Via) (cell : Cell)
  /-- R124 -/
  | nakCell (via : Via) (cell : Cell)
  /-- R125 -/
  | snakCell (via : Via) (cell : Cell)
  /-- R121 -/
  | segmentComplete (qp seq : Nat)
  /-- R128 -/
  | retxTimerExpiry (qp : Nat)
  /-- R130 -/
  | rnrDelayExpiry (qp : Nat)
  /-- R119 -/
  | stashLifetimeExpiry (qp : Nat)
  /-- R157: arriving port, this adapter's slot of the folio, the cell -/
  | latticeCellArrival (port slot : Nat) (cell : Cell)
  /-- R159: the plane -/
  | absorptionAgeing (plane : Nat)
  /-- R150 -/
  | latCfgWrite (v : W64)
  /-- R168 -/
  | latTableLoad (d : Line)
  /-- R169 -/
  | latEpochSwitch (d : Line)
  /-- R169: TABLE_ID and ks -/
  | epochAnnounce (port tableId ks : Nat)
  /-- R50: n and ks -/
  | stepAnnounce (port n ks : Nat)
  /-- R186 -/
  | schSetLoad (d : Line)
  /-- R188 -/
  | schSetActivate (d : Line)
  /-- R187 -/
  | schSetUnload (d : Line)
  /-- R187 -/
  | schFlowBind (d : Line)
  /-- R188: SET_ID, BASE, cycle, folio of acceptance -/
  | setAnnouncement (port setId base cycle folio : Nat)
  /-- R187: SET_ID and the loading adapter's coordinate -/
  | setLoaded (port setId coord : Nat)
  /-- R193: arriving port and the control payload of Table 6.7 -/
  | failureNotice (port : Nat) (payload : Line)
  /-- R192: the flow whose message reaches its check tick -/
  | promiseCheckTick (flow : Nat)
  /-- R226 -/
  | counterReset (d : Line)
  /-- R228 -/
  | commCreate (d : Line)
  /-- R230 -/
  | commDestroy (d : Line)
  /-- R238: communicator and stage code of Table 8.4 -/
  | collectiveStageStart (comm stage : Nat)
  /-- R234 -/
  | scaleCellArrival (cell : Cell)
  /-- R218 -/
  | redCellArrival (cell : Cell)
  /-- R247 -/
  | abortCellArrival (cell : Cell)
  /-- R249 -/
  | suspendedCellArrival (cell : Cell)
  /-- R244: communicator -/
  | slotWaitExpiry (comm : Nat)
  /-- R249: communicator -/
  | suspensionNoticeExpiry (comm : Nat)
  /-- R254 -/
  | engineJob (d : Line)
  /-- R259: job number -/
  | engineJobComplete (job : Nat)
  /-- R265: job, destination line, the line and whether it is poisoned -/
  | movReadReturn (job line : Nat) (data : Line) (poison : Bool)
  /-- R271: bit of ENG_FENCED -/
  | engineCheckFailure (bit : Nat)
  /-- R273 -/
  | engineUnfence (d : Line)
  /-- R273: bit and the self-test's result -/
  | engineSelftestEnd (bit : Nat) (pass : Bool)
  /-- R276: physical line number and what the read found -/
  | scrubRead (line : Nat) (res : ScrubResult)
  /-- R291 -/
  | chkSetDefine (d : Line)
  /-- R281: index 0 to 7 and value -/
  | keyLoadDataWrite (index : Nat) (v : W64)
  /-- R282: the value written to KEY_LOAD_CTL -/
  | keyGoLoad (v : W64)
  /-- R282 -/
  | keyGoZeroise (v : W64)
  /-- R301: port and the value written to NPT_CFG -/
  | nptEnableWrite (n : Nat) (v : W64)
  /-- R323 -/
  | nptModeWrite (n : Nat) (v : W64)
  /-- R323 -/
  | nptResetReq (n : Nat) (v : W64)
  /-- R301 -/
  | nptSignalDetected (n : Nat)
  /-- R301 -/
  | nptLanesLocked (n : Nat)
  /-- R301 -/
  | nptAligned (n : Nat)
  /-- R301 -/
  | nptStateTimeout (n : Nat)
  /-- R301 -/
  | nptRetryTimer (n : Nat)
  /-- R302: the PARAM cell and its arrival stamp -/
  | zlinkParam (n : Nat) (cell : Cell) (arrival : Gtc)
  /-- R324: the MAINT cell and the PRBS bit errors found in it -/
  | zlinkMaint (n : Nat) (cell : Cell) (bitErrors : Nat)
  /-- R304 -/
  | zuquinIdle (n : Nat) (cell : Cell)
  /-- R318: cause 1 uncorrectable, 2 CRC, 3 protocol -/
  | zuquinCellError (n cause : Nat)
  /-- R318 -/
  | zlinkResetReq (n : Nat) (cell : Cell)
  /-- R318 -/
  | nptRxBuffersEmpty (n : Nat)
  /-- R318 -/
  | zlinkResetAck (n : Nat) (cell : Cell)
  /-- R320 -/
  | linkResetTimeout (n : Nat)
  /-- R320 -/
  | nptSignalLoss (n : Nat)
  /-- R308 -/
  | zreqRead (n : Nat) (cell : Cell)
  /-- R308 -/
  | zreqWrite (n : Nat) (cell : Cell)
  /-- R309 -/
  | zrspReadData (n : Nat) (cell : Cell)
  /-- R309 -/
  | zrspWriteDone (n : Nat) (cell : Cell)
  /-- R317 -/
  | zrspPageAbsent (n : Nat) (cell : Cell)
  /-- R309 -/
  | zrspError (n : Nat) (cell : Cell)
  /-- R317 -/
  | zdbPageReady (n : Nat) (cell : Cell)
  /-- R314 -/
  | nptWindowSet (d : Line)
  /-- R315: port and window -/
  | windowChangeDone (n window : Nat)
  /-- R333: the value written to OPT_CFG -/
  | optLEnableWrite (v : W64)
  /-- R333 -/
  | latLightDetected (p : Nat)
  /-- R333: bit errors in 2^20 training bits -/
  | latLanesLocked (p bitErrors : Nat)
  /-- R333 -/
  | latAligned (p : Nat)
  /-- R333 -/
  | latStateTimeout (p : Nat)
  /-- R333 -/
  | latRetryTimer (p : Nat)
  /-- R336: the survey cell and its arrival stamp -/
  | surveyCellArrival (p : Nat) (cell : Cell) (arrival : Gtc)
  /-- R487: nonce, the far end's sending port and coordinate -/
  | attestChallenge (p : Nat) (nonce : BitVec 256) (farPort farCoord : Nat)
  /-- R487 -/
  | attestChain (p : Nat) (chain : ChainMsg)
  /-- R489 -/
  | attestResponse (p : Nat) (resp : RespMsg)
  /-- R472: the signature's bytes -/
  | signatureDone (sig : List Byte)
  /-- R328: engine -/
  | laserLow (e : Nat)
  /-- R328 -/
  | laserLowClear (e : Nat)
  /-- R343: port and lane -/
  | lossOfLight (p lane : Nat)
  /-- R343 -/
  | latticeUncorrectableCw (p : Nat)
  /-- R342: corrected bits that no tick has brought: CAL_STATUS index, lane, bits -/
  | calWindowClose (bits : List (Nat × Nat × Nat))
  /-- R340: engine -/
  | heaterLimit (e : Nat)
  /-- R347: engine -/
  | oeShutdown (e : Nat)
  /-- R355: MAC index and frame -/
  | ethFrameArrival (k : Nat) (frame : Frame)
  /-- R356 -/
  | ethFrameRelease (k : Nat)
  /-- R368 -/
  | pauseFrame (k quanta : Nat)
  /-- R368 -/
  | pfcFrame (k : Nat) (enable : BitVec 8) (quanta : List Nat)
  /-- R368: MAC index and priority -/
  | pauseTimerExpiry (k prio : Nat)
  /-- R370 -/
  | pauseWatchdogExpiry (k prio : Nat)
  /-- R370 -/
  | holdoffExpiry (k : Nat)
  /-- R369 -/
  | xoffRefresh (k prio : Nat)
  /-- R452 -/
  | macFrameStart (k : Nat)
  /-- R359: bytes of the frame in transmission sent before the loss -/
  | macLinkLoss (k bytesSent : Nat)
  /-- R361 -/
  | ethPeerSet (d : Line)
  /-- R360 -/
  | ethFilterSet (d : Line)
  /-- R376: offset and width of the read -/
  | compatCounterRead (offset width : Nat)
  /-- R397: lanes, speed code and flit mode after training -/
  | perstRelease (width speed : Nat) (flit256 : Bool)
  /-- R435 -/
  | vfFlr (n : Nat)
  /-- R393: lanes, speed code and flit mode after the retrain -/
  | linkRetrain (width speed : Nat) (flit256 : Bool)
  /-- R395: the device read -/
  | completionTimeout (req : Nat)
  /-- R391: the device read, its bytes, its status and its poison -/
  | hostReadCompletion (req : Nat) (data : List Byte) (status : HostStatus) (poison : Bool)
  /-- R385: HDM offset of a line; `peer` for a UIO or switched access -/
  | cxlMemRead (addr : Nat) (peer : Bool)
  /-- R385: HDM offset of a line, its bytes, the byte mask and the poison -/
  | cxlMemWrite (addr : Nat) (data : Line) (mask : BitVec 64) (poison peer : Bool)
  /-- R378: HDM offset of the line snooped -/
  | hostSnoop (addr : Nat)
  /-- R384: the base programmed -/
  | hdmDecoderCommit (base : Nat)
  /-- R407: function, PASID, page, permissions granted, translated page -/
  | atsTranslationResult (fn pasid page : Nat) (readOk writeOk : Bool) (target : Nat)
  /-- R417: function, PASID, first page and pages covered -/
  | atsInvalidationRequest (fn pasid page count : Nat)
  /-- R410: fault and response -/
  | prgResponse (fault : Nat) (code : PrgCode)
  /-- R387 -/
  | biasSet (d : Line)
  /-- R387: page -/
  | biasPageChange (page : Nat)
  /-- R403 -/
  | ctxCreate (d : Line)
  /-- R403 -/
  | ctxDestroy (d : Line)
  /-- R404: translations ATS returned for the pages to pin (R408) -/
  | segSet (d : Line) (pins : List Pin)
  /-- R415 -/
  | segInvalidate (d : Line)
  /-- R416: context and segment -/
  | segInvalidateDone (ctx index : Nat)
  /-- R413 -/
  | faultResume (d : Line)
  /-- R411: fault and waiter -/
  | faultWaiterTimeout (fault waiter : Nat)
  /-- R418 -/
  | dirtyLog (d : Line)
  /-- R429 -/
  | carrelStage (d : Line)
  /-- R431 -/
  | carrelDestroy (d : Line)
  /-- R433 -/
  | carrelSuspend (d : Line)
  /-- R433 -/
  | carrelResume (d : Line)
  /-- R435 -/
  | vfReset (d : Line)
  /-- R437: VF and the value written to CAR_VF -/
  | vfEnable (n : Nat) (v : W64)
  /-- R435 -/
  | vfDisable (n : Nat) (v : W64)
  /-- R436: VF -/
  | vfResetComplete (n : Nat)
  /-- R439 -/
  | carrelExport (d : Line)
  /-- R440 -/
  | carrelImport (d : Line)
  /-- R442 -/
  | allocDirty (d : Line)
  /-- R441 -/
  | qpPeerMove (d : Line)
  /-- R454 -/
  | schedCarrel (d : Line)
  /-- R454 -/
  | qpShape (d : Line)
  /-- R467 -/
  | cntCarrelDump (d : Line)
  /-- R466: the event the record describes -/
  | sampleCapture (skid : Nat)
  /-- R480 -/
  | secOwnerBind (d : Line)
  /-- R481 -/
  | secSvnCommit (d : Line)
  /-- R482: `names` says whether the certificate names the identity public key and verifies -/
  | secCertInstall (d : Line) (names : Bool)
  /-- R490 -/
  | fwStage (d : Line)
  /-- R490 -/
  | fwActivate (d : Line)
  /-- R490: the image's bytes -/
  | pldmFwUpdate (image : List Byte)
  /-- R484 -/
  | spdmGetVersion (bus : SpdmBus)
  /-- R484 -/
  | spdmGetCapabilities (bus : SpdmBus)
  /-- R484: whether the requester offers each supported algorithm -/
  | spdmNegotiateAlgorithms (bus : SpdmBus) (hash asym dhe aead : Bool)
  /-- R484 -/
  | spdmGetDigests (bus : SpdmBus)
  /-- R484: certificate slot, offset and length -/
  | spdmGetCertificate (bus : SpdmBus) (slot offset length : Nat)
  /-- R484 -/
  | spdmChallenge (bus : SpdmBus) (slot : Nat) (nonce : BitVec 256)
  /-- R484: index (0xFF all), nonce, and whether a signature is asked for -/
  | spdmGetMeasurements (bus : SpdmBus) (index : Nat) (nonce : BitVec 256) (signed : Bool)
  /-- R485 -/
  | spdmKeyExchange (bus : SpdmBus) (reqId : Nat)
  /-- R484: session and whether the requester's verify data is right -/
  | spdmFinish (bus : SpdmBus) (session : Nat) (ok : Bool)
  /-- R484 -/
  | spdmEndSession (bus : SpdmBus) (session : Nat)
  /-- R484 -/
  | spdmHeartbeat (bus : SpdmBus) (session : Nat)
  /-- R501 -/
  | codexRead (d : Line)
  /-- R503 -/
  | codexClear (d : Line)
  /-- R502: first SEQUENCE and count -/
  | mctpCodexRead (first count : Nat)
  /-- R553 -/
  | mgmtRegRead (offset : Nat)
  /-- R553: offset, value and whether the PEC is right -/
  | mgmtRegWrite (offset : Nat) (v : W64) (pecOk : Bool)
  /-- R523: function of the BAR, offset, width in bytes and value -/
  | registerWrite (fn offset width : Nat) (v : W64)
  /-- R375 -/
  | macLinkUp (k : Nat)
  /-- R397 -/
  | dlUp (width speed : Nat) (flit256 : Bool)
  /-- R386: the device request, and the host's data if the response carries any -/
  | cxlCacheResponse (req : Nat) (data : Option Line)
  /-- R397 -/
  | configWrite (op : ConfigOp)
  /-- R390: whether every stream is then secure -/
  | ideKmKeyProg (session : Nat) (allSecure : Bool)
  /-- R359: MAC index and the transmit timestamp -/
  | macFrameEnd (k : Nat) (stamp : Gtc)
  /-- R506 -/
  | powerOn
  /-- R546 -/
  | fallingSupply
  /-- R510 -/
  | devResetNAssert
  /-- R506 -/
  | dieBridgeTrained
  /-- R506 -/
  | hbmStacksTrained
  /-- R477 -/
  | firmwareStart
  /-- R519 -/
  | bootWatchdogExpiry
  /-- R25 -/
  | fwWatchdogExpiry
  /-- R22 -/
  | firmwareRestartDone
  /-- R551 -/
  | refclkLoss
  /-- R548 -/
  | thermalTrip
  /-- R516 -/
  | bridgeLoss
  /-- R517 -/
  | gtcCopyMismatch
  /-- R519 -/
  | tickMonitorExpiry
  /-- R33 -/
  | folioSizeChange
  /-- R43 -/
  | rootFailover
  /-- R57 -/
  | ppsOutPulse
  /-- R57 -/
  | ppsOutPulseEnd
  /-- R451 -/
  | latticeInjection
  /-- R169 -/
  | epochOldRetire
  /-- R243 -/
  | sharedSlotGrant
  /-- R394 -/
  | dlDown
  /-- R396 -/
  | perstAssert
  /-- R394 -/
  | hotReset
  /-- R381 -/
  | pf0Flr
  /-- R390 -/
  | ideIntegrityFailure
  /-- R463 -/
  | bwWindowClose
  /-- R485 -/
  | spdmResponseNotReady
  /-- R497 -/
  | codexWrite
  /-- R499 -/
  | codexCheckpoint
  /-- R53 -/
  | ppsInEdge
  /-- R554 -/
  | mgmtAlertResponse
  /-- R490: the write of the image has ended -/
  | fwStageDone
deriving DecidableEq, Repr

end Sys2Proof
end

