-- ==== Sys2Proof/WellFormed.lean ====
section
/-! DEFINITION. WellFormed.lean: which operands name units and fields the part has (Table 0.1). A command that is not
well formed cannot arrive; its meaning refuses it as illFormed. -/

namespace Sys2Proof

/-- PF0 or VF1 to VF512 (R381) -/
def wfFn (fn : Nat) : Bool := fn ≤ 512
/-- VF1 to VF512 -/
def wfVf (n : Nat) : Bool := 1 ≤ n && n ≤ 512
/-- doorbell 0 to 65535 (R70) -/
def wfBell (d : Nat) : Bool := d < 65536
/-- a 32-bit ring index (R69) -/
def wfIndex (i : Nat) : Bool := i < 2 ^ 32
/-- lattice port L0 to L7 -/
def wfLat (p : Nat) : Bool := p < 8
/-- plane A or B -/
def wfPlane (p : Nat) : Bool := p < 2
/-- near port N0 to N3 -/
def wfNear (n : Nat) : Bool := n < 4
/-- optical engine OE0 to OE15 -/
def wfEngine (e : Nat) : Bool := e < 16
/-- MAC index 0 to 15 (R353) -/
def wfMac (k : Nat) : Bool := k < 16
/-- priority 0 to 7 -/
def wfPrio (p : Nat) : Bool := p < 8
/-- QP 1 to 1048575 (R97) -/
def wfQp (q : Nat) : Bool := 1 ≤ q && q < 2 ^ 20
/-- granule 0 to 287 (R274) -/
def wfGranule (g : Nat) : Bool := g < 288
/-- physical HBM line (R274) -/
def wfLine (l : Nat) : Bool := l < 288 * 2 ^ 24
/-- HBM stack 0 to 5 -/
def wfStack (n : Nat) : Bool := n < 6
/-- bit of ENG_FENCED: 56 bits (Table 9.8) -/
def wfFence (b : Nat) : Bool := b < 56
/-- 12-bit source number (Table 2.3) -/
def wfSource (x : Nat) : Bool := x < 4096
/-- width, speed and flit mode of a trained host link: 64 GT/s needs 256-byte flits (Tables 14.1, 14.8) -/
def wfLink (width speed : Nat) (flit256 : Bool) : Bool :=
  [1, 2, 4, 8, 16].contains width && 1 ≤ speed && speed ≤ 4 && (flit256 || speed ≤ 3)
/-- PF0 BAR0 offset (R526) -/
def wfOffset (o : Nat) : Bool := o < 2 ^ 25

end Sys2Proof
end

