-- ==== Sys2Proof/Decode.lean ====
section
/-! DEFINITION. Decode.lean: the command a word spells by the opcode table's bits. No row of spec/opcode_table.json gives
bits: commands come as operands of Instr, and no word spells one (assumption log 1). -/

namespace Sys2Proof

/-- The table's rows that give bits: none, so no word of any length spells a command. -/
def decodeTableWord (_nbits _w : Nat) : Option Instr := none

end Sys2Proof
end

