-- ==== Sys2Proof/Machine/Bits.lean ====
section
/-! DEFINITION. Bits.lean: bit fields, bytes in the little-endian order of R2, sparse tables, and the sorted byte list
that HBM is kept in. -/

namespace Sys2Proof.Machine

/-- The `w` bits of `x` from bit `lo` up, as a number (R2). -/
def fld {n : Nat} (x : BitVec n) (lo w : Nat) : Nat := (x.extractLsb' lo w).toNat

/-- Bit `i` of `x`. -/
def bitAt {n : Nat} (x : BitVec n) (i : Nat) : Bool := x.getLsbD i

/-- The field [w - 1 : 0] at byte offset `off`, bit `lo`, of a 64-byte structure. -/
def dfld (d : Line) (off lo w : Nat) : Nat := fld d (8 * off + lo) w

/-- Bit `lo` of the byte at offset `off`. -/
def dbit (d : Line) (off lo : Nat) : Bool := bitAt d (8 * off + lo)

/-- `v` placed in a field of `w` bits at bit `lo` of an `n`-bit word. -/
def place (n lo w v : Nat) : BitVec n := (BitVec.ofNat w v).setWidth n <<< lo

/-- A word built from (low bit, width, value) fields. -/
def layout (n : Nat) (fs : List (Nat × Nat × Nat)) : BitVec n :=
  fs.foldl (fun x f => x ||| place n f.1 f.2.1 f.2.2) 0

/-- `x` with the field of `w` bits at `lo` replaced. -/
def setFld {n : Nat} (x : BitVec n) (lo w v : Nat) : BitVec n :=
  (x &&& ~~~ (place n lo w (2 ^ w - 1))) ||| place n lo w v

/-- A Bool as a bit. -/
def b2n (b : Bool) : Nat := if b then 1 else 0

/-- The bytes of `x`, lowest first (R2). -/
def bytesOf {n : Nat} (x : BitVec n) : List Byte := (List.range (n / 8)).map fun i => x.extractLsb' (8 * i) 8

/-- The number a byte string spells, lowest byte first. -/
def natOf (bs : List Byte) : Nat := bs.foldr (fun b n => b.toNat + 256 * n) 0

/-- The `n`-bit word a byte string spells. -/
def ofBytes (n : Nat) (bs : List Byte) : BitVec n := BitVec.ofNat n (natOf bs)

/-- The little-endian bytes of a number in `k` bytes. -/
def leBytes (k v : Nat) : List Byte := bytesOf (BitVec.ofNat (8 * k) v)

/-- `bs` cut or padded with zeros to `n` bytes. -/
def padTo (n : Nat) (bs : List Byte) : List Byte := (bs ++ List.replicate (n - bs.length) 0).take n

/-- Value of `t` at `k`, or `d`. -/
def tget {α : Type} (t : Tbl α) (k : Nat) (d : α) : α := (t.lookup k).getD d

/-- `t` with `v` at `k`, keys rising. -/
def tput {α : Type} : Tbl α → Nat → α → Tbl α
  | [], k, v => [(k, v)]
  | (j, w) :: t, k, v => if k < j then (k, v) :: (j, w) :: t else if k = j then (k, v) :: t else (j, w) :: tput t k v

/-- `t` without `k`. -/
def tdel {α : Type} (t : Tbl α) (k : Nat) : Tbl α := t.filter fun e => e.1 ≠ k

/-- `t` with the entry at `k`, if any, changed. -/
def tupd {α : Type} (t : Tbl α) (k : Nat) (f : α → α) : Tbl α := t.map fun e => if e.1 = k then (e.1, f e.2) else e

/-- `t` with the value at `k`, default `d`, changed. -/
def tmod {α : Type} (t : Tbl α) (k : Nat) (d : α) (f : α → α) : Tbl α := tput t k (f (tget t k d))

/-- `t` with every value changed. -/
def tmap {α : Type} (t : Tbl α) (f : Nat → α → α) : Tbl α := t.map fun e => (e.1, f e.1 e.2)

/-- Element `i` of a list, or `d`. -/
def lget {α : Type} (l : List α) (i : Nat) (d : α) : α := l.getD i d

/-- `l` with element `i` changed. -/
def lmod {α : Type} (l : List α) (i : Nat) (f : α → α) : List α := l.modify i f

/-- A byte of a sorted byte list; an unlisted address reads 0 (R275; log 5). -/
def memRead (m : List (Nat × Byte)) (a : Nat) : Byte := (m.lookup a).getD 0

/-- Write one byte, keeping the canonical form: keys rising, no byte 0 listed. -/
def memWrite : List (Nat × Byte) → Nat → Byte → List (Nat × Byte)
  | [], a, v => if v = 0 then [] else [(a, v)]
  | (j, w) :: m, a, v =>
    if a < j then (if v = 0 then (j, w) :: m else (a, v) :: (j, w) :: m)
    else if a = j then (if v = 0 then m else (a, v) :: m)
    else (j, w) :: memWrite m a v

/-- Apply a write log, newest first. -/
def memApply (m : List (Nat × Byte)) (log : List (Nat × Byte)) : List (Nat × Byte) :=
  log.foldr (fun e m => memWrite m e.1 e.2) m

/-- The canonical form: addresses strictly rising and no byte equal to what an unlisted address reads as. -/
def Memory.wf : List (Nat × Byte) → Bool
  | [] => true
  | [e] => e.2 ≠ 0
  | e :: f :: m => e.2 ≠ 0 && decide (e.1 < f.1) && Memory.wf (f :: m)

/-- `a` put before the first element it may precede. -/
def sortInto {α : Type} (le : α → α → Bool) (a : α) : List α → List α
  | [] => [a]
  | x :: xs => if le a x then a :: x :: xs else x :: sortInto le a xs

/-- `l` in the order of `le`; elements that neither precedes keep theirs. -/
def sortBy {α : Type} (le : α → α → Bool) (l : List α) : List α := l.foldr (sortInto le) []

/-- A 32-bit index difference `a - b` (R69). -/
def sub32 (a b : Nat) : Nat := (a + 2 ^ 32 - b % 2 ^ 32) % 2 ^ 32

/-- `v` held at `m` when it passes it. -/
def sat (m v : Nat) : Nat := if v > m then m else v

/-- n / d rounded half to even. -/
def divEven (n : Int) (d : Nat) : Int :=
  let q := n / (d : Int)
  let r := (n % (d : Int)).toNat
  if 2 * r > d || (2 * r = d && q % 2 = 1) then q + 1 else q

/-- Ceiling division. -/
def cdiv (a b : Nat) : Nat := (a + b - 1) / b

end Sys2Proof.Machine
end

