-- ==== Sys2Proof/Machine/Formats.lean ====
section
/-! DEFINITION. Formats.lean: the fifteen number formats, tensor images, conversion, the anchor and reduction, sparse
images (R199 to R221, R266 to R268). -/

namespace Sys2Proof.Machine

/-! ## Formats (Table 7.1) -/

/-- A format: width, block length (0 for one scale a tensor or none), magnitude bits, signed; I32 has no scale. -/
structure Fmt where
  width : Nat
  block : Nat
  mag : Nat
  signed : Bool
  scaled : Bool
deriving DecidableEq, Repr

/-- The format of a code; 0xF is reserved (R201). -/
def fmtOf (code : Nat) : Option Fmt :=
  match code with
  | 0x0 => some ⟨4, 32, 3, true, true⟩
  | 0x1 => some ⟨4, 16, 3, true, true⟩
  | 0x2 => some ⟨4, 32, 4, false, true⟩
  | 0x3 => some ⟨2, 64, 1, true, true⟩
  | 0x4 => some ⟨6, 32, 5, true, true⟩
  | 0x5 => some ⟨8, 32, 7, true, true⟩
  | 0x6 => some ⟨8, 128, 7, true, true⟩
  | 0x7 => some ⟨8, 0, 7, true, true⟩
  | 0x8 => some ⟨8, 0, 8, false, true⟩
  | 0x9 => some ⟨12, 64, 11, true, true⟩
  | 0xA => some ⟨16, 64, 15, true, true⟩
  | 0xB => some ⟨16, 0, 15, true, true⟩
  | 0xC => some ⟨24, 0, 23, true, true⟩
  | 0xD => some ⟨32, 0, 31, true, false⟩
  | 0xE => some ⟨48, 64, 47, true, true⟩
  | _ => none

/-- A per-tensor format. -/
def Fmt.tensor (f : Fmt) : Bool := f.block = 0 && f.scaled

/-- The unit of a reduction and of the SPX engine: the block, or 64 elements (R214, R268). -/
def Fmt.unit (f : Fmt) : Nat := if f.block = 0 then 64 else f.block

/-- Largest and least output element (Table 7.1). -/
def Fmt.qmax (f : Fmt) : Int := 2 ^ f.mag - 1
def Fmt.qmin (f : Fmt) : Int := if f.signed then -f.qmax else 0

/-- Elements an image of COUNT elements holds (R204). -/
def Fmt.slots (f : Fmt) (count : Nat) : Nat := if f.block = 0 then count else cdiv count f.block * f.block

/-- Plane lengths (Table 7.2). -/
def Fmt.lenE (f : Fmt) (count : Nat) : Nat := f.slots count * f.width / 8
def Fmt.lenS (f : Fmt) (count : Nat) : Nat :=
  if f.block ≠ 0 then cdiv count f.block else if f.scaled then 1 else 0
def Fmt.lenImage (f : Fmt) (count : Nat) : Nat := f.lenE count + f.lenS count

/-- The element count whose image has `len` bytes, a whole number of blocks for block formats (R205); zero bytes hold
no element (R257). -/
def Fmt.countOf (f : Fmt) (len : Nat) : Option Nat :=
  if len = 0 then some 0
  else if f.block ≠ 0 then
    let b := f.width * f.block / 8 + 1
    if len % b = 0 then some (len / b * f.block) else none
  else if f.scaled then if (len - 1) * 8 % f.width = 0 then some ((len - 1) * 8 / f.width) else none
  else if len % 4 = 0 then some (len / 4) else none

/-! ## Packing (R202, R203) -/

/-- Pieces of `n` of a list. -/
def chunks {α : Type} (n : Nat) : Nat → List α → List (List α)
  | 0, _ => []
  | fuel + 1, l => if l.isEmpty || n = 0 then [] else l.take n :: chunks n fuel (l.drop n)

/-- All pieces of `n` of a list. -/
def pieces {α : Type} (n : Nat) (l : List α) : List (List α) := chunks n (l.length + 1) l

/-- The value of a `w`-bit code; T2's 0b10 reads 0 (R202). -/
def decodeElem (f : Fmt) (v : Nat) : Int :=
  let x : Int := if f.signed && v ≥ 2 ^ (f.width - 1) then (v : Int) - 2 ^ f.width else v
  if f.width = 2 && x = -2 then 0 else x

/-- Elements of a packed plane, at most `count`; 16 elements are 2 * w bytes. -/
def unpackElems (f : Fmt) (bs : List Byte) (count : Nat) : List Int :=
  ((pieces (2 * f.width) bs).flatMap fun c =>
    let n := natOf c
    (List.range 16).map fun i => decodeElem f (n / 2 ^ (f.width * i) % 2 ^ f.width)).take count

/-- The `w`-bit code of an element. -/
def encodeElem (w : Nat) (q : Int) : Nat := (q % 2 ^ w).toNat

/-- Packed bytes of elements of width `w`, the last byte padded with zeros. -/
def packElems (w : Nat) (qs : List Int) : List Byte :=
  ((pieces 16 qs).flatMap fun c =>
    leBytes (2 * w) (c.foldr (fun q n => encodeElem w q + 2 ^ w * n) 0)).take (cdiv (qs.length * w) 8)

/-! ## Images -/

/-- A dense image: its elements and the scale of each block; a per-tensor image has one scale, and an I32 image 127 for
every 64 elements. -/
structure Image where
  fmt : Fmt
  elems : List Int
  scales : List Nat
deriving DecidableEq, Repr

/-- Scale of element `i`. -/
def Image.scale (m : Image) (i : Nat) : Nat :=
  if m.fmt.tensor then lget m.scales 0 0 else lget m.scales (i / m.fmt.unit) 0

/-- A byte range that lies in a poisoned one. -/
def touches (bad : List (Nat × Nat)) (lo n : Nat) : Bool := bad.any fun r => r.1 < lo + n && lo < r.1 + r.2

/-- Read an image of `count` elements: every block that touches a poisoned range has scale 0xFF (R213, Table 21.4). -/
def readImage (f : Fmt) (count : Nat) (bs : List Byte) (bad : List (Nat × Nat)) : Image :=
  let le := f.lenE count
  let elems := unpackElems f (bs.take le) (f.slots count)
  let unitBytes := f.unit * f.width / 8
  let raw := if f.scaled then (bs.drop le).map (·.toNat) else List.replicate (cdiv count 64) 127
  let scales :=
    if f.tensor then [if touches bad 0 (le + 1) then 0xFF else lget raw 0 0]
    else raw.zipIdx.map fun x =>
      if touches bad (x.2 * unitBytes) (min unitBytes (le - x.2 * unitBytes)) || (f.scaled && touches bad (le + x.2) 1)
      then 0xFF else x.1
  ⟨f, elems, scales⟩

/-- Read an image for a reduction: a per-tensor image has one scale for every reduction block (R214), and a poisoned line takes
the blocks that touch it, or all of them where it holds the scale (R221, Table 21.4). -/
def redImage (f : Fmt) (count : Nat) (bs : List Byte) (bad : List (Nat × Nat)) : Image :=
  if !f.tensor then readImage f count bs bad
  else
    let le := f.lenE count
    let unitBytes := f.unit * f.width / 8
    let scale := if touches bad le 1 then 0xFF else ((bs.drop le).headD 0).toNat
    ⟨f, unpackElems f (bs.take le) (f.slots count), (List.range (cdiv (f.slots count) f.unit)).map fun u =>
      if touches bad (u * unitBytes) (min unitBytes (le - u * unitBytes)) then 0xFF else scale⟩

/-- T2 codes 0b10 among the elements a packed plane holds: format errors (R202). -/
def badCodes (f : Fmt) (bs : List Byte) (count : Nat) : Nat :=
  if f.width ≠ 2 then 0
  else ((bs.flatMap fun b => (List.range 4).map fun i => b.toNat / 4 ^ i % 4).take count).countP (· = 2)

/-- An exact value q * 2^x, or none for one that a poisoned block leaves without value. -/
abbrev Val := Option (Int × Int)

/-- The exact values of an image (R199, R200). -/
def Image.vals (m : Image) : List Val :=
  m.elems.zipIdx.map fun x =>
    let e := m.scale x.2
    if e = 0xFF then none else if e = 0 then some (0, 0) else some (x.1, (e : Int) - 127)

/-! ## Conversion (R208 to R212) -/

/-- n * 2^s rounded to the nearest integer, halves to even (R209). -/
def rneScale (n s : Int) : Int := if s ≥ 0 then n * 2 ^ s.toNat else divEven n (2 ^ (-s).toNat)

/-- An output block: its scale, its elements, saturation and poison. -/
structure OutBlock where
  e8 : Nat
  qs : List Int
  ovf : Bool
  poison : Bool
deriving DecidableEq, Repr

/-- Least exponent of the values that are not zero. -/
def leastExp (vs : List (Int × Int)) : Int :=
  ((vs.filter fun v => v.1 ≠ 0).map (·.2)).foldl (fun m x => match m with | none => some x | some y => some (min x y))
    (none : Option Int) |>.getD 0

/-- Elements of a block at scale `e`, clamped; the flag says one saturated or a negative value met an unsigned format. -/
def quantise (f : Fmt) (ns : List Int) (x0 e : Int) : List Int × Bool :=
  let qs := ns.map fun n => rneScale n (x0 + 127 - e)
  (qs.map fun q => max f.qmin (min f.qmax q), qs.any fun q => q > f.qmax || q < f.qmin)

/-- The block of R208; `target` fixes the scale (R266 REQUANTISE). -/
def convBlock (f : Fmt) (vals : List Val) (target : Option Nat := none) : OutBlock :=
  if vals.any (·.isNone) then ⟨0xFF, vals.map fun _ => 0, false, true⟩
  else
    let vs := vals.filterMap id
    let x0 := leastExp vs
    let ns := vs.map fun v => if v.1 = 0 then 0 else v.1 * 2 ^ (v.2 - x0).toNat
    let neg := !f.signed && ns.any (· < 0)
    let u := ns.foldl (fun m n => max m (if f.signed then (n.natAbs : Int) else max n 0)) 0
    match (if f.scaled then target else some 127) with
    | some e =>
      let r := quantise f ns x0 e
      ⟨if r.1.all (· = 0) then 0 else e, r.1, r.2 || neg, false⟩
    | none =>
      if u = 0 then ⟨0, ns.map fun _ => 0, neg, false⟩
      else
        let t : Int := Nat.log2 u.natAbs + x0
        let e := min 254 (max 1 (t + 128 - f.mag))
        let big := rneScale u (x0 + 127 - e)
        let e := if e < 254 && big > f.qmax then e + 1 else e
        let r := quantise f ns x0 e
        ⟨if r.1.all (· = 0) then 0 else e.toNat, r.1, r.2 || neg, false⟩

/-- Values grouped into the output blocks of a format: a block, the whole tensor, or each element alone (R208). -/
def outGroups (f : Fmt) (vals : List Val) : List (List Val) :=
  if f.block ≠ 0 then (pieces f.block vals).map fun g => g ++ List.replicate (f.block - g.length) (some (0, 0))
  else if f.scaled then [vals]
  else vals.map fun v => [v]

/-- All output blocks of a conversion. -/
def convert (f : Fmt) (vals : List Val) (target : Option Nat := none) : List OutBlock :=
  (outGroups f vals).map fun g => convBlock f g target

/-- The bytes of an image made of output blocks: element plane, then scale plane. -/
def imageBytes (f : Fmt) (bs : List OutBlock) : List Byte :=
  packElems f.width (bs.flatMap (·.qs)) ++ (if f.scaled then bs.map fun b => BitVec.ofNat 8 b.e8 else [])

/-- EXPONENT_SCAN: the scales, then the largest (R266). -/
def scanBytes (f : Fmt) (bs : List OutBlock) : List Byte :=
  let es := bs.map fun b => if b.poison then 0xFF else b.e8
  let es := if f.tensor then es.take 1 else es
  (es ++ [es.foldl max 0]).map fun e => BitVec.ofNat 8 e

/-- The transpose of a row-major matrix. -/
def transpose (rows cols : Nat) (qs : List Int) : List Int :=
  (List.range cols).flatMap fun c => (List.range rows).map fun r => lget qs (r * cols + c) 0

/-! ## Anchor and reduction (R214 to R219) -/

/-- ⌈log2 n⌉. -/
def clog2 (n : Nat) : Nat := if n ≤ 1 then 0 else Nat.log2 (n - 1) + 1

/-- The anchor of a block (R216): `g` is 0 for a maximum. -/
def anchor (f : Fmt) (emax g : Nat) : Int := (emax : Int) - (46 - (f.width : Int) - g)

/-- A member's contribution at the anchor (R217). -/
def contribution (q : Int) (e : Nat) (a : Int) : Int := if e = 0 then 0 else rneScale q ((e : Int) - a)

/-- Scale of a reduction block of an image read for a reduction. -/
def Image.redScale (m : Image) (blk : Nat) : Nat := lget m.scales blk 0

/-- Local reduction of images of one format (R269): exact values of every element position. -/
def reduceVals (f : Fmt) (isMax : Bool) (ms : List Image) (slots : Nat) : List Val :=
  let g := if isMax then 0 else clog2 ms.length
  (List.range slots).map fun i =>
    let es := ms.map fun m => m.redScale (i / f.unit)
    let emax := es.foldl max 0
    if emax = 0xFF then none
    else if emax = 0 then some (0, 0)
    else
      let a := anchor f emax g
      let cs := ms.map fun m => contribution (lget m.elems i 0) (m.redScale (i / f.unit)) a
      let v := if isMax then cs.tail.foldl max (cs.headD 0) else cs.sum
      some (v, a - 127)

/-! ## Sparse images (R267, R268) -/

/-- The sparse image of dense elements (Table 9.5); `code` is the format code. -/
def sparseBytes (f : Fmt) (code count : Nat) (elems : List Int) (scales : List Nat) : List Byte :=
  let bits : List Bool := elems.map fun q => decide (q ≠ 0)
  let nz := elems.filter fun q => q ≠ 0
  let bitmap := (pieces 8 bits).map fun c => BitVec.ofNat 8 (c.foldr (fun (b : Bool) n => b2n b + 2 * n) 0)
  leBytes 4 count ++ leBytes 4 nz.length ++ leBytes 8 code ++ bitmap ++ packElems f.width nz ++
    (if f.scaled then scales.map fun e => BitVec.ofNat 8 e else [])

/-- Length of a sparse image of `nnz` elements kept. -/
def sparseLen (f : Fmt) (count nnz : Nat) : Nat :=
  16 + cdiv (f.slots count) 8 + cdiv (nnz * f.width) 8 + f.lenS count

/-- Read a sparse image: the dense elements and scales, none where the check of R268 fails. -/
def readSparse (bs : List Byte) (bad : List (Nat × Nat)) : Option (Nat × Fmt × Nat × List Int × List Nat) :=
  let count := natOf (bs.take 4)
  let nnz := natOf ((bs.drop 4).take 4)
  let code := natOf ((bs.drop 8).take 1) % 16
  match fmtOf code with
  | none => none
  | some f =>
    if bs.length < 16 || touches bad 0 16 || bs.length < sparseLen f count nnz then none
    else
      let d := f.slots count
      let bitmap := ((bs.drop 16).take (cdiv d 8)).flatMap fun b => (List.range 8).map fun i => b.getLsbD i
      let bits := bitmap.take d
      if (bits.filter id).length ≠ nnz then none
      else
        let at_ := 16 + cdiv d 8
        let vals := unpackElems f ((bs.drop at_).take (cdiv (nnz * f.width) 8)) nnz
        let elems := (bits.foldl (fun (acc : List Int × List Int) b =>
          if b then (acc.1 ++ [acc.2.headD 0], acc.2.tail) else (acc.1 ++ [0], acc.2)) (([] : List Int), vals)).1
        let sAt := at_ + cdiv (nnz * f.width) 8
        let scales := ((bs.drop sAt).take (f.lenS count)).map (·.toNat)
        -- units whose bitmap, values or scale lie in a poisoned range are poisoned (Table 21.4)
        let unit := f.unit
        let before (u : Nat) : Nat := ((bits.take (u * unit)).filter id).length
        let hit (u : Nat) : Bool :=
          touches bad (16 + u * unit / 8) (cdiv unit 8) ||
          touches bad (at_ + before u * f.width / 8) (cdiv (before (u + 1) * f.width) 8 - before u * f.width / 8) ||
          (f.scaled && touches bad (sAt + (if f.tensor then 0 else u)) 1)
        let units := cdiv d unit
        let scales := if f.tensor then [if (List.range units).any hit then 0xFF else lget scales 0 0]
          else if f.scaled then scales.zipIdx.map fun x => if hit x.2 then 0xFF else x.1
          else (List.range units).map fun u => if hit u then 0xFF else 127
        some (count, f, code, elems, scales)

/-- Scales of units for the SPX operations. -/
def unitScale (f : Fmt) (scales : List Nat) (u : Nat) : Nat := if f.tensor then lget scales 0 0 else lget scales u 0

/-- Elements with those of poisoned units, or of zero units, as 0 (R200, R268). -/
def cleanUnits (f : Fmt) (elems : List Int) (scales : List Nat) : List Int :=
  elems.zipIdx.map fun x =>
    let e := unitScale f scales (x.2 / f.unit)
    if e = 0xFF || (f.scaled && e = 0) then 0 else x.1

/-- A unit has scale 0xFF. -/
def anyPoison (scales : List Nat) : Bool := scales.contains 0xFF

/-- Positions kept by TOPK in a unit: the `k` largest, ties to the lower index, zeros never (R268). -/
def topk (signed : Bool) (k : Nat) (qs : List Int) : List Int :=
  let key (q : Int) : Int := if signed then q.natAbs else q
  let order := sortBy (fun a b => key a.1 > key b.1 || (key a.1 = key b.1 && a.2 ≤ b.2))
    (qs.zipIdx.filter fun x => x.1 ≠ 0)
  let kept := (order.take k).map (·.2)
  qs.zipIdx.map fun x => if kept.contains x.2 then x.1 else 0

/-- TOPK over every unit. -/
def topkUnits (f : Fmt) (k : Nat) (elems : List Int) : List Int :=
  (pieces f.unit elems).flatMap fun u => topk f.signed k u

end Sys2Proof.Machine
end

