-- ==== Sys2Proof/Machine/Aes.lean ====
section
/-! DEFINITION. Aes.lean: AES-256 with its GCM and XTS modes, which R140, R285 and R287 name by standard. PRESUMED from
FIPS 197, NIST SP 800-38D and IEEE 1619 (assumption log 9). -/

namespace Sys2Proof.Machine

/-- Multiplication by x in GF(2^8). -/
def xtime (b : Byte) : Byte := if b.getLsbD 7 then (b <<< 1) ^^^ 0x1B else b <<< 1

/-- Product in GF(2^8). -/
def gmul (a b : Byte) : Byte :=
  ((List.range 8).foldl (fun (acc : Byte × Byte) i =>
    (if b.getLsbD i then acc.1 ^^^ acc.2 else acc.1, xtime acc.2)) (0, a)).1

/-- Inverse in GF(2^8), a^254. -/
def ginv (a : Byte) : Byte :=
  let a2 := gmul a a
  let a4 := gmul a2 a2
  let a8 := gmul a4 a4
  let a16 := gmul a8 a8
  let a32 := gmul a16 a16
  let a64 := gmul a32 a32
  let a128 := gmul a64 a64
  gmul a2 (gmul a4 (gmul a8 (gmul a16 (gmul a32 (gmul a64 a128)))))

/-- The S-box. -/
def sbox (a : Byte) : Byte :=
  let b := ginv a
  b ^^^ b.rotateLeft 1 ^^^ b.rotateLeft 2 ^^^ b.rotateLeft 3 ^^^ b.rotateLeft 4 ^^^ 0x63

/-- A byte's inverse under the S-box's affine map, then in the field. -/
def sboxInv (a : Byte) : Byte := ginv (a.rotateLeft 1 ^^^ a.rotateLeft 3 ^^^ a.rotateLeft 6 ^^^ 0x05)

def xorBytes (a b : List Byte) : List Byte := List.zipWith (· ^^^ ·) a b

/-- Round constants of the key schedule. -/
def rcon : Nat → Byte
  | 0 => 1
  | n + 1 => xtime (rcon n)

/-- Key schedule: words of four bytes, newest first, extended by `n` words from word number `i`. -/
def aesExtend : Nat → Nat → List (List Byte) → List (List Byte)
  | 0, _, ws => ws
  | n + 1, i, ws =>
    let t := ws.getD 0 []
    let t := if i % 8 = 0 then
        match (t.drop 1 ++ t.take 1).map sbox with
        | b :: r => (b ^^^ rcon (i / 8 - 1)) :: r
        | [] => []
      else if i % 8 = 4 then t.map sbox else t
    aesExtend n (i + 1) (xorBytes (ws.getD 7 []) t :: ws)

/-- The 15 round keys of a 32-byte key. -/
def aesKeys (key : List Byte) : List (List Byte) :=
  let ws := (aesExtend 52 8 ((List.range 8).map fun i => (key.drop (4 * i)).take 4).reverse).reverse
  (List.range 15).map fun r => ((ws.drop (4 * r)).take 4).flatten

def shiftRows (b : List Byte) : List Byte :=
  [0, 5, 10, 15, 4, 9, 14, 3, 8, 13, 2, 7, 12, 1, 6, 11].map fun i => b.getD i 0

def unshiftRows (b : List Byte) : List Byte :=
  [0, 13, 10, 7, 4, 1, 14, 11, 8, 5, 2, 15, 12, 9, 6, 3].map fun i => b.getD i 0

/-- A column times the circulant matrix of `m`. -/
def mixCol (m : List Byte) (c : List Byte) : List Byte :=
  (List.range 4).map fun r => (List.range 4).foldl (fun x i => x ^^^ gmul (m.getD ((i + 4 - r) % 4) 0) (c.getD i 0)) 0

def mixCols (m : List Byte) (b : List Byte) : List Byte :=
  (List.range 4).flatMap fun c => mixCol m ((b.drop (4 * c)).take 4)

/-- AES-256 encryption of a 16-byte block under its round keys. -/
def aesEnc (ks : List (List Byte)) (b : List Byte) : List Byte :=
  let b := (List.range 13).foldl (fun b r =>
    xorBytes (mixCols [2, 3, 1, 1] (shiftRows (b.map sbox))) (ks.getD (r + 1) [])) (xorBytes b (ks.getD 0 []))
  xorBytes (shiftRows (b.map sbox)) (ks.getD 14 [])

/-- AES-256 decryption of a block. -/
def aesDec (ks : List (List Byte)) (b : List Byte) : List Byte :=
  let b := (List.range 13).foldl (fun b r =>
    mixCols [14, 11, 13, 9] (xorBytes ((unshiftRows b).map sboxInv) (ks.getD (13 - r) []))) (xorBytes b (ks.getD 14 []))
  xorBytes ((unshiftRows b).map sboxInv) (ks.getD 0 [])

/-- A big-endian 128-bit number. -/
def be128 (bs : List Byte) : BitVec 128 := ofBytes 128 bs.reverse
def be128Bytes (x : BitVec 128) : List Byte := (bytesOf x).reverse

/-- Product in the field of GHASH. -/
def ghashMul (x y : BitVec 128) : BitVec 128 :=
  ((List.range 128).foldl (fun (acc : BitVec 128 × BitVec 128) i =>
    (if x.getLsbD (127 - i) then acc.1 ^^^ acc.2 else acc.1,
     if acc.2.getLsbD 0 then (acc.2 >>> 1) ^^^ (0xE1#128 <<< 120) else acc.2 >>> 1)) (0, y)).1

/-- Cut into 16-byte blocks, the last one zero padded. -/
def blocks16 : Nat → List Byte → List (List Byte)
  | 0, _ => []
  | n + 1, bs => if bs = [] then [] else padTo 16 bs :: blocks16 n (bs.drop 16)

def ghash (h : BitVec 128) (bs : List (List Byte)) : BitVec 128 :=
  bs.foldl (fun y b => ghashMul (y ^^^ be128 b) h) 0

/-- The counter-mode key stream over `pt` from counter block `iv ‖ ctr`. -/
def gcmCtr (ks : List (List Byte)) (iv : List Byte) : Nat → Nat → List Byte → List Byte
  | 0, _, _ => []
  | n + 1, ctr, pt =>
    if pt = [] then [] else
      xorBytes (pt.take 16) (aesEnc ks (iv ++ (leBytes 4 ctr).reverse)) ++ gcmCtr ks iv n (ctr + 1) (pt.drop 16)

/-- Tag of AES-256-GCM over additional data and ciphertext. -/
def gcmTag (ks : List (List Byte)) (iv aad ct : List Byte) : List Byte :=
  let h := be128 (aesEnc ks (List.replicate 16 0))
  let lens := (leBytes 8 (8 * aad.length)).reverse ++ (leBytes 8 (8 * ct.length)).reverse
  let s := ghash h (blocks16 (aad.length + 1) aad ++ blocks16 (ct.length + 1) ct ++ [lens])
  xorBytes (be128Bytes s) (aesEnc ks (iv ++ [0, 0, 0, 1]))

/-- AES-256-GCM encryption with a 12-byte IV: ciphertext and tag. -/
def gcmSeal (key iv aad pt : List Byte) : List Byte × List Byte :=
  let ks := aesKeys key
  let ct := gcmCtr ks iv (pt.length / 16 + 1) 2 pt
  (ct, gcmTag ks iv aad ct)

/-- AES-256-GCM decryption: the plaintext, none where the tag is wrong. -/
def gcmOpen (key iv aad ct tag : List Byte) : Option (List Byte) :=
  let ks := aesKeys key
  if gcmTag ks iv aad ct = tag then some (gcmCtr ks iv (ct.length / 16 + 1) 2 ct) else none

/-- Multiplication by x of an XTS tweak (IEEE 1619). -/
def xtsNext (t : List Byte) : List Byte :=
  let x := ofBytes 128 t
  bytesOf (if x.getLsbD 127 then (x <<< 1) ^^^ 0x87#128 else x <<< 1)

/-- XTS over whole 16-byte blocks of one data unit, from tweak `t`. -/
def xtsBlocks (enc : Bool) (ks : List (List Byte)) : Nat → List Byte → List Byte → List Byte
  | 0, _, _ => []
  | n + 1, t, bs =>
    if bs = [] then [] else
      let x := xorBytes (bs.take 16) t
      xorBytes (if enc then aesEnc ks x else aesDec ks x) t ++ xtsBlocks enc ks n (xtsNext t) (bs.drop 16)

/-- XTS-AES-256 of one data unit: a 64-byte key, data key first, and a 16-byte tweak. -/
def xtsUnit (enc : Bool) (key tweak bs : List Byte) : List Byte :=
  xtsBlocks enc (aesKeys (key.take 32)) (bs.length / 16 + 1) (aesEnc (aesKeys (key.drop 32)) tweak) bs

end Sys2Proof.Machine
end

