-- ==== Sys2Proof/Config.lean ====
section
/-! DEFINITION. Config.lean: what the spec leaves open, as constants with no body. Nothing can be proved of a value of
theirs; a statement that holds with them holds whatever they are. -/

namespace Sys2Proof.Config

/-- A fresh free value of `w` bits: applied to the state's counter `draws` (assumption log 6). -/
opaque freeBits (w : Nat) : Nat → BitVec w

/-- SLH-DSA-SHA2-128s verification of a signature by a public key over a message (R472): the spec names the scheme,
the model leaves it uninterpreted (assumption log 10). -/
opaque slhDsaVerify (key msg sig : List Byte) : Bool

/-- A public key's private side signs a message: bytes of the signature (R472; assumption log 10). -/
opaque slhDsaSign (keyHash : BitVec 256) (msg : List Byte) : List Byte

/-- Bytes of the certificates and of SPDM messages the spec gives no layout for (R482, R484; assumption log 11). -/
opaque spdmBytes (code : Nat) (arg : List Nat) : List Byte

/-- VENDOR_ROOT_HASH as fused (R471). -/
opaque vendorRootHash : BitVec 256

/-- Identity and attestation public keys the block derives from DEVICE_SEED (R472). -/
opaque identityKey : List Byte
opaque attestationKey : BitVec 256

/-- Size of the rate correction, in 2^-16 units a crossbar cycle, for an offset in 1/16 GTC unit (R47: limited to
±100 ppm, otherwise not given). -/
opaque slewRate : Nat → Nat

/-- The base path of a flow of a set crosses a link: SET_ID, flow, link. An adapter's image shows it only at the link's ends
and where a section for the link moves the flow (R183 to R185, R194). -/
opaque pathCrosses (set flow link : Nat) : Bool

/-- What a step of the LMS loop adds to a tap of a receive lane (R341: the gradients are the lane's signals): draw, lane,
tap, and the uncorrectable codewords left out of the gradient. -/
opaque lmsStep (draw lane tap excluded : Nat) : Int

/-- The part of a copy that a line of its carrel's transport area holds, if it holds one: physical line, and what tells the copy
(R428 gives copies the area and no addresses; assumption log 136). -/
opaque copyPart (line : Nat) (copy : List Nat) : Option Nat

end Sys2Proof.Config
end

