-- ==== Sys2Proof/Machine/Crypto.lean ====
section
/-! DEFINITION. Crypto.lean: the functions the spec names by standard: the Castagnoli CRC (R155) and SHA-256 (R498).
SHA-256 is PRESUMED from FIPS 180-4 (assumption log 9). -/

namespace Sys2Proof.Machine

/-- One step of the reflected Castagnoli CRC. -/
def crcStep (c : BitVec 32) : BitVec 32 := if c.getLsbD 0 then (c >>> 1) ^^^ 0x82F63B78 else c >>> 1

/-- One byte into the running CRC. -/
def crcByte (c : BitVec 32) (b : Byte) : BitVec 32 :=
  let x := c ^^^ b.setWidth 32
  crcStep (crcStep (crcStep (crcStep (crcStep (crcStep (crcStep (crcStep x)))))))

/-- CRC-32C: initial value and final XOR all ones (R155). -/
def crc32c (bs : List Byte) : BitVec 32 := ~~~ (bs.foldl crcByte 0xFFFFFFFF)

/-! SHA-256: its constants are fractional parts of roots of the first primes, computed here as FIPS 180-4 defines them. -/

/-- The largest number of at most `bits` bits whose `e`-th power, scaled by that of `r`, does not exceed `n`. -/
def rootFrom (e n : Nat) : Nat → Nat → Nat
  | 0, r => r
  | bits + 1, r => rootFrom e n bits (if (r + 2 ^ bits) ^ e ≤ n then r + 2 ^ bits else r)

/-- The first 32 bits of the fractional part of the `e`-th root of `p`. -/
def rootFraction (e p : Nat) : BitVec 32 := BitVec.ofNat 32 (rootFrom e (p * 2 ^ (32 * e)) 37 0)

/-- The first 64 primes. -/
def shaPrimes : List Nat := (List.range 312).filter fun p => 2 ≤ p && (List.range 18).all fun q => q < 2 || q = p || p % q ≠ 0

/-- One constant for each of the 64 rounds, and the eight words a hash starts from. -/
def shaConstants : List (BitVec 32) := shaPrimes.map (rootFraction 3)
def shaStart : List (BitVec 32) := (shaPrimes.take 8).map (rootFraction 2)

/-- A word XORed over two rotations of it and a third form of it. -/
def mix (x : BitVec 32) (i j : Nat) (y : BitVec 32) : BitVec 32 := x.rotateRight i ^^^ (x.rotateRight j ^^^ y)

/-- The word that follows a window of sixteen of the message schedule. -/
def scheduleNext (w : List (BitVec 32)) : BitVec 32 :=
  let old := w.getD 1 0
  let late := w.getD 14 0
  mix old 7 18 (old >>> 3) + mix late 17 19 (late >>> 10) + w.getD 0 0 + w.getD 9 0

/-- One round on the eight working variables `v`, with its constant and its schedule word summed in `kw`. -/
def hashRound (v : List (BitVec 32)) (kw : BitVec 32) : List (BitVec 32) :=
  let x := v.getD 4 0
  let choice := v.getD 6 0 ^^^ (x &&& (v.getD 5 0 ^^^ v.getD 6 0))
  let sum := kw + choice + mix x 6 11 (x.rotateRight 25) + v.getD 7 0
  let y := v.getD 0 0
  let most := ((v.getD 1 0 ||| v.getD 2 0) &&& y) ||| (v.getD 1 0 &&& v.getD 2 0)
  (sum + most + mix y 2 13 (y.rotateRight 22)) :: v.take 3 ++ (v.getD 3 0 + sum) :: (v.drop 4).take 3

/-- The rounds of one block: the schedule is a window of sixteen words that moves on by one a round. -/
def hashRounds : List (BitVec 32) → List (BitVec 32) → List (BitVec 32) → List (BitVec 32)
  | [], _, v => v
  | k :: ks, w, v => hashRounds ks (w.tail ++ [scheduleNext w]) (hashRound v (k + w.headD 0))

/-- The `n` big-endian words of a byte string. -/
def wordsOf : Nat → List Byte → List (BitVec 32)
  | 0, _ => []
  | n + 1, bs => ofBytes 32 (bs.take 4).reverse :: wordsOf n (bs.drop 4)

/-- The hash after the first `n` blocks of a padded message. -/
def hashBlocks : Nat → List Byte → List (BitVec 32) → List (BitVec 32)
  | 0, _, h => h
  | n + 1, bs, h =>
    let v := hashRounds shaConstants (wordsOf 16 bs) h
    hashBlocks n (bs.drop 64) ((h.zip v).map fun x => x.1 + x.2)

/-- SHA-256 of a byte string, as its 32 bytes: the message is padded by a one bit, zeros and its length in bits to whole
blocks. -/
def sha256 (bs : List Byte) : List Byte :=
  let blocks := (bs.length + 72) / 64
  let zeros := List.replicate (64 * blocks - bs.length - 9) 0
  (hashBlocks blocks (bs ++ 0x80 :: zeros ++ (leBytes 8 (8 * bs.length)).reverse) shaStart).flatMap fun w => (bytesOf w).reverse

end Sys2Proof.Machine
end

