-- ==== Sys2Proof/Machine/Operands.lean ====
section
/-! DEFINITION. Operands.lean: the layouts of descriptors, commands, cells and records: which bits of an operand a rule
reads, and how a record the block writes is put together. -/

namespace Sys2Proof.Machine

/-! ## Descriptors (Tables 3.5, 3.7 to 3.10) -/

def dOpcode (d : Line) : Nat := dfld d 0 0 8
def dSignal (d : Line) : Bool := dbit d 1 0
def dFence (d : Line) : Bool := dbit d 1 1
def dSolicit (d : Line) : Bool := dbit d 1 2
def dImm (d : Line) : Bool := dbit d 1 3
def dChainEn (d : Line) : Bool := dbit d 1 4
def dSc (d : Line) : Bool := dbit d 1 5
def dLap (d : Line) : Nat := dfld d 2 0 16
/-- the four 4-bit engine stages, first one first -/
def dChain (d : Line) : List Nat := (List.range 4).map fun i => dfld d 4 (4 * i) 4
def dPrio (d : Line) : Nat := dfld d 6 0 3
def dSrcFmt (d : Line) : Nat := dfld d 7 0 4
def dDstFmt (d : Line) : Nat := dfld d 7 4 4
def dWrId (d : Line) : Nat := dfld d 8 0 64
def dLocalAddr (d : Line) : Nat := dfld d 16 0 57
def dLength (d : Line) : Nat := dfld d 24 0 32
def dLocalKey (d : Line) : Nat := dfld d 28 0 32
def dRemoteAddr (d : Line) : Nat := dfld d 32 0 57
def dRemoteKey (d : Line) : Nat := dfld d 40 0 32
def dImmData (d : Line) : Nat := dfld d 44 0 32
def dTrigCounter (d : Line) : Nat := dfld d 48 0 16
def dScFlow (d : Line) : Nat := dfld d 50 0 16
def dTrigAdd (d : Line) : Nat := dfld d 52 0 32
def dKeySlot (d : Line) : Nat := dfld d 56 0 11
def dChkSet (d : Line) : Nat := dfld d 58 0 16
def dMac (d : Line) : Nat := dfld d 60 0 3
def dSubMac (d : Line) : Nat := dfld d 60 3 2
/-- collective body -/
def dCount (d : Line) : Nat := dfld d 24 0 32
def dComm (d : Line) : Nat := dfld d 44 0 16
def dCollSeq (d : Line) : Nat := dfld d 46 0 16
def dRoot (d : Line) : Nat := dfld d 48 0 16

/-! ## Lattice cells (Table 5.2) -/

/-- Header of a routed cell with AGE and MARK 0. -/
def latHdr (type cls epoch dst : Nat) (rowCast colCast : Bool) (src qp seq off : Nat) (last : Bool) : BitVec 96 :=
  layout 96 [(0, 4, type), (4, 2, cls), (6, 1, epoch), (16, 10, dst), (26, 1, b2n rowCast), (27, 1, b2n colCast),
    (28, 10, src), (38, 20, qp), (58, 12, seq), (70, 16, off), (86, 1, b2n last)]

def cType (c : Cell) : Nat := fld c.hdr 0 4
def cClass (c : Cell) : Nat := fld c.hdr 4 2
def cEpoch (c : Cell) : Nat := fld c.hdr 6 1
def cMark (c : Cell) : Bool := bitAt c.hdr 7
def cAge (c : Cell) : Nat := fld c.hdr 8 8
def cDstX (c : Cell) : Nat := fld c.hdr 16 5
def cDstY (c : Cell) : Nat := fld c.hdr 21 5
def cRowCast (c : Cell) : Bool := bitAt c.hdr 26
def cColCast (c : Cell) : Bool := bitAt c.hdr 27
/-- source coordinate as y * 32 + x -/
def cSrc (c : Cell) : Nat := fld c.hdr 28 10
def cQp (c : Cell) : Nat := fld c.hdr 38 20
def cSeq (c : Cell) : Nat := fld c.hdr 58 12
def cOff (c : Cell) : Nat := fld c.hdr 70 16
def cLast (c : Cell) : Bool := bitAt c.hdr 86

/-- Bytes 0 to 75 of a cell. -/
def cellBytes (hdr : BitVec 96) (p : Line) : List Byte := bytesOf hdr ++ bytesOf p

/-- End-to-end CRC of a lattice cell: AGE and MARK taken as zero (R155). -/
def latCrc (hdr : BitVec 96) (p : Line) : BitVec 32 := crc32c (cellBytes (setFld (setFld hdr 8 8 0) 7 1 0) p)

/-- A lattice cell with its CRC. -/
def latCell (hdr : BitVec 96) (p : Line) : Cell := ⟨hdr, p, latCrc hdr p⟩

/-! ## Zuquin cells (Table 11.1) -/

def zHdr (type cls vc cvc cc tag addr op first last : Nat) (poison : Bool) : BitVec 96 :=
  layout 96 [(0, 4, type), (4, 2, cls), (8, 2, vc), (10, 2, cvc), (12, 4, cc), (16, 12, tag), (28, 50, addr >>> 6),
    (78, 4, op), (82, 6, first), (88, 6, last), (94, 1, b2n poison)]

def zVc (c : Cell) : Nat := fld c.hdr 8 2
def zCreditVc (c : Cell) : Nat := fld c.hdr 10 2
def zCreditCount (c : Cell) : Nat := fld c.hdr 12 4
def zTag (c : Cell) : Nat := fld c.hdr 16 12
/-- byte address of the line -/
def zAddr (c : Cell) : Nat := fld c.hdr 28 50 * 64
def zOp (c : Cell) : Nat := fld c.hdr 78 4
def zFirst (c : Cell) : Nat := fld c.hdr 82 6
def zLast (c : Cell) : Nat := fld c.hdr 88 6
def zPoison (c : Cell) : Bool := bitAt c.hdr 94

/-- A Zuquin cell with its CRC over bytes 0 to 75 (R298). -/
def zCell (hdr : BitVec 96) (p : Line) : Cell := ⟨hdr, p, crc32c (cellBytes hdr p)⟩

/-! ## Head cell payload (Table 4.6) -/

def hOpcode (p : Line) : Nat := dfld p 0 0 8
def hImm (p : Line) : Bool := dbit p 1 0
def hSolicit (p : Line) : Bool := dbit p 1 1
def hSc (p : Line) : Bool := dbit p 1 2
def hRetx (p : Line) : Bool := dbit p 1 3
def hSealed (p : Line) : Bool := dbit p 1 4
def hFirst (p : Line) : Bool := dbit p 1 5
def hLastSeg (p : Line) : Bool := dbit p 1 6
def hPoison (p : Line) : Bool := dbit p 1 7
def hSegIndex (p : Line) : Nat := dfld p 2 0 10
def hSegLen (p : Line) : Nat := dfld p 4 0 32
def hRemoteAddr (p : Line) : Nat := dfld p 8 0 57
def hRemoteKey (p : Line) : Nat := dfld p 16 0 32
def hImmData (p : Line) : Nat := dfld p 20 0 32
def hTrigCounter (p : Line) : Nat := dfld p 24 0 16
def hTrigAdd (p : Line) : Nat := dfld p 28 0 32
def hMsgLen (p : Line) : Nat := dfld p 32 0 32
def hReadSeq (p : Line) : Nat := dfld p 36 0 12
def hTag (p : Line) : Nat := dfld p 40 0 128

/-! ## Records -/

/-- Completion record (Table 3.11), PHASE 0, in the low 32 bytes. -/
def complRec (wrId stamp source : Nat) (last imm solicited : Bool) (status opcode bc immData qp segSeq : Nat) : Line :=
  layout 512 [(0, 64, wrId), (64, 64, stamp), (128, 12, source), (141, 1, b2n last), (142, 1, b2n imm),
    (143, 1, b2n solicited), (144, 8, status), (152, 8, opcode), (160, 32, bc), (192, 32, immData), (224, 20, qp),
    (244, 12, segSeq)]

/-- Async event record (Table 3.12), PHASE 0. -/
def eventRec (stamp source code carrel seq obj : Nat) (data : BitVec 352) : Line :=
  layout 512 [(0, 64, stamp), (64, 12, source), (80, 8, code), (88, 8, carrel), (96, 32, seq), (128, 32, obj)] |||
    (data.setWidth 512 <<< 160)

end Sys2Proof.Machine
end

