-- ==== Sys2Proof/Machine/State.lean ====
section
/-! DEFINITION. State.lean: everything the spec gives the block, as plain data, the state right after reset, and the
two closed lists of reasons a command may stop. Sparse tables list only what differs from absent; the default a table
reads as is the reset value its rule gives. -/

namespace Sys2Proof.Machine

/-- Why a command faults. -/
inductive Fault where
  /-- SCRUB_READ, BRIDGE_WORD_ERROR, GRANULE_ZERO_FILL_DONE and accesses that name physical HBM beyond its 288 granules
  (R274): there is no such memory. Safe: the block goes nowhere. -/
  | noSuchMemory
deriving DecidableEq, Repr

/-- Why a command is refused. -/
inductive Refusal where
  /-- raised by Dispatch for a command with no meaning yet. Safe: no next state. -/
  | notModelled (mnemonic : String)
  /-- raised by every meaning whose operands name a unit the part does not have (Instr.wf false). Safe. -/
  | illFormed
deriving DecidableEq, Repr

/-- An RWT register: the value that reads back and the value in force since the last tick (R15). -/
structure Rwt where
  written : W64
  inForce : W64
deriving DecidableEq, Repr

/-- A register with one value written and in force. -/
def rwt (v : W64) : Rwt := ⟨v, v⟩

/-! ## Package, GLB, firmware -/

/-- Pins, straps and supplies (R538 to R556). -/
structure Pkg where
  /-- every rail valid (R545) -/
  rails : Bool
  /-- PKG_REFCLK within Table 23.8 -/
  refclk : Bool
  /-- DEV_RESET_N asserted, or a falling supply acting as it (R546) -/
  inReset : Bool
  /-- TEST_MODE sampled 1 holds the device in reset (R552) -/
  testMode : Bool
  mgmtMode : Bool
  addrSel : BitVec 2
  perst : Bool
  /-- the reset under way is PERST#'s, with PERST_SCOPE 1 (R396) -/
  perstReset : Bool
  /-- FATAL_N asserted -/
  fatalN : Bool
  /-- THERM_N asserted -/
  thermN : Bool
  /-- MGMT_ALERT_N asserted -/
  alertN : Bool
  /-- an MCTP response is pending for the controller (R554) -/
  mctpPending : Bool
  /-- PPS_OUT high until this GTC (R57) -/
  ppsHigh : Option Gtc
deriving DecidableEq, Repr

/-- GLB block (Tables 21.8, 22.6) and the bring-up steps of Table 21.1. -/
structure Glb where
  bridgeUp : Bool
  hbmReady : Bool
  tablesReady : Bool
  fwRunning : Bool
  initDone : Bool
  fatal : Bool
  recovery : Bool
  fwHalted : Bool
  /-- granules whose zero fill after reset, or after a release, has ended (R275) -/
  filled : List Nat
  /-- granules 4 to 287 whose zero fill after reset has ended, counted by GRANULES_READY -/
  ready : Nat
  fatalCause : Nat
  fatalSource : Source
  fatalStamp : Gtc
  errCfg : W64
  narrowSeen : Bool
  mgmtWriteSeen : Bool
  /-- GLB_ACCESS_STATUS.LAST_OFFSET -/
  lastOffset : Nat
  /-- opening stamp of the 1 ms window of R516 and the uncorrectable words in it -/
  bridgeWin : Option Gtc
  bridgeCount : Nat
  /-- folio of the last AER Correctable Internal Error (R511) -/
  aerCorrAt : Option Nat
deriving DecidableEq, Repr

/-- The management cores (R22 to R25). -/
structure Fw where
  /-- the restart under way, if any: cause 0 watchdog, 1 activation, 2 management bus -/
  restarting : Option Nat
  /-- stamps of the restarts inside the 10 s count (R24) -/
  restarts : List Gtc
  /-- manager commands accepted and not completed: re-read after the restart (R22) -/
  redo : List Line
deriving DecidableEq, Repr

/-! ## Codex (R494 to R505) -/

/-- One codex record (Table 20.2). -/
structure CodexRec where
  stamp : Gtc
  source : Source
  code : Nat
  carrel : Nat
  ff : Bool
  fw : Bool
  seq : Nat
  data : BitVec 624
  chain : BitVec 256
deriving DecidableEq, Repr

/-- The MRAM, the writer and its registers. -/
structure Codex where
  /-- first-fault region, position order -/
  first : List CodexRec
  /-- ring, newest first -/
  ring : List CodexRec
  /-- position the next ring record takes, 4096 to 524287 -/
  ringPos : Nat
  nextSeq : Nat
  lastChain : BitVec 256
  /-- the writer has resumed (R506) -/
  resumed : Bool
  clearCount : Nat
  /-- records handed over and not yet released, in the order of R38 -/
  handed : List CodexRec
  /-- released records, at most 1024 -/
  queue : List CodexRec
  /-- records lost to a full queue since space was last there: count, first and last stamp -/
  lost : Nat
  lostFirst : Gtc
  lostLast : Gtc
  /-- the writer is free from this GTC -/
  freeAt : Gtc
  overflowSeen : Bool
  /-- a falling supply left the last record half-written (R500) -/
  torn : Bool
  readMiss : Bool
  readSeq : W64
  /-- last checkpoint: SEQUENCE signed and GTC (R499) -/
  ckSeq : Nat
  ckAt : Gtc
  /-- SEQUENCE of the newest record when the pending checkpoint's signature was asked for -/
  ckPending : Option Nat
deriving DecidableEq, Repr

/-! ## Time (R26 to R62) -/

/-- The time and folio unit. -/
structure TimeUnit where
  gtc : Gtc
  /-- the memory die's copy (R9) -/
  gtcMem : Gtc
  /-- 16 fractional bits below the LSB (R47) -/
  frac : Nat
  /-- rate correction per crossbar cycle, in 2^-16 units (R47) -/
  slew : Int
  /-- last tick fired -/
  tick : Nat
  /-- TIM_CFG as written -/
  cfg : W64
  /-- folio size code in force: 0, 1, 2 -/
  fsize : Nat
  /-- accepted size that takes effect at this GTC multiple of 98304 (R33) -/
  fsNext : Option (Nat × Gtc)
  epochSeconds : W64
  asym : List W64
  locked : Bool
  isRoot : Bool
  holdover : Bool
  refLost : Bool
  cfgReject : Bool
  stepSeen : Bool
  depth : Nat
  /-- last folio's offset, in 1/16 GTC unit -/
  offset : Int
  rootPri : Nat
  /-- root's adapter index y * 32 + x -/
  rootIdx : Nat
  parent : Option Nat
  /-- folio in which the current root's survey key was last heard (R43) -/
  rootHeard : Nat
  /-- TRACEABLE as taken when this adapter last became root (R60) -/
  traceable : Bool
  /-- a reference is valid: reference GTC less own GTC, in 2^-16 units (R55) -/
  refOffset : Option Int
  /-- the first acquisition leaves whole folios to step (R55) -/
  refStep : Bool
  acquired : Bool
  /-- a load of the reference is due at the next tick (R55) -/
  loadDue : Bool
  /-- announced step: ks, n, cause (R50, R55) -/
  step : Option (Nat × Nat × Nat)
  /-- last two 1PPS edges seen, newest first -/
  ppsEdges : List Gtc
  /-- the 10 MHz input is there -/
  tenMhz : Bool
  /-- stamp of the last tick's cycle, with the rate correction, offset and LOCKED before it (R339) -/
  prior : Option (Gtc × Int × Int × Bool)
  /-- the holdover is a firmware restart's (R56) -/
  restartHold : Bool
deriving DecidableEq, Repr

/-! ## Rings (R63 to R96) -/

/-- Where a target address lies (Table 15.3). -/
inductive Place where
  | host | hbm | near (n : Nat)
deriving DecidableEq, Repr

/-- A descriptor ring. -/
structure Ring where
  fn : Nat
  place : Place
  /-- target address of slot 0: bus address, allocation offset or accelerator address -/
  addr : Nat
  /-- domain whose allocation an HBM address is an offset in -/
  dom : Nat
  /-- context and segment index that hold the ring, and those of its shadow line -/
  seg : Option (Nat × Nat)
  shadowSeg : Option (Nat × Nat)
  log2 : Nat
  bell : Nat
  /-- physical HBM byte address of the shadow line watched -/
  shadow : Option Nat
  /-- CQ of its completions -/
  bind : Nat
  enabled : Bool
  pDev : Nat
  cDev : Nat
  /-- stopped by DOORBELL_AHEAD -/
  stopped : Bool
  /-- stopped by link loss until rebound (R94, R96) -/
  linkStop : Bool
  /-- the 2 µs window of R74: opening stamp, re-fetches issued, last result poisoned, last LAP found -/
  window : Option Gtc
  refetches : Nat
  lastPoison : Bool
  lapFound : Nat
  /-- descriptors accepted and not yet handed on, oldest first -/
  handed : List Line
  /-- RING_DESTROY commands accepted and waiting -/
  destroy : List Line
deriving DecidableEq, Repr

/-- A completion or event ring. A record is kept as 64 bytes; a completion uses the low 32. -/
structure CqRing where
  fn : Nat
  num : Nat
  isEq : Bool
  place : Place
  addr : Nat
  dom : Nat
  seg : Option (Nat × Nat)
  shadowSeg : Option (Nat × Nat)
  log2 : Nat
  bell : Nat
  shadow : Option Nat
  /-- MSI-X vector, or notify id and near port -/
  vector : Nat
  notify : Bool
  nport : Nat
  modFolios : Nat
  modCount : Nat
  /-- next index written and the consumer's index -/
  pIdx : Nat
  cIdx : Nat
  armed : Bool
  /-- records since arming, and the folio of the first one -/
  since : Nat
  winFolio : Option Nat
  /-- an arming doorbell found unfreed records: the interrupt is raised in the cycle after it (R92) -/
  raiseAt : Option Gtc
  /-- records held for want of space, oldest first, and the folio of the overrun (R88) -/
  held : List Line
  overFolio : Option Nat
  /-- records go to the journal (R94) -/
  journalled : Bool
  /-- EQ SEQUENCE (R89) -/
  seq : Nat
  destroy : List Line
deriving DecidableEq, Repr

/-- A journal entry waiting for room: kind, function, ring number, index, record (Table 3.15). -/
structure JEntry where
  kind : Nat
  fn : Nat
  ring : Nat
  index : Nat
  record : Line
  /-- folio in which the record was bound for the journal -/
  folio : Nat
deriving DecidableEq, Repr

/-- The completion journal (R93 to R96). -/
structure Journal where
  base : W64
  cfg : W64
  /-- WRITE_COUNT -/
  writes : Nat
  losses : Nat
  lossStamp : Gtc
  /-- entries that found it full or disabled, oldest first -/
  held : List JEntry
deriving DecidableEq, Repr

/-- An MSI-X vector. -/
structure Msix where
  addr : W64
  data : BitVec 32
  masked : Bool
  pend : Bool
deriving DecidableEq, Repr

/-- VF state (Table 16.1). -/
inductive VfState where
  | disabled | enabled | quiescing
deriving DecidableEq, Repr

/-- A request a VF reset waits for: of an access, of an engine job, a Translation Request (R436). -/
inductive Awaited where
  | access (id : Nat)
  | job (id : Nat)
  | xlat (fn pasid page : Nat)
deriving DecidableEq, Repr

/-- A function: PF0 is 0, VFn is n. -/
structure Fn where
  ctlBase : W64
  /-- TRN_CTL_CFG without CFG_ERROR -/
  ctlCfg : W64
  ctlErr : Bool
  ctlSq : Ring
  ctlCq : CqRing
  eq : Option CqRing
  msix : Tbl Msix
  msixEnable : Bool
  msixMask : Bool
  ats : Bool
  pri : Bool
  priStopped : Bool
  /-- VF only, from here on (R423, R435 to R437) -/
  state : VfState
  enable : Bool
  /-- end state of the running reset -/
  endEnabled : Bool
  /-- fence tick of the running reset, and whether the fence has taken effect -/
  fence : Option Nat
  fenced : Bool
  cleaned : Bool
  /-- VF_RESET commands that wait for the reset's end -/
  waiters : List Line
  /-- requests issued before the fence and not yet answered (R436) -/
  awaits : List Awaited
  /-- ENABLED at the next tick -/
  enableNext : Bool
  resetSeen : Bool
  resets : Nat
  /-- doorbells ignored and counted (R69, R70, R423) -/
  badBells : Nat
deriving DecidableEq, Repr

/-! ## Carrels (R422 to R444) -/

/-- A carrel descriptor (Table 16.3) in force or staged. -/
structure DomCfg where
  granules : List Nat
  qpBase : Nat
  qpCount : Nat
  regionBase : Nat
  regionCount : Nat
  ctxBase : Nat
  ctxCount : Nat
  keyBase : Nat
  keyCount : Nat
  trigBase : Nat
  trigCount : Nat
  jobQuota : Nat
  commQuota : Nat
  slotQuota : Nat
  deferredQuota : Nat
  transport : Nat
  stashMib : Nat
  /-- RDX, FMT, SPX, CPH, CHK, MOV -/
  weights : List Nat
  vfs : BitVec 512
deriving DecidableEq, Repr

/-- A dirty log: base offsets of its two bitmaps, the active one, the first tick from which it logs, and a harvest or
stop that waits for its tick with its command (R418, R442). -/
structure DirtyLog where
  bitmap0 : Nat
  bitmap1 : Nat
  active : Nat
  from_ : Nat
  stopAt : Option Nat
  harvest : Option (Nat × Line)
deriving DecidableEq, Repr

/-- A domain: carrels 0 to 63 and the manager domain 64. -/
structure Domain where
  cfg : DomCfg
  suspended : Bool
  /-- tick at which the suspension committed -/
  suspendedAt : Nat
  quiesced : Bool
  /-- suspend (true) or resume accepted in this folio, its command and the commands it displaced -/
  suspendNext : Option (Bool × Line × List Line)
  destroyNext : Option Line
  /-- SCHED_CARREL and policing (R453 to R456) -/
  wLat : Nat
  wEth : Nat
  rate : Nat
  burst : Nat
  policeLimit : Nat
  policeFolios : Nat
  tokens : Int
  /-- SCHED_CARREL accepted in this folio -/
  schedNext : List Line
  allocLog : Option DirtyLog
deriving DecidableEq, Repr

/-! ## Translation (R402 to R421) -/

/-- A segment entry (Table 15.2). -/
structure Seg where
  target : Nat
  pinned : Bool
  policy : Bool
  invAbort : Bool
  uio : Bool
  base : Nat
  len : Nat
  tbase : Nat
  /-- SEG_INVALIDATE accepted: its command -/
  withdrawn : Option Line
  log : Option DirtyLog
deriving DecidableEq, Repr

/-- An address context. -/
structure Ctx where
  dom : Nat
  atsFn : Nat
  pasid : Nat
  pasidEn : Bool
  timeoutMs : Nat
  segs : Tbl Seg
deriving DecidableEq, Repr

/-- A cached or pinned ATS translation: its first 4 KiB page and the pages it covers. -/
structure Xlat where
  fn : Nat
  pasid : Nat
  page : Nat
  pages : Nat
  target : Nat
  readOk : Bool
  writeOk : Bool
  /-- segments and regions that pin it; 0 for a cache entry -/
  pins : Nat
deriving DecidableEq, Repr

/-- The transfer an access belongs to. -/
inductive Who where
  /-- a sending read: QP and index of the send in its queue -/
  | send (qp idx : Nat)
  /-- a READ responder read: QP and segment sequence of the request -/
  | respond (qp seq : Nat)
  /-- receive placement: QP and segment sequence -/
  | place (qp seq : Nat)
  /-- READ_RESP placement at the requester -/
  | readPlace (qp seq : Nat)
  /-- a MOV job's read for a step, and its writes -/
  | mov (job step : Nat)
  | movOut (job : Nat)
  /-- a collective's result write, and the copy of a round's source (R248) -/
  | coll (comm idx : Nat)
  | collSrc (comm idx round : Nat)
  /-- the write of a received result cell: its stage, round, sender and index (R240, R414) -/
  | collCell (comm idx stage round src cell : Nat)
  /-- an inbound request of a near port to a line of a host-bias page: port, tag, its own byte address, window (R308, R386) -/
  | inbound (n tag addr window : Nat)
  /-- a read of the slot at C_dev of a descriptor ring (R65, R74) -/
  | fetch (ring : RingRef)
  /-- a record on its way to its slot of a completion or event ring: the index it occupies (R65, R84) -/
  | record (ring : RingRef) (index : Nat)
deriving DecidableEq, Repr

/-- One access of a transfer to one page of HOST or accelerator memory. -/
structure Access where
  id : Nat
  who : Who
  source : Source
  ctx : Nat
  seg : Nat
  va : Nat
  len : Nat
  write : Bool
  data : List Byte
  poison : Bool
  place : Place
  addr : Nat
  /-- requester function for HOST; PASID when enabled -/
  fn : Nat
  pasid : Option Nat
  /-- a Translation Request is outstanding -/
  xlatReq : Bool
  /-- fault it waits on, with the opening of its own window -/
  fault : Option (Nat × Gtc)
  /-- requests sent, and those still unanswered -/
  issued : Bool
  left : Nat
  /-- folio in which it began: the 64-folio window of a stalled cell (R119, R138) -/
  folio : Nat
  /-- lines the host answered RdCurr with (R386) -/
  hostLines : Tbl Line
  /-- its data was dropped by the re-send policy (R138), it only waits; of a fetch, its result is to be discarded (R74) -/
  dropped : Bool
  /-- how it ended, with the bytes read and their poison: status code of Table 3.11a -/
  result : Option (Nat × List Byte × Bool)
deriving DecidableEq, Repr

/-- The key a fault is recorded under (R411). -/
inductive FaultKey where
  | host (fn pasid page : Nat)
  | near (n addr log2 : Nat)
deriving DecidableEq, Repr

/-- An open fault, or one resolved and not yet recorded (R410 to R413). -/
structure FaultRec where
  id : Nat
  key : FaultKey
  cause : Nat
  opened : Gtc
  tick : Nat
  resolved : Bool
  /-- 0 no PRI request outstanding, 1 requested, 2 answered: the page is being translated again -/
  pri : Nat
  /-- closed because its last waiter left (R411) -/
  left : Bool
  recorded : Bool
  /-- from the first access -/
  carrel : Nat
  va : Nat
  ctx : Nat
  fn : Nat
  target : Nat
  write : Bool
  pinned : Bool
  policy : Bool
  /-- lowest source and number of waiters that joined before the record's tick -/
  source : Source
  waiters : Nat
deriving DecidableEq, Repr

/-- The translation unit. -/
structure Xl where
  ctxs : Tbl Ctx
  atc : List Xlat
  pinned : List Xlat
  accesses : List Access
  nextAccess : Nat
  faults : List FaultRec
  nextFault : Nat
  faultFullSeen : Bool
  logBase : W64
  logCfg : W64
  logWrites : Nat
  /-- pinned translations lost to an invalidation and asked for again (R409) -/
  pinAsk : List Xlat
  /-- results to discard: function, PASID and page of a Translation Request an invalidation overtook (R417) -/
  stale : List (Nat × Nat × Nat)
  /-- invalidation requests whose covered requests have not drained: function, PASID, page, accesses (R417) -/
  atsInv : List (Nat × Nat × Nat × List Nat)
deriving DecidableEq, Repr

/-! ## Host attachment (R378 to R401) -/

/-- A device read of host memory that is outstanding. -/
structure HostRead where
  fn : Nat
  addr : Nat
  len : Nat
  access : Nat
  /-- a memory write that awaits its completion (R86) -/
  write : Bool
deriving DecidableEq, Repr

/-- A CXL.cache request that is outstanding: HDM line and what waits for it (R386). -/
structure CacheReq where
  line : Nat
  write : Bool
  flush : Bool
  /-- access or engine job that waits for it -/
  access : Option Nat
  job : Option Nat
deriving DecidableEq, Repr

/-- What waits for a page that changes bias (R388): a host or peer access to an HBM byte address, with the data, mask
and poison of a write; or a device access. -/
inductive BiasHeld where
  /-- a host or peer access: its write, and whether HDM_ACCESS allowed it as it arrived (R400) -/
  | mem (addr : Nat) (write : Option (Line × BitVec 64 × Bool)) (allowed : Bool)
  | dev (access : Nat)
deriving DecidableEq, Repr

/-- The host interface. -/
structure Cxl where
  cfg : W64
  /-- IDE_REQUIRED in force since the last link-up, IDE_MODE since the last keying -/
  ideRequired : Bool
  ideSkid : Bool
  linkUp : Bool
  /-- link loss declared and the link not up again -/
  lost : Bool
  ideSecure : Bool
  lossSeen : Bool
  retrainSeen : Bool
  ideFail : Bool
  width : Nat
  speed : Nat
  flit256 : Bool
  losses : Nat
  retrains : Nat
  /-- configuration space with an effect the manual gives (R397) -/
  vfEnable : Bool
  numVfs : Nat
  memSpace : Bool
  busMaster : Bool
  cacheEnable : Bool
  memEnable : Bool
  hdmBase : Option Nat
  hdmAccess : List Rwt
  deniedSeen : Bool
  denied : Nat
  /-- 4 KiB pages in host bias (R386) -/
  hostBias : List Nat
  /-- BIAS_SET commands under way, oldest first: command, page that changes, pages left with it, to host -/
  biasJob : List (Line × Nat × Nat × Bool)
  reads : Tbl HostRead
  nextReq : Nat
  cacheReqs : Tbl CacheReq
  /-- accesses that wait on a bias change, in arrival order -/
  biasWait : List BiasHeld
deriving DecidableEq, Repr

/-! ## Transport (R97 to R147) -/

/-- QP states (Table 4.4). -/
inductive QpState where
  | reset | init | rtr | rts | sqd | error
deriving DecidableEq, Repr

/-- How far a send descriptor has come. -/
inductive OpPhase where
  /-- fetched, not admitted (R12, R58) -/
  | fetched
  /-- admitted: the read of its message, or of its next segment, has not begun (R137, R428) -/
  | queued
  /-- the local buffer, or the current segment of it, is being read into the staging copy -/
  | reading
  /-- engine-chain stage of this index runs -/
  | chain (stage : Nat)
  /-- SC: staged, waiting for a tick of R189 -/
  | staged
  /-- segments are being cut as the window of R115 allows -/
  | sending
  /-- a READ waits for its response segments -/
  | waiting
  /-- finished with this status; its record waits for its turn (R87) -/
  | done (status : Nat)
deriving DecidableEq, Repr

/-- A descriptor of a send queue, from hand-over to its completion record. -/
structure SendOp where
  idx : Nat
  desc : Line
  phase : OpPhase
  /-- the TRIGGERED slot that released it (Table 3.9) -/
  trig : Option Line
  /-- bytes of the message, after the engine chain -/
  total : Nat
  /-- staged bytes: of the whole message after an engine chain or on a flow, else of the current segment -/
  staged : List Byte
  /-- offset in the message of the staged bytes -/
  base : Nat
  /-- on a flow: bytes of the message staged so far (R189) -/
  ready : Nat
  /-- poisoned ranges of the staged copy: offset and length (R143) -/
  bad : List (Nat × Nat)
  /-- a chain stage met poison and turned it into blocks (R253) -/
  poisoned : Bool
  /-- accesses still outstanding -/
  toRead : Nat
  /-- first segment sequence taken, and segments cut so far -/
  firstSeq : Option Nat
  cut : Nat
  /-- READ: bytes placed, response segments completed -/
  bytes : Nat
  respDone : Nat
  /-- SC: admission tick Ta and folios m of the promise (R190) -/
  sc : Option (Nat × Nat)
  /-- SC descriptor sent as EC, or past its check tick (R178, R192) -/
  late : Bool
  /-- SC message whose flow was voided: it continues as EC (R196) -/
  asEc : Bool
  overflow : Bool
  /-- RAW_SEND: the transmit timestamp its record carries (R371) -/
  stampAt : Option Gtc
deriving DecidableEq, Repr

/-- A held deferred pair (R81). -/
structure Pair where
  idx : Nat
  slot : Line
  work : Line
deriving DecidableEq, Repr

/-- A posted RECV or RAW_RECV: its descriptor and the first tick it is available at (R117). -/
structure Recv where
  desc : Line
  from_ : Nat
  /-- its place in the ring -/
  idx : Nat
deriving DecidableEq, Repr

/-- A segment sent or being sent. -/
structure TxSeg where
  seq : Nat
  /-- the send descriptor that owns it; none for a READ_RESP segment -/
  op : Option Nat
  /-- READ_RESP: sequence of the request -/
  readSeq : Nat
  head : Line
  data : List Byte
  cells : Nat
  /-- data cells whose bytes are staged (R189) -/
  have_ : Nat
  /-- its sealing job has not ended: no cell of it can leave (R288) -/
  sealing : Bool
  /-- next new cell: 0 the head, i the data cell at offset i - 1 -/
  next : Nat
  sc : Option Nat
  prio : Nat
  acked : Bool
  /-- cells to send again: 0 the head, i the data cell i - 1 -/
  again : List Nat
  /-- SC: GTC at which each listed cell was re-sent last (R191) -/
  resent : Tbl Nat
  /-- SC: tick of the folio in which each cell was sent, as (cell, folio) runs (R195) -/
  sentIn : Tbl Nat
deriving DecidableEq, Repr

/-- A segment admitted by the receiver. -/
structure RxSeg where
  seq : Nat
  head : Line
  /-- offsets received -/
  got : List Nat
  /-- the RECVs it reserved; a raw frame being delivered is held as a segment of sequence 4096 or more, its stamp in place of
  the REMOTE_ADDR (R358) -/
  recvs : List Recv
  /-- bytes placed in each reserved RECV are by R105; a sealed segment's cells are staged here -/
  stagedCells : Tbl Line
  /-- writes to HOST or accelerator memory not yet visible -/
  writes : Nat
  delivered : Bool
  /-- sealed: whole, its opening job has been asked for (R288) -/
  opening : Bool
  /-- sealed: verified, the plaintext is being moved to the buffer (R141) -/
  opened : Bool
  /-- faults for which NAK PAGE_ABSENT was sent (R138) -/
  paSent : List Nat
  /-- a write of it ended by link loss (R94) -/
  lost : Bool
  sc : Bool
deriving DecidableEq, Repr

/-- A stashed cell (R119). -/
structure Stashed where
  seq : Nat
  /-- it came as CLASS 1 -/
  sc : Bool
  head : Bool
  offset : Nat
  payload : Line
  folio : Nat
deriving DecidableEq, Repr

/-- A cell or descriptor that waits for the context of its QP (R99). -/
inductive CtxWait where
  | cell (via : Via) (c : Cell)
  | work (d : Line)
  | recv (d : Line)
  | pair (d w : Line)
deriving DecidableEq, Repr

/-- A READ request at the responder (R109, R110). -/
structure ReadReq where
  seq : Nat
  addr : Nat
  len : Nat
  key : Nat
  prio : Nat
  /-- staged bytes of the piece that is cut next, pieces cut so far -/
  staged : List Byte
  toRead : Nat
  started : Bool
  cut : Nat
  bad : List (Nat × Nat)
deriving DecidableEq, Repr

/-- A token bucket (R453). -/
structure Bucket where
  rate : Nat
  burst : Nat
  tokens : Int
deriving DecidableEq, Repr

/-- WFQ tags of one queue at one output (R448). -/
structure Tag where
  f : Nat
  fLast : Nat
  active : Bool
deriving DecidableEq, Repr

/-- A RED or SCALE cell of a collective QP that waits for the lattice output: its priority and its plane (0 A, 1 B, 2 by
SPRAY). -/
structure OutCell where
  cell : Cell
  prio : Nat
  plane : Nat
deriving DecidableEq, Repr

/-- A queue pair. -/
structure Qp where
  fn : Nat
  state : QpState
  type : Nat
  sealed : Bool
  udp : Bool
  peerCoord : Nat
  peerQp : Nat
  peerEntry : Nat
  /-- INIT to RTR has completed at least once (R145) -/
  hadPeer : Bool
  e : Nat
  d : BitVec 4096
  /-- N of the segment at E, for the IV of R141 -/
  eN : Nat
  readDepth : Nat
  txSeq : Nat
  txN : Nat
  rtoUs : Nat
  retryMax : Nat
  retryLeft : Nat
  rnrMax : Nat
  rnrLeft : Nat
  rnrDelay : Nat
  txSlot : Nat
  rxSlot : Nat
  salt : Nat
  sqdWait : Option Line
  /-- status of what has put it in ERROR (R247) -/
  cause : Nat
  flushWait : List Line
  sq : Option Ring
  rq : Option Ring
  opNext : Nat
  ops : List SendOp
  pairs : List Pair
  recvs : List Recv
  tx : List TxSeg
  outq : List OutCell
  rx : List RxSeg
  stash : List Stashed
  /-- after an RNR or SUSPENDED NAK for s: cells of s and later are discarded until the head of s is admitted (R118) -/
  discard : Option Nat
  /-- RECVs and head of delivered segments whose message has not ended, whether link loss
  ended a write, and the bytes placed in each RECV -/
  held : List (Line × Bool × List (Line × Nat))
  reads : List ReadReq
  /-- retransmission timer: opening stamp and length (R128) -/
  timer : Option (Gtc × Nat)
  /-- RNR round: sequence and closing tick (R130) -/
  round : Option (Nat × Nat)
  /-- sequence of the last round opened: an ACK that covers it restores the budget (R130) -/
  roundSeq : Option Nat
  /-- PAGE_ABSENT waits: sequence and closing tick (Table 4.9) -/
  paWaits : List (Nat × Nat)
  /-- congestion echo counts, and EC data cells received, modulo 4096 (R172) -/
  marked : Nat
  total : Nat
  ecCells : Nat
  rateR : Nat
  alpha : Nat
  quota : Nat
  decreased : Bool
  bucket : Bucket
  tag : Tag
  planeB : Bool
  /-- its context is on die (R99) -/
  cached : Bool
  /-- a load of the context is outstanding, since then; what waits for it, in arrival order (R99) -/
  loading : Option Gtc
  ctxWait : List CtxWait
deriving DecidableEq, Repr

/-- A QP that has entered ERROR owes its peer PEER_GONE notices (R145): path and peer as they stood, E, the notices left, and
the folio of its entry. -/
structure Gone where
  qp : Nat
  udp : Bool
  coord : Nat
  peerQp : Nat
  entry : Nat
  seq : Nat
  left : Nat
  folio : Nat
deriving DecidableEq, Repr

/-- A registered region (R132 to R136). -/
structure Region where
  base : Nat
  len : Nat
  fn : Nat
  ctx : Nat
  localWrite : Bool
  remoteRead : Bool
  remoteWrite : Bool
  pinned : Bool
  gen : Nat
  valid : Bool
  /-- REGION_INVALIDATE accepted and waiting: its command -/
  waiting : Option Line
deriving DecidableEq, Repr

/-! ## Lattice (R148 to R176) and link state of a lattice port (R326 to R352) -/

/-- A cell held by a router, with the cycle it was absorbed in. -/
structure Absorbed where
  cell : Cell
  /-- port it arrived on -/
  port : Nat
  at_ : Gtc
deriving DecidableEq, Repr

/-- The routers, route tables and epoch switch. -/
structure Lattice where
  cfg : W64
  cfgReject : Bool
  tableMiss : Bool
  ccCfg : Rwt
  /-- entries that differ from the reset table, per copy and plane: index plane * 2048 + copy * 1024 + coordinate -/
  routes : Tbl (BitVec 8)
  /-- TABLE_ID loaded in each copy -/
  tableIds : List (Option Nat)
  epoch : Nat
  /-- announced switch: TABLE_ID and ks -/
  switch : Option (Nat × Nat)
  /-- the switch was learned after tick ks - 2 (R170) -/
  switchLate : Bool
  oldUntil : Option Nat
  /-- an old copy has retired and no switch has come since -/
  retired : Bool
  /-- absorption buffers of planes A and B -/
  bufA : List Absorbed
  bufB : List Absorbed
  /-- output slots taken in the current crossbar cycle: (port, slot of the pair) -/
  used : List (Nat × Nat)
  usedAt : Gtc
  /-- cells ejected to the local ports and not yet taken by the transport: via and cell -/
  ejected : List (Via × Cell)
  /-- ejected cells dropped and counted -/
  drops : Nat
  /-- lattice-wide link payloads seen: KIND and its two fields (R337) -/
  seen : List (Nat × Nat × Nat)
deriving DecidableEq, Repr

/-- Control-tier entry of an elastic output: a cell of a QP or of a unit, oldest first (R446). -/
structure CtlCell where
  qp : Nat
  /-- the cell, with EPOCH 0: the injection sets it -/
  cell : Cell
  /-- a reply to this datagram (R364) -/
  reply : Option Dgram
  /-- peer entry it goes to, where its QP no longer holds one (R145) -/
  entry : Option Nat
deriving DecidableEq, Repr

/-- One elastic output (R445, R446, R448). -/
structure Output where
  ctl : List CtlCell
  ctlRun : Nat
  v : Nat
  /-- carrel tags and the V of each carrel's QP level -/
  carrelTags : Tbl Tag
  carrelV : Tbl Nat
deriving DecidableEq, Repr

/-- A policer (R455). -/
structure Police where
  count : Nat
  drops : Nat
  limitSeen : Bool
deriving DecidableEq, Repr

/-! ## Scheduled class (R177 to R198) -/

/-- A flow record (Table 6.6). -/
structure Flow where
  num : Nat
  role : Nat
  plane : Nat
  b : Nat
  src : Nat
  dst : Nat
  lagF : Nat
  lagR : Nat
  ackGap : Nat
  retryGap : Nat
deriving DecidableEq, Repr

/-- A slot-map entry (Table 6.7a) on its port. -/
structure SlotEntry where
  port : Nat
  start : Nat
  run : Nat
  role : Nat
  inPort : Nat
  flow : Nat
  folio : Nat
deriving DecidableEq, Repr

/-- A loaded gate-list set. -/
structure GateSet where
  id : Nat
  cycle : Nat
  noticeBound : Nat
  flows : List Flow
  map : List SlotEntry
  conts : Tbl (List SlotEntry)
  /-- HBM range of the image, in PF0's allocation, and the GTC of its load -/
  imgBase : Nat
  imgLen : Nat
  loadedAt : Gtc
deriving DecidableEq, Repr

/-- A failure notice (Table 6.7). -/
structure Notice where
  link : Nat
  cause : Nat
  setId : Nat
  stamp : Gtc
deriving DecidableEq, Repr

/-- Target side of a flow: its QP, the highest cell of it received, and what its EXPECT_DATA slots have brought since
(R191). -/
structure Expect where
  /-- the QP whose messages it carries, once one has come -/
  qp : Option Nat
  /-- streams it carries, oldest first: header QP and SEQ fields and source coordinate (R246) -/
  streams : List (Nat × Nat × Nat)
  /-- the highest cell received is of the last of them -/
  ofStream : Bool
  /-- segment and cell (0 the head) of the highest cell received, and the folio and slot it came in -/
  seq : Nat
  cell : Nat
  folio : Nat
  slot : Nat
  /-- good cells below it that later slots have brought -/
  filled : Nat
deriving DecidableEq, Repr

/-- An SC cell of this adapter: of a segment (QP, sequence, cell), or of a stream (communicator, descriptor, stage, round,
the sender of a cast passed on, receiver, cell). -/
inductive ScCell where
  | seg (qp seq i : Nat)
  | stream (comm idx stage round : Nat) (origin : Option Nat) (dest i : Nat)
deriving DecidableEq, Repr

/-- The scheduled class. -/
structure Sched where
  sets : List GateSet
  active : Option Nat
  /-- start tick of the active set -/
  activeFrom : Nat
  contLink : Option Nat
  /-- pending activation: SET_ID, BASE, cycle, S -/
  pending : Option (Nat × Nat × Nat × Nat)
  lateBase : Bool
  loadError : Bool
  loadRule : Nat
  /-- last loaded set and the coordinates that report it loaded -/
  lastLoaded : Option Nat
  /-- (SET_ID, coordinate) pairs reported loaded -/
  reports : List (Nat × Nat)
  /-- flow to QP -/
  binds : Tbl Nat
  voids : List Nat
  frozen : List Nat
  notices : List Notice
  /-- links whose failure the active set has already answered (R194) -/
  covered : List Nat
  expect : Tbl Expect
  /-- source side: cells a flow sends again before new ones after a switch (R195) -/
  rewind : Tbl (List ScCell)
  /-- target side: cells left of the round a flow's ACK slots send: type, QP field of a stream's, sequence, payload (R191) -/
  ackRest : Tbl (List (Nat × Option Nat × Nat × Line))
  /-- pending NAK of a flow's QP: sequence and payload -/
  naks : Tbl (Nat × Line)
  /-- control cells waiting for each lattice port, oldest first -/
  ctl : Tbl (List Cell)
deriving DecidableEq, Repr

/-! ## What leaves the block -/

/-- Everything the block puts on a link, a bus or a pin toward the outside, in order. -/
inductive Emit where
  /-- memory write of a function to host memory: request number, function, bus address, data, poisoned or not (R392) -/
  | hostWrite (req fn addr : Nat) (data : List Byte) (poison uio : Bool)
  /-- memory read request: request number, function, bus address, length, unordered I/O -/
  | hostRead (req fn addr len : Nat) (uio : Bool)
  | msix (fn vector : Nat) (addr : W64) (data : BitVec 32)
  /-- ATS Translation Request, PRI Page Request and Invalidation Completion -/
  | atsRequest (fn pasid page : Nat) (write : Bool)
  | pageRequest (fn pasid page fault : Nat)
  | atsInvalidated (fn pasid page : Nat)
  /-- AER: 0 correctable, 1 non-fatal, 2 fatal (R511, R518) -/
  | aer (kind : Nat)
  /-- CXL.cache request: number, HDM line, 0 RdCurr, 1 RdOwnNoData, 2 CLFlush (R386, R387) -/
  | cacheReq (req line kind : Nat)
  /-- answer to a CXL.mem or peer read -/
  | memData (addr : Nat) (data : Line) (poison : Bool)
  /-- answer to a host snoop (R378) -/
  | snoopMiss (addr : Nat)
  /-- cell on a near port -/
  | nearCell (n : Nat) (cell : Cell)
  /-- cell on a lattice port, in this slot of the current crossbar cycle -/
  | latCell (port slot : Nat) (cell : Cell)
  /-- frame whose transmission starts on a MAC -/
  | frame (k : Nat) (bytes : List Byte)
  | pauseOut (k : Nat) (prio : Option Nat) (quanta : Nat)
  /-- answers on the management bus, over SPDM and over MCTP -/
  | mgmtData (v : W64)
  | mgmtIgnored
  | alertAddress
  | spdm (bus : SpdmBus) (code : Nat) (body : List Byte)
  | mctpCodex (recs : List CodexRec)
  | mctpUpdate (status : Nat)
  /-- a register read's value -/
  | regData (v : W64)
deriving DecidableEq, Repr

/-! ## Counters (R458 to R470) -/

/-- A carrel's dump ring (R467, R468). -/
structure CarrelRing where
  offset : Nat
  log2 : Nat
  enable : Bool
  seq : Nat
  prevTick : Nat
  stepped : Bool
deriving DecidableEq, Repr

/-- An event that passed the filters of the sampled counter, as a sample record describes it (Table 18.5): CARREL 0xFF, CLASS,
QP and VA 0 where it has none. -/
structure SampleEvent where
  stamp : Gtc
  source : Source
  carrel : Nat
  cls : Nat
  qp : Nat
  va : Nat
  ctx : Nat
  seg : Nat
  units : Nat
deriving DecidableEq, Repr

/-- A sample that was raised: the event that crossed a multiple of PERIOD, and up to three passing events after it at the same
source (R466). -/
structure Sample where
  at_ : Gtc
  source : Source
  events : List SampleEvent
deriving DecidableEq, Repr

/-- Counters, dumps and the sampler. A fixed counter is keyed by its byte offset in the device dump (Table 18.2). -/
structure Cnt where
  fixed : Tbl Nat
  prog : Tbl Nat
  /-- values latched at the last tick (R459) -/
  latched : Tbl Nat
  latchedProg : Tbl Nat
  /-- CNT_SEL entries that differ from reset -/
  sel : Tbl Rwt
  dumpBase : Rwt
  dumpCfg : Rwt
  bwCfg : Rwt
  sampleBase : Rwt
  sampleCfg : Rwt
  dumpSeq : Nat
  prevTick : Nat
  lastDump : Nat
  /-- a load or step since the last dump record -/
  stepped : Bool
  /-- a carrel stage committed at the last tick -/
  commit : Bool
  dumpMiss : Bool
  carrelMiss : Bool
  sampleMiss : Bool
  sampleSeq : Nat
  /-- samples raised and not yet captured, oldest first (R466) -/
  samples : List Sample
  /-- start tick of the open bandwidth window, its bytes and those of the last closed one: entry 2e TX, 2e + 1 RX -/
  bwFrom : Nat
  /-- window whose close tick has come: that tick and its bytes -/
  bwDue : Option (Nat × Tbl Nat)
  bwOpen : Tbl Nat
  bwLast : Tbl Nat
  bwEnd : Nat
  carrelRings : Tbl CarrelRing
  carrelNext : Tbl CarrelRing
deriving DecidableEq, Repr

/-! ## Near ports (R297 to R325) -/

/-- A device request outstanding on a near port, in issue order. -/
structure NearReq where
  id : Nat
  tag : Nat
  /-- sent at least once; an unsent request waits for tags or for the port -/
  sent : Bool
  read : Bool
  cls : Nat
  /-- byte address of the first line -/
  addr : Nat
  lines : Nat
  first : Nat
  last : Nat
  data : Line
  poison : Bool
  /-- access it serves, if any -/
  access : Option Nat
  /-- offsets of the lines answered -/
  answered : List Nat
  got : Tbl Line
  poisoned : List Nat
  issued : Gtc
  /-- every line answered; kept while an older request is not, for R319 -/
  done : Bool
deriving DecidableEq, Repr

/-- An inbound window (Table 11.7). -/
structure Window where
  fn : Nat
  ctx : Nat
  base : Nat
  len : Nat
  readOk : Bool
  writeOk : Bool
  /-- NPT_WINDOW_SET commands that wait, each with the accesses translated through an older setting (R315) -/
  waiting : List (Line × List Nat)
deriving DecidableEq, Repr

/-- A link reset under way (R318). -/
structure NearReset where
  start : Gtc
  cause : Nat
  sentAck : Bool
  recvAck : Bool
  /-- a RESET_REQ or RESET_ACK has come from the far end; until then, when the next RESET_REQ leaves -/
  heard : Bool
  next : Gtc
deriving DecidableEq, Repr

/-- A near port. -/
structure NearPort where
  enable : Bool
  mode : Nat
  modeNext : Option Nat
  cfgReject : Bool
  /-- 0 DARK, 1 LIGHT, 2 ALIGN, 3 PARAM, 4 ACTIVE -/
  state : Nat
  /-- stamp at which the state was entered -/
  since : Gtc
  scRead : Bool
  downSeen : Bool
  resets : Nat
  delay : Nat
  lateSc : Nat
  bind : Rwt
  /-- PARAM exchange of R302: received, with echo, echoed by us, T_SEND to echo and its arrival -/
  paramRecv : Bool
  echoRecv : Bool
  echoSent : Bool
  tEcho : Nat
  tArrive : Gtc
  /-- credits of REQ, RSP, DB: advertised by the far end, held by us, and the far end's of ours in use -/
  farMax : List Nat
  credits : List Nat
  inUse : List Nat
  /-- cells waiting for credit, in the order of R307 inside each class -/
  waitq : List Cell
  tags : List NearReq
  nextTag : Nat
  nextId : Nat
  windows : Tbl Window
  lreset : Option NearReset
  /-- stamps of the link resets inside the 1 s window (R320) -/
  resetTimes : List Gtc
  /-- newest NOTIFY per ring: key and cell, held while the port is not ACTIVE (R321) -/
  notify : List ((Nat × Nat) × Cell)
  /-- newest NOTIFY sent per ring, re-sent after a link reset (R319) -/
  notified : List ((Nat × Nat) × Cell)
  /-- DOORBELL and PAGE_READY cells behind a write that is not visible yet (Table 11.6 rule 5) -/
  heldDb : List Cell
  /-- when the next PARAM and MAINT cells leave (R302, R324), and the last 64 bits of the MAINT sequence -/
  paramNext : Gtc
  maintNext : Gtc
  prbs : BitVec 64
deriving DecidableEq, Repr

/-! ## Key slots (R280 to R288) -/

/-- The key load registers (Table 10.1). -/
structure KeyLoad where
  /-- KEY_LOAD_CTL without GO -/
  ctl : W64
  /-- staging buffer, eight bytes a register -/
  data : List W64
  mask : Nat
  error : Bool
  code : Nat
  kcv : Nat
deriving DecidableEq, Repr

/-- A key slot: loaded, or zeroised with an OWNER left. -/
structure KeySlot where
  /-- 0 empty, 1 XTS, 2 GCM -/
  kind : Nat
  du : Nat
  owner : Nat
  key : BitVec 512
  kcv : Nat
  /-- a QP or job has used the slot since it was last written (R142) -/
  used : Bool
deriving DecidableEq, Repr

/-! ## Optics (R326 to R352) -/

/-- What the survey cells of a port's far end last said (Table 12.4). -/
structure Far where
  state : Nat
  ready : Bool
  rootPri : Nat
  rootHops : Nat
  rootIdx : Nat
  /-- folio in which the last survey cell arrived -/
  heard : Nat
  /-- TX_SEQ and arrival stamp of it -/
  seq : Nat
  arrival : Gtc
  prbs : BitVec 64
deriving DecidableEq, Repr

/-- A lattice port. -/
structure LatPort where
  /-- 0 DARK, 1 LIGHT, 2 ALIGN, 3 ATTEST, 4 TIMED, 5 ACTIVE -/
  state : Nat
  since : Gtc
  lag : Nat
  /-- READY set in its survey cells; consecutive folios with |theta| at most 64 units (R335) -/
  ready : Bool
  near64 : Nat
  /-- in DARK until the 10 ms retry (R333) -/
  wait : Bool
  /-- GTC load on this link: 0 not done, 1 refused and recorded, 2 done (R49) -/
  loadSt : Nat
  /-- CHALLENGE sent and received: own nonce; far nonce, sending port and coordinate (R487) -/
  nonce : Option (BitVec 256)
  farNonce : Option (BitVec 256 × Nat × Nat)
  /-- CHAIN and RESPONSE received -/
  chain : Option ChainMsg
  resp : Option RespMsg
  /-- survey slot from which its cells are numbered, the number of the first, and the slot of the next one to send -/
  surveyFrom : Gtc
  surveySeq : Nat
  surveyNext : Gtc
  /-- last 64 bits sent of its PRBS31 survey sequence (Table 12.4) -/
  prbs : BitVec 64
  /-- link payloads that wait for its survey slots, oldest first (R337) -/
  linkq : List Line
  far : Option Far
  /-- theta and delta of the pairs of the folio in progress, and their means over the last folio, in 1/16 unit -/
  pairs : List (Int × Int)
  mean : Option (Int × Int)
  /-- the checks of R32 and R149 passed (true), or failed and were recorded (false) -/
  checked : Option Bool
  /-- the far end's attestation is accepted (true) or refused (false) -/
  attested : Option Bool
  /-- stamps of the declarations inside the 60 s window (R338); DAMPED; L_ENABLE written 0 since -/
  downs : List Gtc
  damped : Bool
  /-- window of 256 slots and the uncorrectable codewords in it (Table 12.7) -/
  uncWin : Option Gtc
  uncCount : Nat
deriving DecidableEq, Repr

/-- CAL_STATUS fields of a port (Table 12.12). -/
structure Cal where
  degraded : Bool
  downSeen : Bool
  lastCause : Nat
  bitsLast : Nat
  uncorr : Nat
  fails : Nat
  /-- corrected bits of the open window -/
  bits : Nat
deriving DecidableEq, Repr

/-- The equaliser of a receive lane (R341): setting of the continuous-time linear one, the 12 feed-forward taps and the
decision-feedback tap. -/
structure Equaliser where
  ctle : Int
  ffe : List Int
  dfe : Int
deriving DecidableEq, Repr

/-- An optical engine (Table 12.10). -/
structure OptEng where
  temp : Int
  laserLow : Bool
  hot : Bool
  shutdown : Bool
  heaterLimit : Bool
  laserPwr : Nat
  /-- power in µW of each transmit lane's ring heater, and the consecutive ticks its error has pointed further out of
  range at a limit (R340) -/
  heat : List (Nat × Nat)
  /-- a port of the engine fails calibration at the next tick -/
  failNext : Bool
  /-- equalisers of the receive lanes, and the uncorrectable codewords of the folio whose symbols their gradient leaves
  out (R341) -/
  eqs : List Equaliser
  excluded : Nat
deriving DecidableEq, Repr

/-! ## Ethernet (R353 to R377) -/

/-- A Fyton/UDP peer entry (Table 13.4). -/
structure Peer where
  mac : Nat
  sub : Nat
  ipv6 : Bool
  vlanEn : Bool
  ecnEn : Bool
  dscp : Nat
  vlan : Nat
  fn : Nat
  nextHop : BitVec 48
  remoteIp : BitVec 128
  localIp : BitVec 128
deriving DecidableEq, Repr

/-- A valid filter entry (Table 13.3). -/
structure Filter where
  mac : Nat
  sub : Nat
  vlanMatch : Bool
  typeMatch : Bool
  vlan : Nat
  etherType : Nat
  da : BitVec 48
  qp : Nat
deriving DecidableEq, Repr

/-- A frame in a receive buffer, with the MAX_FRAME in force at its arrival (Table 13.11). -/
structure HeldFrame where
  frame : Frame
  maxFrame : Nat
  /-- stamp of its arrival: a port's MACs drain in arrival order (R355) -/
  arrived : Gtc
deriving DecidableEq, Repr

/-- A frame in transmission: its bytes without FCS, its priority, and the RAW_SEND it belongs to. -/
structure TxFrame where
  bytes : Nat
  prio : Nat
  raw : Option (Nat × Nat)
deriving DecidableEq, Repr

/-- A pause of one priority: timer's close, when the pause began, and whether its watchdog is still open (R368,
R370). -/
structure Pause where
  till : Gtc
  began : Gtc
deriving DecidableEq, Repr

/-- A MAC or sub-MAC. -/
structure Mac where
  addr : W64
  pfc : Rwt
  linkUp : Bool
  fecLock : Bool
  localFault : Bool
  remoteFault : Bool
  hiSer : Bool
  /-- hold-off window open until -/
  holdoff : Option Gtc
  brokenSeen : Bool
  dropSeen : Bool
  pauses : Tbl Pause
  /-- priorities for which XOFF is asserted, with the stamp of the last XOFF sent -/
  xoff : Tbl Gtc
  buffer : List HeldFrame
  tx : Option TxFrame
  /-- flow-control frames that wait for the end of the frame in transmission: priority, none for link PAUSE, and quanta
  (R369) -/
  ctlq : List (Option Nat × Nat)
deriving DecidableEq, Repr

/-! ## Security (R471 to R493) -/

/-- A boot control copy (Table 19.2): sequence number, PREFERRED slot, and the slots' states, 0 EMPTY, 1 VALID,
2 PENDING, 3 INVALID. -/
structure BootRec where
  seq : Nat
  preferred : Nat
  slotA : Nat
  slotB : Nat
deriving DecidableEq, Repr

/-- An SPDM request that waits for a signature: its bus, its code and the values its answer binds. -/
structure SpdmReq where
  bus : SpdmBus
  /-- 0 once a firmware restart has discarded its response (Table 19.7) -/
  code : Nat
  args : List Nat
  /-- GTC at which it joined the queue -/
  since : Gtc
deriving DecidableEq, Repr

/-- What the security block signs. -/
inductive SignJob where
  /-- one RESPONSE: (own port, far nonce, far port, far coordinate) (R488) -/
  | link (entries : List (Nat × BitVec 256 × Nat × Nat))
  | spdm (r : SpdmReq)
  /-- a codex checkpoint: SEQUENCE, STAMP and CHAIN of the record (R499) -/
  | checkpoint (seq stamp : Nat) (chain : BitVec 256)
  /-- the attestation-key certificate (R482) -/
  | certificate
deriving DecidableEq, Repr

/-- An SPDM session. -/
structure Session where
  id : Nat
  bus : SpdmBus
  /-- FINISH accepted -/
  established : Bool
deriving DecidableEq, Repr

/-- Fuses, flash, measurements, the signing queue and SPDM. -/
structure Sec where
  ownerHash0 : BitVec 256
  ownerHash1 : BitVec 256
  svn : Nat
  debugDisabled : Bool
  /-- the two boot control copies -/
  boot : List BootRec
  imageA : List Byte
  imageB : List Byte
  identCert : List Byte
  attCert : List Byte
  /-- the ROM has sensed the fuses since DEV_RESET_N -/
  sensed : Bool
  /-- slot, SVN, VERSION and BODY_HASH of the running image; effective owner hash of this boot -/
  slot : Nat
  fwSvn : Nat
  fwVersion : Nat
  bodyHash : BitVec 256
  ownerHash : BitVec 256
  /-- the ROM has written measurements 1 to 5 -/
  measured : Bool
  policy : W64
  signing : Option SignJob
  /-- ports that hold a far nonce not yet signed -/
  linkQ : List Nat
  spdmQ : List SpdmReq
  /-- a checkpoint waits for the block -/
  ckptQ : Option SignJob
  certQ : Bool
  /-- RESPONSE signed during a firmware restart, sent after it (Table 19.7) -/
  heldResp : List (Nat × List Byte)
  /-- image being written to the other slot: command (none for PLDM), slot and bytes -/
  staging : Option (Option Line × Nat × List Byte)
  /-- per bus: DOE, MCTP: version agreed, capabilities agreed, algorithms agreed -/
  spdmDoe : Bool × Bool × Bool
  spdmMctp : Bool × Bool × Bool
  sessions : List Session
  nextSession : Nat
deriving DecidableEq, Repr

/-! ## Engines (R253 to R279, R289 to R295) -/

/-- A step of a collective's RDX work (Table 9.7): 0 anchors a cell to `rank`, 1 accumulates a cell from `rank`, 2 rounds
a block; of a stage and round, with its cell or block and its cycles. -/
structure RedStep where
  kind : Nat
  stage : Nat
  round : Nat
  rank : Nat
  at_ : Nat
  cost : Nat
deriving DecidableEq, Repr

/-- A job of an engine. -/
structure Job where
  /-- 0 RDX, 1 FMT, 2 SPX, 3 CPH, 4 CHK, 5 MOV -/
  kind : Nat
  op : Nat
  /-- the ENGINE_JOB command, or QP, descriptor index and stage of a chain -/
  cmd : Option Line
  chain : Option (Nat × Nat × Nat)
  /-- segment of a sealed QP it seals (false) or opens (true): QP, sequence (R288) -/
  gcm : Option (Nat × Nat × Bool)
  /-- collective it works for: communicator and descriptor (R253) -/
  coll : Option (Nat × Nat)
  /-- its steps of this folio -/
  work : List RedStep
  fn : Nat
  dom : Nat
  urgent : Bool
  /-- stages an SC flow (R262) -/
  sc : Bool
  srcCtx : Nat
  dstCtx : Nat
  len : Nat
  p0 : Nat
  p1 : Nat
  srcFmt : Nat
  dstFmt : Nat
  keySlot : Nat
  chkSet : Nat
  /-- the source and destination ranges: one, or the entries of a scatter-gather list (R258) -/
  src : List (Nat × Nat)
  dst : List (Nat × Nat)
  /-- CRC: V and BYTES it starts from (R292) -/
  v0 : Nat
  bytes0 : Nat
  /-- steps committed, and bytes they have written to DST (R254) -/
  done : Nat
  written : Nat
  poison : Bool
  overflow : Bool
  /-- engine of the last piece, and the pieces of this folio in time order: engine, first and end cycle -/
  engine : Option Nat
  pieces : List (Nat × Nat × Nat)
  /-- engines fenced while a step of it was in progress (R272) -/
  hits : List Nat
  /-- MOV line buffer: step, its bytes so far, reads outstanding, poison (R265) -/
  buffer : Tbl (List Byte × Nat × Bool)
  /-- MOV writes not yet visible -/
  writes : Nat
  /-- every step has had its cycles: only the last commit is outstanding -/
  fin : Bool
  /-- lines of host-bias pages asked for, and those the host answered with data (R386) -/
  asked : Bool
  hostLines : Tbl Line
  /-- status it ends with whatever steps are left (R265, R275, R415) -/
  ended : Option Nat
deriving DecidableEq, Repr

/-- CRC parameters (Table 10.3, R291). -/
structure ChkSet where
  fn : Nat
  width : Nat
  poly : Nat
  init : Nat
  refIn : Bool
  refOut : Bool
  xorOut : Nat
  append : Bool
deriving DecidableEq, Repr

/-- The engine zoo. -/
structure Zoo where
  /-- in admission order -/
  jobs : Tbl Job
  nextJob : Nat
  /-- ENG_FENCED bits -/
  fenced : List Nat
  /-- ENGINE_UNFENCE under way: bit, folio of acceptance, command and the self-test's result -/
  tests : List (Nat × Nat × Line × Option Bool)
  chkSets : Tbl ChkSet
  scrubCfg : Rwt
  passes : Nat
  corrected : Nat
  uncorrected : Nat
  /-- last line the scrubber read -/
  scrubLine : Nat
  /-- format errors counted by the engines, by source number (R202) -/
  fmtErrors : Tbl Nat
deriving DecidableEq, Repr

/-! ## Collectives (R227 to R252) -/

/-- A stream sent: its receivers, by rank, and those that have acknowledged it. -/
structure TxStream where
  stage : Nat
  round : Nat
  /-- 0 unicast, 1 row cast, 2 column cast -/
  cast : Nat
  dests : List Nat
  acked : List Nat
  cells : List Line
  /-- cells there to be sent: those anchored or rounded so far; of a cast passed on, those that have come -/
  have_ : Nat
  /-- the member whose SC cast it passes on (R246) -/
  relayOf : Option Nat
  /-- flow it travels on (R246), whether admitted, its check tick, and whether it has left the flow for EC -/
  flow : Option Nat
  admitted : Bool
  check : Option Nat
  asEc : Bool
  /-- originals still to go on the flow, cells listed since, slot in which each last left, and stamps of cells re-sent -/
  left : List Nat
  again : List Nat
  sentIn : Tbl Nat
  resent : Tbl Gtc
deriving DecidableEq, Repr

/-- A stream expected: its sender, by rank, and what has arrived (R245). -/
structure RxStream where
  stage : Nat
  round : Nat
  from_ : Nat
  cells : Nat
  /-- cells whose arrival bit is set -/
  got : Tbl Line
  /-- RED cells that wait for their accumulation step (R19, R269) -/
  todo : Tbl Line
  /-- result writes of its cells that are not yet visible -/
  writes : Nat
  /-- some of it came as SC -/
  sc : Bool
deriving DecidableEq, Repr

/-- A collective of a communicator, from admission to completion. -/
structure Coll where
  idx : Nat
  desc : Line
  /-- shared slots granted (R243) -/
  granted : Nat
  /-- waits in the FIFO: opening of its window (R244) -/
  waits : Option Gtc
  /-- staged source bytes by round, with reads outstanding and poisoned ranges (R248) -/
  staged : Tbl (List Byte × Nat × List (Nat × Nat))
  /-- streams not yet acknowledged by every receiver -/
  tx : List TxStream
  rx : List RxStream
  /-- (stage, round) started here -/
  began : List (Nat × Nat)
  /-- accumulators of the chunk of its column, by round (R218, R237) -/
  acc : Tbl (List (Option Int))
  /-- rounds whose own piece has been rounded (R219, R240) -/
  rounded : List Nat
  /-- rounds whose result is written here -/
  ended : List Nat
  /-- result writes outstanding -/
  writes : Nat
  poison : Bool
  overflow : Bool
  missed : Bool
  /-- retransmission timer and budget (R245), receivers that answered NAK RNR, and the stage and round of the stream whose NAK
  opened the last round (R130) -/
  timer : Option (Gtc × Nat)
  retryLeft : Nat
  rnr : List Nat
  rnrOf : Option (Nat × Nat)
deriving DecidableEq, Repr

/-- A communicator (Table 8.1). -/
structure Comm where
  fn : Nat
  qp : Nat
  isList : Bool
  sched : Bool
  slots : Nat
  shared : Nat
  x0 : Nat
  y0 : Nat
  xc : Nat
  yc : Nat
  coords : List Nat
  waitUs : Nat
  flowMap : Nat
  listAddr : Nat
  /-- COLL_SEQ the next descriptor carries -/
  nextSeq : Nat
  /-- some COLL_SEQ has been admitted -/
  begun : Bool
  run : List Coll
  /-- cells for collectives not started here, with their folio of arrival (R245) -/
  stash : List (Cell × Nat)
  /-- collectives aborted: COLL_SEQ, status, ticks of ABORT cells left, and whether by this member (R247) -/
  aborted : List (Nat × Nat × Nat × Bool)
  /-- closing tick of the suspension window (R249) -/
  notice : Option Nat
deriving DecidableEq, Repr

/-- Communicators and the reduction store. -/
structure Col where
  comms : Tbl Comm
  /-- collectives that wait for shared slots, oldest first: communicator and descriptor (R243) -/
  fifo : List (Nat × Nat)
  noSlotSeen : Bool
  /-- slots of destroyed communicators, back in the quota at the next tick (R230): domain and number -/
  back : List (Nat × Nat)
deriving DecidableEq, Repr

/-- What the opaque body of an export image holds (R439), known to this model by the body's bytes. -/
structure Export where
  body : List Byte
  qps : Tbl Qp
  /-- KCV of each seal slot the QPs name -/
  kcvs : Tbl Nat
  regions : Tbl Region
  ctxs : Tbl Ctx
  trig : Tbl Nat
  comms : Tbl Comm
  cqs : Tbl (List CqRing)
  eqs : Tbl CqRing
deriving DecidableEq, Repr, Inhabited

/-! ## The present crossbar cycle -/

/-- An async event raised in this cycle and not yet written: function, code, source, CARREL, OBJECT, DATA (R38, R89). -/
structure PendEvent where
  fn : Nat
  code : Nat
  src : Source
  carrel : Nat
  obj : Nat
  data : BitVec 352
deriving DecidableEq, Repr

/-- What the commands and closes of the present crossbar cycle leave to its end, where they are taken together. -/
structure Cycle where
  /-- events, in the order they were raised -/
  events : List PendEvent
  /-- routed cells not for this adapter that arrived in it: port, slot, cell (Table 5.4) -/
  arrivals : List (Nat × Nat × Cell)
  /-- LATTICE_INJECTION was given in it -/
  inject : Bool
  /-- lattice ports that meet a condition of Table 12.7 in it: port, lowest CAUSE so far, lane (R343) -/
  failing : List (Nat × Nat × Nat)
  /-- lattice ports in ACTIVE whose L_ENABLE bit it cleared: they are DARK at its end (R333, Table 12.13) -/
  darken : List Nat
  /-- QPs that owe an ACK for segments completed in it (R123) -/
  acks : List Nat
  /-- additions to trigger counters made in it (R223) -/
  adds : Tbl Nat
  /-- lines whose access in it met an uncorrectable die-bridge word (R516) -/
  bridged : List Nat
  /-- records bound for the journal in it (R95) -/
  journal : List JEntry
  /-- HBM runs the host has written over CXL.mem or the transport has placed, not yet looked at for doorbells: address,
  length (R71) -/
  placed : List (Nat × Nat)
  /-- link loss was declared in it while BAR accesses reached the block (Table 14.10) -/
  barWas : Bool
  /-- MACs told to start a frame in it: what ends in it is seen first (Table 13.11) -/
  starts : List Nat
  /-- events of the compatibility counters in it (R376) -/
  compat : Tbl Nat
  /-- collectives whose DIGEST a cell has contradicted: communicator and descriptor (R234) -/
  digests : List (Nat × Nat)
  /-- ENGINE_JOB jobs, and descriptors with a chain, admitted in it (Table 10.9) -/
  newJobs : List Nat
  newOps : List (Nat × Nat)
  /-- CHK_SET_DEFINE commands taken in it (Table 10.9) -/
  defines : List Line
  /-- W1C bits set in it: BAR0 offset of their register (0x4000000 + function for a TRN_CTL_CFG) and bit (R525) -/
  sticky : List (Nat × Nat)
  /-- KEY_LOAD_DATA writes of it, oldest first: they land behind a GO of the cycle (Table 22.10) -/
  staged : List (Nat × W64)
  /-- link loss was declared in it: the staging buffer is cleared, behind a GO of the cycle (R394, Table 22.10) -/
  unstage : Bool
  /-- management-bus writes of it, oldest first: they act behind the BAR0 writes of the cycle (R535) -/
  mgmt : List (Nat × W64)
  /-- VFs whose TRN_CTL_CFG was written in it, as they were before (Table 22.10) -/
  ctlWas : List (Nat × Fn)
deriving DecidableEq, Repr

/-! ## The state -/

/-- HBM: bytes by physical address, in canonical form (Memory.wf), and the lines marked poisoned (R513). -/
structure Hbm where
  cells : List Host.Cell
  poison : List Nat
deriving DecidableEq, Repr

/-- The whole state of the block. -/
structure State where
  /-- commands waiting, first in first out -/
  pending : List Instr
  pkg : Pkg
  glb : Glb
  fw : Fw
  codex : Codex
  time : TimeUnit
  hbm : Hbm
  /-- HBM writes of the command being executed, newest first: empty between commands -/
  wlog : List Host.Cell
  /-- granules whose zero fill ends in the command being executed: empty between commands -/
  wipe : List Nat
  /-- what the present crossbar cycle leaves to its end -/
  cyc : Cycle
  /-- the model's own counter of free values drawn (not the spec's; log 6) -/
  draws : Nat
  fns : Tbl Fn
  cqs : Tbl (List CqRing)
  mgrSq : Ring
  mgrCq : CqRing
  mgrBase : W64
  /-- TRN_MGR_CFG without CFG_ERROR -/
  mgrCfg : W64
  mgrErr : Bool
  journal : Journal
  doms : Tbl Domain
  /-- stages accepted in this folio: domain, descriptor, command and the commands it displaced (R430) -/
  stages : Tbl (DomCfg × Line × List Line)
  /-- bodies of the export images written, newest first (R439) -/
  exports : List Export
  xl : Xl
  cxl : Cxl
  qps : Tbl Qp
  /-- QP_MODIFY, QP_PEER_MOVE and QP_SHAPE commands accepted in this folio, oldest first: QP and command (R104) -/
  qpNext : List (Nat × Line)
  /-- PEER_GONE notices still owed (R145) -/
  gone : List Gone
  regions : Tbl Region
  /-- generation last issued for a region index -/
  regionGen : Tbl Nat
  /-- trigger counters that differ from 0 (R222) -/
  trig : Tbl Nat
  lat : Lattice
  latOut : Output
  macOut : Tbl Output
  prioWeight : Rwt
  police : Tbl Police
  sched : Sched
  cnt : Cnt
  near : List NearPort
  keys : Tbl KeySlot
  keyLoad : KeyLoad
  lports : List LatPort
  /-- CAL_STATUS: L0 to L7, N0 to N3 -/
  cals : List Cal
  engs : List OptEng
  optCfg : W64
  calCfg : Rwt
  /-- tick that closed the last window of R342 -/
  calAt : Nat
  sec : Sec
  zoo : Zoo
  col : Col
  /-- MAC_CFG[e] -/
  macCfg : List Rwt
  macs : List Mac
  /-- compatibility counters: 11 * e + i, i in the order of Table 13.10 -/
  compat : Tbl Nat
  peers : Tbl Peer
  filters : Tbl Filter
  outbox : List Emit
deriving DecidableEq, Repr

/-! ## After reset -/

/-- A ring nothing uses. -/
def Ring.none_ (fn : Nat) : Ring :=
  { fn := fn, place := .host, addr := 0, dom := 64, seg := none, shadowSeg := none, log2 := 4, bell := 0,
    shadow := none, bind := 0, enabled := false, pDev := 0, cDev := 0, stopped := false, linkStop := false,
    window := none, refetches := 0, lastPoison := false, lapFound := 0, handed := [], destroy := [] }

/-- A completion ring nothing uses. -/
def CqRing.none_ (fn num : Nat) (isEq : Bool) : CqRing :=
  { fn := fn, num := num, isEq := isEq, place := .host, addr := 0, dom := 64, seg := none, shadowSeg := none,
    log2 := 4, bell := 0, shadow := none, vector := 0, notify := false, nport := 0, modFolios := 0, modCount := 0,
    pIdx := 0, cIdx := 0, armed := false, since := 0, winFolio := none, raiseAt := none, held := [],
    overFolio := none, journalled := false, seq := 0, destroy := [] }

/-- A function at reset (Tables 3.2, 14.5, 16.11); PF0 has no VF state, its fields of it are not read. -/
def Fn.reset (n : Nat) : Fn :=
  { ctlBase := 0, ctlCfg := 4, ctlErr := false, ctlSq := Ring.none_ n, ctlCq := CqRing.none_ n 0 false, eq := none,
    msix := [], msixEnable := false, msixMask := false, ats := false, pri := false, priStopped := false,
    state := if n = 0 then .enabled else .disabled, enable := false, endEnabled := false, fence := none,
    fenced := false, cleaned := false, waiters := [], awaits := [], enableNext := false, resetSeen := false, resets := 0,
    badBells := 0 }

/-- A domain with nothing in it. -/
def DomCfg.empty : DomCfg :=
  { granules := [], qpBase := 0, qpCount := 0, regionBase := 0, regionCount := 0, ctxBase := 0, ctxCount := 0,
    keyBase := 0, keyCount := 0, trigBase := 0, trigCount := 0, jobQuota := 0, commQuota := 0, slotQuota := 0,
    deferredQuota := 0, transport := 0, stashMib := 0, weights := [0, 0, 0, 0, 0, 0], vfs := 0 }

/-- A domain just created (R430, R454). -/
def Domain.new (c : DomCfg) : Domain :=
  { cfg := c, suspended := false, suspendedAt := 0, quiesced := false, suspendNext := none,
    destroyNext := none, wLat := 16, wEth := 16, rate := 0, burst := 0, policeLimit := 0, policeFolios := 1, tokens := 0,
    schedNext := [],
    allocLog := none }

/-- The manager domain after INIT_DONE (R507). -/
def DomCfg.manager : DomCfg :=
  { DomCfg.empty with granules := [5, 4], transport := 1, stashMib := 256, weights := [16, 16, 16, 16, 16, 16],
                      jobQuota := 256, deferredQuota := 256 }

def Pkg.reset : Pkg :=
  { rails := true, refclk := true, inReset := false, testMode := false, mgmtMode := false, addrSel := 0,
    perst := false, perstReset := false, fatalN := false, thermN := false, alertN := false, mctpPending := false, ppsHigh := none }

def Glb.reset : Glb :=
  { bridgeUp := false, hbmReady := false, tablesReady := false, fwRunning := false, initDone := false, fatal := false,
    recovery := false, fwHalted := false, filled := [], ready := 0, fatalCause := 0, fatalSource := 0,
    fatalStamp := 0, errCfg := 0x1000, narrowSeen := false, mgmtWriteSeen := false, lastOffset := 0,
    bridgeWin := none, bridgeCount := 0, aerCorrAt := none }

def Codex.reset : Codex :=
  { first := [], ring := [], ringPos := 4096, nextSeq := 0, lastChain := 0, resumed := true, clearCount := 0,
    handed := [], queue := [], lost := 0, lostFirst := 0, lostLast := 0, freeAt := 0, overflowSeen := false, torn := false,
    readMiss := false, readSeq := 0, ckSeq := 0, ckAt := 0, ckPending := none }

def TimeUnit.reset : TimeUnit :=
  { gtc := 0, gtcMem := 0, frac := 0, slew := 0, tick := 0, cfg := 0xFF01, fsize := 1, fsNext := none,
    epochSeconds := 1704067200, asym := List.replicate 8 0, locked := false, isRoot := false, holdover := false,
    refLost := false, cfgReject := false, stepSeen := false, depth := 0, offset := 0, rootPri := 255, rootIdx := 0,
    parent := none, rootHeard := 0, traceable := false, refOffset := none, refStep := false, acquired := false, loadDue := false,
    step := none, ppsEdges := [], tenMhz := true, prior := none, restartHold := false }

def Journal.reset : Journal :=
  { base := 0, cfg := 0x12, writes := 0, losses := 0, lossStamp := 0, held := [] }

def Xl.reset : Xl :=
  { ctxs := [], atc := [], pinned := [], accesses := [], nextAccess := 0, faults := [], nextFault := 0,
    faultFullSeen := false, logBase := 0, logCfg := 0x0A, logWrites := 0, pinAsk := [],
    stale := [], atsInv := [] }

def Cxl.reset : Cxl :=
  { cfg := 0, ideRequired := false, ideSkid := false, linkUp := false, lost := false, ideSecure := false,
    lossSeen := false, retrainSeen := false, ideFail := false, width := 0, speed := 0, flit256 := false, losses := 0,
    retrains := 0, vfEnable := false, numVfs := 0, memSpace := false, busMaster := false, cacheEnable := false,
    memEnable := false, hdmBase := none, hdmAccess := [rwt 0x30, rwt 0, rwt 0, rwt 0, rwt 0], deniedSeen := false,
    denied := 0, hostBias := [], biasJob := [], reads := [], nextReq := 0, cacheReqs := [], biasWait := [] }

def Lattice.reset : Lattice :=
  { cfg := 0, cfgReject := false, tableMiss := false, ccCfg := rwt 0x1000000100040, routes := [],
    tableIds := [none, none], epoch := 0, switch := none, switchLate := false, oldUntil := none, retired := false, bufA := [], bufB := [], used := [],
    usedAt := 0, ejected := [], drops := 0, seen := [] }

def Output.reset : Output := { ctl := [], ctlRun := 0, v := 0, carrelTags := [], carrelV := [] }

def Sched.reset : Sched :=
  { sets := [], active := none, activeFrom := 0, contLink := none, pending := none, lateBase := false,
    loadError := false, loadRule := 0, lastLoaded := none, reports := [], binds := [], voids := [], frozen := [],
    notices := [], covered := [], expect := [], rewind := [], ackRest := [], naks := [], ctl := [] }

def Cnt.reset : Cnt :=
  { fixed := [], prog := [], latched := [], latchedProg := [], sel := [], dumpBase := rwt 0, dumpCfg := rwt 4,
    bwCfg := rwt 1024, sampleBase := rwt 0, sampleCfg := rwt 0xA00, dumpSeq := 0, prevTick := 0, lastDump := 0,
    stepped := false, commit := false, dumpMiss := false, carrelMiss := false, sampleMiss := false, sampleSeq := 0, samples := [],
    bwFrom := 0, bwDue := none, bwOpen := [], bwLast := [], bwEnd := 0, carrelRings := [], carrelNext := [] }

def NearPort.reset : NearPort :=
  { enable := false, mode := 0, modeNext := none, cfgReject := false, state := 0, since := 0, scRead := false,
    downSeen := false, resets := 0, delay := 0, lateSc := 0, bind := rwt 0, paramRecv := false, echoRecv := false,
    echoSent := false, tEcho := 0, tArrive := 0, farMax := [0, 0, 0], credits := [0, 0, 0], inUse := [0, 0, 0],
    waitq := [], tags := [], nextTag := 0, nextId := 0, windows := [], lreset := none, resetTimes := [], notify := [], notified := [],
    heldDb := [], paramNext := 0, maintNext := 0, prbs := 0 }

def Cal.reset : Cal := ⟨false, false, 0, 0, 0, 0, 0⟩

def LatPort.reset : LatPort :=
  { state := 0, since := 0, lag := 0, ready := false, near64 := 0, wait := false, loadSt := 0, nonce := none,
    farNonce := none, chain := none, resp := none, surveyFrom := 0, surveySeq := 0, surveyNext := 0, prbs := 0, linkq := [],
    far := none, pairs := [], mean := none, checked := none, attested := none, downs := [], damped := false, uncWin := none,
    uncCount := 0 }

def Mac.reset : Mac :=
  { addr := 0, pfc := rwt 0xFFFFFF300400, linkUp := false, fecLock := false, localFault := false, remoteFault := false,
    hiSer := false, holdoff := none, brokenSeen := false, dropSeen := false, pauses := [], xoff := [], buffer := [],
    tx := none, ctlq := [] }

def Sec.reset : Sec :=
  { ownerHash0 := 0, ownerHash1 := 0, svn := 0, debugDisabled := true, boot := [⟨0, 0, 0, 0⟩, ⟨0, 0, 0, 0⟩], imageA := [],
    imageB := [], identCert := [], attCert := [], sensed := false, slot := 0, fwSvn := 0, fwVersion := 0, bodyHash := 0,
    ownerHash := 0, measured := false, policy := 0, signing := none, linkQ := [], spdmQ := [], ckptQ := none, certQ := false,
    heldResp := [], staging := none, spdmDoe := (false, false, false), spdmMctp := (false, false, false), sessions := [],
    nextSession := 1 }

def Zoo.reset : Zoo :=
  { jobs := [], nextJob := 0, fenced := [], tests := [], chkSets := [], scrubCfg := rwt 0x118, passes := 0,
    corrected := 0, uncorrected := 0, scrubLine := 0, fmtErrors := [] }

def Cycle.none_ : Cycle :=
  { events := [], arrivals := [], inject := false, failing := [], darken := [], acks := [], adds := [], bridged := [], journal := [], placed := [],
    barWas := false, starts := [], compat := [], digests := [], newJobs := [], newOps := [], defines := [], sticky := [], staged := [],
    unstage := false, mgmt := [], ctlWas := [] }

def Col.reset : Col := { comms := [], fifo := [], noSlotSeen := false, back := [] }

/-- The block in the crossbar cycle of the release of DEV_RESET_N, rails valid, nothing done yet (R27, R506, R524;
log 4). -/
def State.reset : State :=
  { pending := [], pkg := Pkg.reset, glb := Glb.reset, fw := ⟨none, [], []⟩, codex := Codex.reset,
    time := TimeUnit.reset, hbm := ⟨[], []⟩, wlog := [], wipe := [], cyc := Cycle.none_, draws := 0, fns := [], cqs := [],
    mgrSq := Ring.none_ 0, mgrCq := CqRing.none_ 0 0 false, mgrBase := 0, mgrCfg := 4, mgrErr := false,
    journal := Journal.reset, doms := [], stages := [], exports := [], xl := Xl.reset, cxl := Cxl.reset, qps := [], qpNext := [], gone := [], regions := [], regionGen := [],
    trig := [], lat := Lattice.reset, latOut := Output.reset, macOut := [], prioWeight := rwt 0x8040201008040201,
    police := [], sched := Sched.reset,
    cnt := Cnt.reset,
    near := List.replicate 4 NearPort.reset,
    keys := [],
    keyLoad := ⟨0, List.replicate 8 0, 0, false, 0, 0⟩,
    lports := List.replicate 8 LatPort.reset, cals := List.replicate 12 Cal.reset,
    engs := List.replicate 16 ⟨0, false, false, false, false, 0, List.replicate 8 (0, 0), false,
      List.replicate 8 ⟨0, List.replicate 12 0, 0⟩, 0⟩, optCfg := 0x500000, calCfg := rwt 0x403700058, calAt := 0, sec := Sec.reset, zoo := Zoo.reset, col := Col.reset,
    macCfg := List.replicate 8 (rwt 0x000A14405A102400), macs := List.replicate 16 Mac.reset, compat := [], peers := [],
    filters := [],
    outbox := [] }

end Sys2Proof.Machine
end

