-- ==== Sys2Proof/Machine/Ops.lean ====
section
/-! DEFINITION. Ops.lean: the shared operations: when the block runs, committing a command's effect, the clock, HBM,
counters, codex hand-over, near-port requests, records on rings and events. -/

namespace Sys2Proof.Machine

open Host (Outcome)

/-! ## Running and committing -/

/-- The block runs: rails valid, out of reset, not fatal (R510, R518, R545). -/
def State.running (s : State) : Bool :=
  s.pkg.rails && s.pkg.refclk && !s.pkg.inReset && !s.pkg.testMode && !s.glb.fatal

/-- Powered and out of reset, fatal or not: the host interface, configuration space and the GLB and CDX registers answer
(R518). -/
def alive (s : State) : Bool := s.pkg.rails && s.pkg.refclk && !s.pkg.inReset && !s.pkg.testMode

/-- What a command leaves of its effect `s'` from `s`: granules it wipes read zero (R275), its HBM writes land, in order,
in the canonical list; the queue
is not the command's to change. -/
def commit (s s' : State) : State :=
  { s' with
    hbm := { s'.hbm with cells := memApply (s.hbm.cells.filter fun e => ¬ s'.wipe.contains (e.1 / 2 ^ 30)) s'.wlog }
    wlog := [], wipe := [], pending := s.pending }

/-- As `commit`, for a command that takes no time: the clock stays. -/
def commitNow (s s' : State) : State :=
  let c := commit s s'
  { c with time := { c.time with gtc := s.time.gtc, gtcMem := s.time.gtcMem, frac := s.time.frac, tick := s.time.tick } }

def emit (s : State) (e : Emit) : State := { s with outbox := s.outbox ++ [e] }

/-- Draw a free value of `w` bits (log 6). -/
def draw (s : State) (w : Nat) : BitVec w × State := (Config.freeBits w s.draws, { s with draws := s.draws + 1 })

/-! ## Clock (R30, R31, R34, R47) -/

/-- Folio length in GTC units (R30). -/
def folioLen (fsize : Nat) : Nat := 24576 <<< fsize

def State.F (s : State) : Nat := folioLen s.time.fsize
def State.now (s : State) : Gtc := s.time.gtc
/-- number of the folio in progress -/
def State.folio (s : State) : Nat := s.time.tick
def State.slots (s : State) : Nat := 4096 <<< s.time.fsize

/-- 2^-16 units of one crossbar cycle under the rate correction (R47). -/
def cycleUnits (t : TimeUnit) : Nat := (12 * 65536 + t.slew).toNat

/-- Crossbar cycles to the first one whose GTC is at least `g` (R31, R34). -/
def cyclesTo (t : TimeUnit) (g : Gtc) : Nat := cdiv (g * 65536 - (t.gtc * 65536 + t.frac)) (cycleUnits t)

/-- The clock after `n` crossbar cycles: an unsigned 64-bit count (R26); the visible GTC never decreases (R47). -/
def TimeUnit.run (t : TimeUnit) (n : Nat) : TimeUnit :=
  let u := t.gtc * 65536 + t.frac + n * cycleUnits t
  { t with gtc := u / 65536 % 2 ^ 64, gtcMem := u / 65536 % 2 ^ 64, frac := u % 65536 }

/-- The writer's release of records whose stamp is 2 µs past (R497). -/
def codexRelease (c : Codex) (now : Gtc) : Codex :=
  let ready := c.handed.filter fun r => r.stamp + 32000 ≤ now
  let c := { c with handed := c.handed.filter fun r => ¬ (r.stamp + 32000 ≤ now) }
  ready.foldl (fun c r =>
    if c.queue.length < 1024 then { c with queue := c.queue ++ [r] }
    else { c with lost := c.lost + 1, lostLast := r.stamp, lostFirst := if c.lost = 0 then r.stamp else c.lostFirst }) c

/-- `n` crossbar cycles pass; absorbed cells and cells held for credit are counted for each (Table 18.3). -/
def State.pass (s : State) (n : Nat) : State :=
  let t := s.time.run n
  let absorbed := n * (s.lat.bufA.length + s.lat.bufB.length)
  let fixed := if absorbed = 0 then s.cnt.fixed else tmod s.cnt.fixed (15808 + 8 * 6) 0 fun v => (v + absorbed) % 2 ^ 64
  let waits := (s.near.zipIdx.filter fun p => !p.1.waitq.isEmpty && p.1.state = 4).map (·.2)
  let fixed := waits.foldl (fun f k => tmod f (2112 + 256 * k + 8 * 15) 0 fun v => (v + n) % 2 ^ 64) fixed
  { s with time := t, codex := codexRelease s.codex t.gtc, cnt := { s.cnt with fixed := fixed } }

/-- Move to the first crossbar cycle whose GTC is at least `g`. -/
def State.runTo (s : State) (g : Gtc) : State := s.pass (cyclesTo s.time g)

/-- GTC of the next tick due. -/
def State.nextTickAt (s : State) : Gtc := (s.time.tick + 1) * s.F

/-- Close of a window: a GTC (R34) or a tick (R35). -/
inductive Deadline where
  | at (g : Gtc) | tick (k : Nat)
deriving DecidableEq, Repr

/-! ## Tables of objects -/

def getFn (s : State) (n : Nat) : Fn := tget s.fns n (Fn.reset n)
def modFn (s : State) (n : Nat) (f : Fn → Fn) : State := { s with fns := tput s.fns n (f (getFn s n)) }
def getDom (s : State) (c : Nat) : Option Domain := s.doms.lookup c
def modDom (s : State) (c : Nat) (f : Domain → Domain) : State := { s with doms := tupd s.doms c f }
def getQp (s : State) (q : Nat) : Option Qp := s.qps.lookup q
def modQp (s : State) (q : Nat) (f : Qp → Qp) : State := { s with qps := tupd s.qps q f }
def getNear (s : State) (n : Nat) : NearPort := lget s.near n NearPort.reset
def modNear (s : State) (n : Nat) (f : NearPort → NearPort) : State := { s with near := lmod s.near n f }
def modTime (s : State) (f : TimeUnit → TimeUnit) : State := { s with time := f s.time }
def modGlb (s : State) (f : Glb → Glb) : State := { s with glb := f s.glb }
def modCxl (s : State) (f : Cxl → Cxl) : State := { s with cxl := f s.cxl }
def modXl (s : State) (f : Xl → Xl) : State := { s with xl := f s.xl }
def modCodex (s : State) (f : Codex → Codex) : State := { s with codex := f s.codex }
def modLat (s : State) (f : Lattice → Lattice) : State := { s with lat := f s.lat }
def modSched (s : State) (f : Sched → Sched) : State := { s with sched := f s.sched }
def modCnt (s : State) (f : Cnt → Cnt) : State := { s with cnt := f s.cnt }

/-- Domain of a function: 64 for PF0, the carrel of a VF, none for a VF in no carrel (R422, R423). -/
def fnDom (s : State) (fn : Nat) : Option Nat :=
  if fn = 0 then some 64
  else (s.doms.find? fun e => e.1 < 64 && bitAt e.2.cfg.vfs (fn - 1)).map (·.1)

/-- Source number of a function (Table 2.3; PF0 reports as the device, Table 3.11). -/
def fnSource (fn : Nat) : Source := if fn = 0 then 0x3FF else 0xFF + fn

/-- CARREL field of an event or codex record (R422). -/
def carrelField (dom : Nat) : Nat := if dom < 64 then dom else 0xFF

/-! ## Allocations and HBM (R274, R275, R427, R428) -/

def granuleSize : Nat := 2 ^ 30
/-- bytes of HBM: 288 granules (R274) -/
def hbmSize : Nat := 288 * 2 ^ 30

/-- Physical HBM byte of an allocation offset, none in a hole or past the list (R275, R427). -/
def allocPhys (c : DomCfg) (off : Nat) : Option Nat :=
  match c.granules[off / granuleSize]? with
  | some g => if g = 0xFFFF then none else some (g * granuleSize + off % granuleSize)
  | none => none

/-- Every byte of an allocation range exists. -/
def allocCovers (c : DomCfg) (off len : Nat) : Bool :=
  len = 0 || ((List.range ((off + len - 1) / granuleSize + 1 - off / granuleSize)).all fun i =>
    (allocPhys c ((off / granuleSize + i) * granuleSize)).isSome)

/-- A range a function may name: inside the allocation, no byte in a hole, at or above the transport area (R428). -/
def allocNamed (c : DomCfg) (off len : Nat) : Bool := c.transport * granuleSize ≤ off && allocCovers c off len

def domPhys (s : State) (dom off : Nat) : Option Nat := (getDom s dom).bind fun d => allocPhys d.cfg off
def domNamed (s : State) (dom off len : Nat) : Bool :=
  match getDom s dom with
  | some d => allocNamed d.cfg off len
  | none => false

/-- A stage accepted and not yet committed takes a position of the range away: a command that names the range after it fails
(Table 16.12). -/
def leaving (s : State) (dom off len : Nat) : Bool :=
  match s.stages.lookup dom with
  | some (f, _, _) => len ≠ 0 && !allocCovers f off len
  | none => false

/-- A byte of HBM as the command sees it. -/
def rdByte (s : State) (a : Nat) : Byte := (s.wlog.lookup a).getD (memRead s.hbm.cells a)

/-- One byte of HBM written by the command; bytes past the 288 granules do not exist. -/
def wrByte (s : State) (a : Nat) (v : Byte) : State :=
  if a < hbmSize then { s with wlog := (a, v) :: s.wlog } else s

def rdPhys (s : State) (a n : Nat) : List Byte := (List.range n).map fun i => rdByte s (a + i)

/-- Bytes written one after the other from `a`. -/
def wrRun (s : State) : Nat → List Byte → State
  | _, [] => s
  | a, b :: bs => wrRun (wrByte s a b) (a + 1) bs

/-- Lines wholly inside [a, a + n). -/
def wholeLines (a n : Nat) : List Nat :=
  (List.range (n / 64 + 1)).filterMap fun i =>
    let l := cdiv a 64 + i
    if a ≤ 64 * l && 64 * l + 64 ≤ a + n then some l else none

/-- Lines touched by [a, a + n). -/
def linesOf (a n : Nat) : List Nat :=
  if n = 0 then [] else (List.range ((a + n - 1) / 64 + 1 - a / 64)).map (a / 64 + ·)

/-- A fixed counter of the device dump gains `n` (R458). -/
def bump (s : State) (key n : Nat) : State :=
  modCnt s fun c => { c with fixed := tmod c.fixed key 0 fun v => (v + n) % 2 ^ 64 }

def latCnt (p i : Nat) : Nat := 64 + 256 * p + 8 * i
def nearCnt (n i : Nat) : Nat := 2112 + 256 * n + 8 * i
def macCnt (k i : Nat) : Nat := 3136 + 128 * k + 8 * i
def cxlCnt (i : Nat) : Nat := 5184 + 8 * i
def engCnt (src i : Nat) : Nat := 5440 + 32 * (src - 0x40) + 8 * i
def domCnt (c i : Nat) : Nat := 7488 + 128 * c + 8 * i
def devCnt (i : Nat) : Nat := 15808 + 8 * i

/-! ## Programmable counters (R464, R465) -/

/-- An event a programmable counter may count (Table 18.4). -/
structure ProgEv where
  code : Nat
  source : Source
  dom : Option Nat
  cls : Option Nat
  seg : Option (Nat × Nat)
  units : Nat
  /-- QP it concerns, and segment virtual address, 0 where there is none (Table 18.5) -/
  qp : Nat := 0
  va : Nat := 0

/-- The filters of CNT_SEL (R465). -/
def selPasses (sel : W64) (e : ProgEv) : Bool :=
  fld sel 0 8 = e.code && e.code ≠ 0 && fld sel 24 12 ≤ e.source && e.source ≤ fld sel 36 12 &&
  (fld sel 8 2 = 0 || (fld sel 8 2 < 3 && e.cls = some (fld sel 8 2))) &&
  (!bitAt sel 10 || (fld sel 11 7 ≤ 64 && e.dom = some (fld sel 11 7))) &&
  (!bitAt sel 18 || e.seg = some (fld sel 48 12, fld sel 60 4))

/-- What a sample record says of an event that happens now. -/
def ProgEv.sampled (e : ProgEv) (now : Gtc) : SampleEvent :=
  { stamp := now, source := e.source, carrel := e.dom.getD 0xFF, cls := e.cls.getD 0, qp := e.qp, va := e.va
    ctx := if e.va = 0 then 0 else ((e.seg.map (·.1)).getD 0), seg := if e.va = 0 then 0 else ((e.seg.map (·.2)).getD 0), units := e.units }

/-- The sampler is on (Table 18.6). -/
def sampling (cfg : W64) : Bool := fld cfg 32 32 ≠ 0 && 6 ≤ fld cfg 8 5 && fld cfg 8 5 ≤ 20

/-- The sampled counter has counted an event, from `v`: a sample that waits for capture may describe it, and one that takes the
counter to or past a multiple of PERIOD raises a sample (R466). -/
def sampleEvent (c : Cnt) (now : Gtc) (e : ProgEv) (v : Nat) : Cnt :=
  let cfg := c.sampleCfg.inForce
  let ev := e.sampled now
  if !sampling cfg then c else
    let more := c.samples.map fun x => if x.source = e.source && x.events.length < 4 then { x with events := x.events ++ [ev] } else x
    { c with samples := if v / fld cfg 32 32 < (v + e.units) / fld cfg 32 32 then more ++ [⟨now, e.source, [ev]⟩] else more }

/-- A programmable event: every selection it passes counts it, and the sampler sees it (R464 to R466). -/
def prog (s : State) (e : ProgEv) : State :=
  modCnt s fun c => c.sel.foldl (fun c x =>
    if !selPasses x.2.inForce e then c else
      let v := tget c.prog x.1 0
      let c := if fld c.sampleCfg.inForce 0 8 = x.1 then sampleEvent c s.now e v else c
      { c with prog := tput c.prog x.1 ((v + e.units) % 2 ^ 64) }) c

/-- 64-byte lines of HBM read or written by a unit, through an allocation offset of a domain if it used one (Table 18.4). -/
def hbmLines (s : State) (src : Source) (dom : Option Nat) (n : Nat) : State :=
  prog s { code := 0x12, source := src, dom := dom, cls := none, seg := none, units := n }

/-- Count a domain counter, and with `code` the programmable event of the same happening. -/
def bumpDom (s : State) (dom i n : Nat) : State := bump s (domCnt dom i) n

/-- Bytes of a bandwidth entry (R463): `tx` false counts RX. -/
def bwBytes (s : State) (entry : Nat) (tx : Bool) (n : Nat) : State :=
  modCnt s fun c => { c with bwOpen := tmod c.bwOpen (2 * entry + b2n (!tx)) 0 (· + n) }

/-! ## HBM bytes -/

/-- Mark a line poisoned: zero data under the mark of R513. -/
def markPoison (s : State) (l : Nat) : State :=
  let s := wrRun s (64 * l) (List.replicate 64 0)
  if s.hbm.poison.contains l then s else { s with hbm := { s.hbm with poison := l :: s.hbm.poison } }

/-- HBM bytes written at a physical address: a whole line replaces a poison mark, a part of one leaves it (R513); a line whose
word was lost on the die bridge is stored poisoned (R516). -/
def wrPhys (s : State) (a : Nat) (bs : List Byte) : State :=
  let s := wrRun s a bs
  let whole := wholeLines a bs.length
  let s := { s with hbm := { s.hbm with poison := s.hbm.poison.filter fun l => ¬ whole.contains l } }
  let lost := (linesOf a bs.length).filter s.cyc.bridged.contains
  bump (lost.foldl markPoison s) (devCnt 1) (linesOf a bs.length).length

/-- HBM bytes read at a physical address. -/
def readPhys (s : State) (a n : Nat) : List Byte := rdPhys s a n

/-- A line reads as poisoned: it carries the mark, or its access of this cycle met an uncorrectable bridge word (R513,
R516). -/
def lineBad (s : State) (l : Nat) : Bool := s.hbm.poison.contains l || s.cyc.bridged.contains l

def poisonedRange (s : State) (a n : Nat) : Bool := (linesOf a n).any (lineBad s)

/-- Allocation bytes as pieces of at most one granule: (physical address, length). -/
def allocPieces (c : DomCfg) : Nat → Nat → Nat → List (Option Nat × Nat)
  | 0, _, _ => []
  | fuel + 1, off, len =>
    if len = 0 then [] else
      let n := min len (granuleSize - off % granuleSize)
      (allocPhys c off, n) :: allocPieces c fuel (off + n) (len - n)

/-- Bytes at an allocation offset, none where any byte does not exist. -/
def rdAlloc (s : State) (dom off len : Nat) : Option (List Byte) :=
  (getDom s dom).bind fun d =>
    (allocPieces d.cfg 300 off len).foldr (fun p acc =>
      match p.1, acc with
      | some a, some bs => some (readPhys s a p.2 ++ bs)
      | _, _ => none) (some [])

/-- An allocation range holds a poisoned line. -/
def allocPoison (s : State) (dom off len : Nat) : Bool :=
  match getDom s dom with
  | none => false
  | some d => (allocPieces d.cfg 300 off len).any fun p =>
      match p.1 with
      | some a => poisonedRange s a p.2
      | none => false

/-- The 4 KiB pages [off, off + len) touches. -/
def pagesOf (off len : Nat) : List Nat :=
  if len = 0 then [] else (List.range ((off + len - 1) / 4096 + 1 - off / 4096)).map (off / 4096 + ·)

/-- Set bit `i` of the bitmap at an offset in PF0's allocation (R419, R442). -/
def setBitmapBit (s : State) (base i : Nat) : State :=
  match domPhys s 64 (base + i / 8) with
  | some a => wrByte s a (rdByte s a ||| (1#8 <<< (i % 8)))
  | none => s

/-- Bitmap in force of a dirty log at folio `f`, none while it does not log; a harvest whose tick has come has switched it
(R418). -/
def DirtyLog.bitmap (l : DirtyLog) (f : Nat) : Option Nat :=
  if f < l.from_ || (match l.stopAt with | some k => decide (k ≤ f) | none => false) then none
  else
    let sw := match l.harvest with | some (k, _) => decide (k ≤ f) | none => false
    some (if decide (l.active = 0) != sw then l.bitmap0 else l.bitmap1)

/-- The domain and allocation position that hold a physical granule. -/
def granuleOwner (s : State) (g : Nat) : Option (Nat × Nat) :=
  s.doms.findSome? fun e => (e.2.cfg.granules.findIdx? (· = g)).map fun i => (e.1, i)

/-- ALLOC_DIRTY: a write to physical HBM marks its page in the log of the carrel that holds it (R442). -/
def logAlloc (s : State) (a len : Nat) : State :=
  match granuleOwner s (a / granuleSize) with
  | none => s
  | some (c, pos) =>
    match (getDom s c).bind fun d => d.allocLog.bind fun l => (l.bitmap s.folio).map fun b => (b, d.cfg.transport) with
    | none => s
    | some (b, tr) =>
      if pos < tr then s else
        (pagesOf ((pos - tr) * granuleSize + a % granuleSize) len).foldl (fun s p => setBitmapBit s b p) s

/-- A write of any unit to physical HBM: the bytes land and ALLOC_DIRTY sees them. -/
def hbmWrite (s : State) (a : Nat) (bs : List Byte) : State := logAlloc (wrPhys s a bs) a bs.length

/-- Bytes written at an allocation offset; pieces in a hole are not performed (R275, R427). -/
def wrAlloc (s : State) (dom off : Nat) (bs : List Byte) (src : Source := 0x3FF) : State :=
  match getDom s dom with
  | none => s
  | some d =>
    let s := hbmLines s src (some dom) (linesOf off bs.length).length
    ((allocPieces d.cfg 300 off bs.length).foldl (fun (acc : State × List Byte) p =>
      (match p.1 with
       | some a => hbmWrite acc.1 a (acc.2.take p.2)
       | none => acc.1, acc.2.drop p.2)) (s, bs)).1

/-! ## Codex hand-over (R496, R497) -/

/-- Order of R38 inside the codex: stamp, then source; equal keys keep their order. -/
def codexInsert (r : CodexRec) : List CodexRec → List CodexRec
  | [] => [r]
  | x :: xs => if r.stamp < x.stamp ∨ (r.stamp = x.stamp ∧ r.source < x.source) then r :: x :: xs
               else x :: codexInsert r xs

/-- Hand a record to the writer, stamped now. -/
def codexHand (s : State) (code : Nat) (src : Source) (carrel : Nat) (data : BitVec 624) (fw : Bool := false) : State :=
  let r : CodexRec := ⟨s.now, src, code, carrel, false, fw, 0, data, 0⟩
  modCodex s fun c => { c with handed := codexInsert r c.handed }

/-- DATA of a record that has no event: cause or check, then the object number (Table 20.3). -/
def codexCause (cause obj : Nat) : BitVec 624 := layout 624 [(0, 8, cause), (8, 32, obj)]

/-! ## MSI-X, AER -/

def Msix.reset : Msix := ⟨0, 0, true, false⟩

/-- The host link is up, not lost, and secure where IDE is required (R390). -/
def linkAlive (s : State) : Bool := s.cxl.linkUp && !s.cxl.lost && (!s.cxl.ideRequired || s.cxl.ideSecure)

/-- The link carries device requests: Bus Master Enable is set too (R397). -/
def hostUp (s : State) : Bool := linkAlive s && s.cxl.busMaster

/-- The link carries requests of a function: of a VF while NumVFs covers it (R397). -/
def fnUp (s : State) (fn : Nat) : Bool := hostUp s && (fn = 0 || (s.cxl.vfEnable && fn ≤ s.cxl.numVfs))

/-- BAR accesses reach the block: Memory Space Enable is set (R390, R397). -/
def barUp (s : State) : Bool := linkAlive s && s.cxl.memSpace

/-- The link carries CXL.cache requests and the decoder is committed (R384, R386). -/
def cacheUp (s : State) : Bool := linkAlive s && s.cxl.cacheEnable && s.cxl.hdmBase.isSome

/-- Raise a vector: sent, or left pending (R91, R397). -/
def raiseMsix (s : State) (fn vec : Nat) : State :=
  let f := getFn s fn
  let m := tget f.msix vec Msix.reset
  if f.msixEnable && !f.msixMask && !m.masked && fnUp s fn then
    bump (emit s (.msix fn vec m.addr m.data)) (cxlCnt 11) 1
  else modFn s fn fun f => { f with msix := tput f.msix vec { m with pend := true } }

/-- AER correctable internal error: at most once per 1024 folios, with CORR_AER (R511). -/
def aerCorrected (s : State) : State :=
  if bitAt s.glb.errCfg 0 && (match s.glb.aerCorrAt with | none => true | some f => f + 1024 ≤ s.folio) then
    emit (modGlb s fun g => { g with aerCorrAt := some s.folio }) (.aer 0)
  else s

/-- A contained error: AER uncorrectable, non-fatal (R511). -/
def aerContained (s : State) : State := emit s (.aer 1)

/-- A message on the management bus: it is pending for the controller until it has been fetched (R554). -/
def mctpEmit (s : State) (e : Emit) : State := emit { s with pkg := { s.pkg with mctpPending := true, alertN := true } } e

/-- An SPDM message on its bus (R484). -/
def spdmEmit (s : State) (bus : SpdmBus) (code : Nat) (body : List Byte) : State :=
  match bus with
  | .doe => emit s (.spdm bus code body)
  | .mctp => mctpEmit s (.spdm bus code body)

/-- The descriptor's cells travel in its flow's slots (R178, R192, R196). -/
def SendOp.onFlow (o : SendOp) : Bool := dSc o.desc && !o.late && !o.asEc

/-- The PRBS31 sequence 64 bits on: bit n is bit n - 31 xor bit n - 28 (R331). -/
def prbsNext (x : BitVec 64) : BitVec 64 :=
  ((List.range 64).foldl (fun (w : BitVec 128) i =>
    let n := 64 + i
    if w.getLsbD (n - 31) ^^ w.getLsbD (n - 28) then w ||| (1#128 <<< n) else w) (x.setWidth 128)).extractLsb' 64 64

/-! ## Near-port cells and requests (R304, R307, R308, R310, R319, R321) -/

/-- Sending order of R307: lower first. -/
def zRank (c : Cell) : Nat :=
  match cType c with
  | 0xD => 0
  | 0xB => 1
  | 0xA => if cClass c = 1 then 2 else 4
  | 0xC => 3
  | _ => 5

/-- The port carries Zuquin traffic. -/
def NearPort.usable (p : NearPort) : Bool := p.mode = 0 && p.state = 4 && p.lreset.isNone

/-- A READ leaves now (R312). -/
def readLeaves (s : State) (n : Nat) (c : Cell) : State :=
  if cType c ≠ 0xA || zOp c ≠ 0 then s
  else modNear s n fun p => { p with tags := p.tags.map fun r =>
    if r.sent && !r.done && r.tag = zTag c then { r with issued := s.now } else r }

/-- Send what credits allow, in the order of R307; ZLINK cells need none. -/
def nearDrain (s : State) (n : Nat) : State :=
  let p := getNear s n
  if !p.usable then s else
    let sorted := sortBy (fun a b => zRank a ≤ zRank b) p.waitq
    let r := sorted.foldl (fun (acc : List Nat × List Cell × List Cell) c =>
      let v := zVc c
      if v < 3 && lget acc.1 v 0 = 0 then (acc.1, acc.2.1, acc.2.2 ++ [c])
      else (lmod acc.1 v (· - 1), acc.2.1 ++ [c], acc.2.2)) (p.credits, [], [])
    let s := modNear s n fun p => { p with credits := r.1, waitq := r.2.2 }
    r.2.1.foldl (fun s c =>
      let s := bump (emit (readLeaves s n c) (.nearCell n c)) (nearCnt n 0) 1
      let s := if cType c = 0xD then s else bwBytes s (8 + n) true 64
      if cType c = 0xA then bump s (nearCnt n 2) 1 else if cType c = 0xB then bump s (nearCnt n 4) 1 else s) s

/-- Queue a cell for a near port and send what can go; during a reset, and while the port is down, it is discarded (R318). -/
def nearSend (s : State) (n : Nat) (c : Cell) : State :=
  if !(getNear s n).usable then s else nearDrain (modNear s n fun p => { p with waitq := p.waitq ++ [c] }) n

/-- Tags of an outstanding request. -/
def NearReq.tagList (r : NearReq) : List Nat := (List.range r.lines).map fun i => (r.tag + i) % 4096

/-- The cell of a request. -/
def NearReq.cell (r : NearReq) : Cell :=
  if r.read then zCell (zHdr 0xA r.cls 0 0 0 r.tag r.addr 0 0 (r.lines - 1) false) 0
  else zCell (zHdr 0xA 0 0 0 0 r.tag r.addr 1 r.first r.last r.poison) r.data

/-- CLASS 1 lines outstanding on a port (R312). -/
def NearPort.scLines (p : NearPort) : Nat :=
  ((p.tags.filter fun r => r.sent && !r.done && r.cls = 1).map fun r => r.lines - r.answered.length).sum

/-- Issue requests that have no tag yet, in order, while 4096 tags last (R310); a CLASS 1 READ waits, and is passed, while 2048
lines of its class are outstanding (R312). The list holds what is issued in the order of issue. -/
def nearPump (s : State) (n : Nat) : State :=
  let p := getNear s n
  if !p.usable then s else
    (p.tags.foldl (fun (acc : State × Bool) r =>
      if r.sent || acc.2 then acc else
        let q := getNear acc.1 n
        let used := (q.tags.filter fun x => x.sent && !x.done).flatMap NearReq.tagList
        let r' := { r with tag := q.nextTag, sent := true, issued := s.now }
        if r.cls = 1 && q.scLines + r.lines > 2048 then acc
        else if used.length + r.lines > 4096 || (r'.tagList.any used.contains) then (acc.1, true)
        else
          let s1 := modNear acc.1 n fun q => { q with
            nextTag := (q.nextTag + r.lines) % 4096
            tags := (q.tags.filter (·.sent)) ++ r' :: q.tags.filter fun x => !x.sent && x.id ≠ r.id }
          let a := r.access.bind fun i => acc.1.xl.accesses.find? fun a => a.id = i
          let s1 := prog s1 { code := 0x0D, source := 0x10 + n, dom := a.bind fun a => (s1.xl.ctxs.lookup a.ctx).map (·.dom),
                              cls := some (if r.cls = 1 then 2 else 1), seg := a.map fun a => (a.ctx, a.seg), units := 1
                              va := (a.map (·.va)).getD 0 }
          (nearSend s1 n r'.cell, false)) (s, false)).1

/-- A device request on a near port. -/
def nearReq (s : State) (n : Nat) (read : Bool) (cls addr lines first last : Nat) (data : Line) (poison : Bool)
    (access : Option Nat) : State :=
  nearPump (modNear s n fun p => { p with nextId := p.nextId + 1, tags := p.tags ++
    [{ id := p.nextId, tag := 0, sent := false, read := read, cls := cls, addr := addr, lines := lines, first := first,
       last := last, data := data, poison := poison, access := access, answered := [], got := [], poisoned := [],
       issued := s.now, done := false }] }) n

/-- Send the held NOTIFYs, newest per ring, once no record write is unanswered (R311 rule 6, R321). -/
def notifyPump (s : State) (n : Nat) : State :=
  let p := getNear s n
  if p.usable && (p.tags.all fun r => r.read || r.done) then
    p.notify.foldl (fun s e => bump (nearSend s n e.2) (nearCnt n 8) 1) (modNear s n fun p => { p with
      notify := [], notified := (p.notified.filter fun e => !(p.notify.any fun x => x.1 = e.1)) ++ p.notify })
  else s

/-- A NOTIFY for a CQ or EQ (Table 11.8). -/
def nearNotify (s : State) (q : CqRing) : State :=
  let pay : Line := layout 512 [(0, 11, q.vector), (16, 1, b2n q.isEq), (32, 20, if q.isEq then 0 else q.num),
    (64, 32, q.pIdx), (128, 64, s.now)]
  let key := (q.fn, if q.isEq then 2 ^ 20 else q.num)
  notifyPump (modNear s q.nport fun p => { p with
    notify := (p.notify.filter fun e => e.1 ≠ key) ++ [(key, zCell (zHdr 0xC 0 2 0 0 0 0 1 0 0 false) pay)] }) q.nport

/-! ## Rings and records (R64 to R96) -/

/-- A completion or event ring. -/
def getCq (s : State) : RingRef → Option CqRing
  | .ctlCq fn => some (getFn s fn).ctlCq
  | .mgrCq => some s.mgrCq
  | .cq fn num => (tget s.cqs fn []).find? fun q => q.num = num
  | .eq fn => (getFn s fn).eq
  | _ => none

def modCq (s : State) (r : RingRef) (f : CqRing → CqRing) : State :=
  match r with
  | .ctlCq fn => modFn s fn fun x => { x with ctlCq := f x.ctlCq }
  | .mgrCq => { s with mgrCq := f s.mgrCq }
  | .cq fn num => { s with cqs := tupd s.cqs fn fun l => l.map fun q => if q.num = num then f q else q }
  | .eq fn => modFn s fn fun x => { x with eq := x.eq.map f }
  | _ => s

/-- A descriptor ring. -/
def getRing (s : State) : RingRef → Option Ring
  | .ctlSq fn => some (getFn s fn).ctlSq
  | .mgrSq => some s.mgrSq
  | .sq qp => (getQp s qp).bind (·.sq)
  | .rq qp => (getQp s qp).bind (·.rq)
  | _ => none

def modRing (s : State) (r : RingRef) (f : Ring → Ring) : State :=
  match r with
  | .ctlSq fn => modFn s fn fun x => { x with ctlSq := f x.ctlSq }
  | .mgrSq => { s with mgrSq := f s.mgrSq }
  | .sq qp => modQp s qp fun q => { q with sq := q.sq.map f }
  | .rq qp => modQp s qp fun q => { q with rq := q.rq.map f }
  | _ => s

def modCyc (s : State) (f : Cycle → Cycle) : State := { s with cyc := f s.cyc }

/-- Hardware sets a W1C bit in this cycle: a write of the same cycle does not clear it (R525). The register is named by its
BAR0 offset, a TRN_CTL_CFG by 0x4000000 + its function. -/
def mark (s : State) (reg bit : Nat) : State := modCyc s fun c => { c with sticky := (reg, bit) :: c.sticky }

/-- W1C bits of a register, named as by `mark`. -/
def w1cBits (reg : Nat) : List Nat :=
  let array (base n : Nat) : Bool := base ≤ reg && reg < base + 8 * n && reg % 8 = 0
  match reg with
  | 0x100030 => [0, 1]
  | 0x110008 => [3, 4, 5]
  | 0x140008 => [3, 4]
  | 0x150000 => [3, 4]
  | 0x180008 => [2, 3, 4]
  | 0x190040 => [1]
  | 0x1B0018 => [19]
  | 0x1B0040 => [39]
  | 0x1C0000 => [40]
  | 0x1E0008 => [0]
  | 0x1F0028 => [0, 1, 2]
  | 0x210000 => [45, 46]
  | _ =>
    if array 0x120040 12 then [3, 5] else if array 0x130080 16 then [11] else if array 0x150400 65 then [0]
    else if array 0x160040 4 then [4, 5] else if array 0x170180 16 then [6, 7] else if array 0x1A1000 512 then [4]
    else if 0x4000000 ≤ reg then [19] else []

/-- What a write to a register may still clear: its W1C bits set in this cycle stay (R525). -/
def unmarked (s : State) (reg : Nat) (v : W64) : W64 :=
  (w1cBits reg).foldl (fun v b => if s.cyc.sticky.contains (reg, b) then v &&& ~~~(1#64 <<< b) else v) v

/-- Post an event to a function's EQ: it joins those of the present cycle. -/
def postEvent (s : State) (fn code : Nat) (src : Source) (carrel obj : Nat) (data : BitVec 352) : State :=
  modCyc s fun c => { c with events := c.events ++ [⟨fn, code, src, carrel, obj, data⟩] }

/-- DATA of an event, from fields given by record offset and bit (Table 3.13). -/
def evData (fs : List (Nat × Nat × Nat)) : BitVec 352 := layout 352 (fs.map fun f => (8 * (f.1 - 20), f.2.1, f.2.2))

/-- An event and the codex record that carries its DATA (Table 20.3). -/
def eventAndCodex (s : State) (evCode cdxCode : Nat) (src : Source) (obj : Nat) (data : BitVec 352) : State :=
  codexHand (postEvent s 0 evCode src 0xFF obj data) cdxCode src 0xFF (data.setWidth 624)

end Sys2Proof.Machine
end

