-- ==== Sys2Proof/Machine/Copies.lean ====
section
/-! DEFINITION. Copies.lean: the lines of staged and retransmission copies in a carrel's transport area (R428), and the HBM errors
that meet them (R513, R514, R516). The spec gives a copy the area and no addresses in it, so which line holds which part of a copy
is free (Config.copyPart; log 136). -/

namespace Sys2Proof.Machine

/-- The staged copy of a send descriptor, its parts the 64-byte lines of the message (R17). -/
def sendCopy (n idx : Nat) : List Nat := [0, n, idx]

/-- The staged piece of a READ response (R109). -/
def respCopy (n seq cut : Nat) : List Nat := [1, n, seq, cut]

/-- The retransmission copy of a segment, told by its number N, its parts the cells (R127). -/
def segCopy (n : Nat) (q : Qp) (seq : Nat) : List Nat := [2, n, q.txN - (q.txSeq + 4096 - seq) % 4096]

/-- The staging of a sealed segment at its receiver, its parts the data cells (R141). -/
def sealedCopy (n seq : Nat) : List Nat := [5, n, seq]

/-- The staged source bytes of a collective's round (R248). -/
def collCopy (comm idx round : Nat) : List Nat := [3, comm, idx, round]

/-- The copy of a collective's stream, its parts the cells (R245). -/
def streamCopy (comm idx : Nat) (t : TxStream) : List Nat :=
  [4, comm, idx, t.stage, t.round, t.dests.headD 0, (t.relayOf.map (· + 1)).getD 0]

/-- A line lies in the transport area of a domain. -/
def inTransport (s : State) (dom l : Nat) : Bool :=
  match getDom s dom with
  | some d => (d.cfg.granules.take d.cfg.transport).contains (l / 2 ^ 24)
  | none => false

/-- The part of a domain's copy that a line holds. -/
def partAt (s : State) (dom : Nat) (copy : List Nat) (l : Nat) : Option Nat :=
  if inTransport s dom l then Config.copyPart l copy else none

/-- Parts of a copy that read as poisoned. -/
def badParts (s : State) (dom : Nat) (copy : List Nat) : List Nat :=
  (s.hbm.poison ++ s.cyc.bridged).filterMap (partAt s dom copy)

/-- Poisoned ranges of the `len` bytes of a staged copy that begin at offset `lo` of what it stages. -/
def badStaged (s : State) (dom : Nat) (copy : List Nat) (lo len : Nat) : List (Nat × Nat) :=
  ((badParts s dom copy).filter fun i => lo ≤ 64 * i && 64 * i < lo + len).map fun i => (64 * i, 64)

/-- Parts [a, b) of a copy are written: their lines lose the mark of R513. -/
def copyStored (s : State) (dom : Nat) (copy : List Nat) (a b : Nat) : State :=
  { s with hbm := { s.hbm with poison := s.hbm.poison.filter fun l =>
    !((partAt s dom copy l).any fun i => a ≤ i && i < b) } }

/-- Bytes [lo, lo + len) of a staged copy are written. -/
def bytesStored (s : State) (dom : Nat) (copy : List Nat) (lo len : Nat) : State :=
  copyStored s dom copy (lo / 64) ((lo + len + 63) / 64)

end Sys2Proof.Machine
end

