-- ==== Sys2Proof/Machine/Xlate.lean ====
section
/-! DEFINITION. Xlate.lean: segment lookup, accesses of transfers to HOST, HBM and near-port memory, and faults
(R402 to R414). An access that ends keeps its outcome in `result` until the transfer it belongs to takes it. -/

namespace Sys2Proof.Machine

/-- Entry of a context that holds `v` and is not withdrawn (R406, R415). -/
def segAt (c : Ctx) (v : Nat) : Option (Nat × Seg) :=
  c.segs.find? fun e => e.2.base ≤ v && v < e.2.base + e.2.len && e.2.withdrawn.isNone

/-- Entry that holds `v`, withdrawn ones included: transfers keep what they hold (R406, R415). -/
def segAtAny (c : Ctx) (v : Nat) : Option (Nat × Seg) :=
  c.segs.find? fun e => e.2.base ≤ v && v < e.2.base + e.2.len

/-- Every byte of [v, v + len) lies in an entry that passes `ok`. -/
def segCover (c : Ctx) (ok : Seg → Bool) : Nat → Nat → Nat → Bool
  | 0, _, len => len = 0
  | fuel + 1, v, len =>
    if len = 0 then true else
      match segAt c v with
      | none => false
      | some (_, g) => ok g && segCover c ok fuel (v + (g.base + g.len - v)) (len - (g.base + g.len - v))

/-- [v, v + len) lies inside segments of the context (R64, R133, R257). -/
def ctxCovers (s : State) (ctx v len : Nat) (ok : Seg → Bool := fun _ => true) : Bool :=
  match s.xl.ctxs.lookup ctx with
  | some c => segCover c ok 17 v len
  | none => false

/-- Place of a TARGET code (Table 15.2). -/
def placeOf (target : Nat) : Place := if target = 0 then .host else if target = 1 then .hbm else .near (target - 2)

/-- Pieces of a range: entry index, entry, address and length; HBM pieces end at a page, others too (R406). -/
def segPieces (c : Ctx) : Nat → Nat → Nat → List (Nat × Seg × Nat × Nat)
  | 0, _, _ => []
  | fuel + 1, v, len =>
    if len = 0 then [] else
      match segAtAny c v with
      | none => []
      | some (i, g) =>
        let n := min len (min (g.base + g.len - v) (min (4096 - v % 4096) (4096 - (g.tbase + (v - g.base)) % 4096)))
        (i, g, v, n) :: segPieces c fuel (v + n) (len - n)

/-- DIRTY_LOG: a write issued through a segment marks its page (R419). -/
def logSeg (s : State) (g : Seg) (v : Nat) : State :=
  match g.log.bind fun l => l.bitmap s.folio with
  | some b => setBitmapBit s b ((v - g.base) / 4096)
  | none => s

/-- Host page translated for a function: a pinned or cached translation that grants the access (R407, R408). -/
def atcHit (s : State) (fn pasid page : Nat) (write : Bool) : Option Xlat :=
  (s.xl.pinned ++ s.xl.atc).find? fun x => x.fn = fn && x.pasid = pasid && x.page ≤ page && page < x.page + x.pages &&
    (if write then x.writeOk else x.readOk)

/-- The page was pinned for the function. -/
def isPinnedPage (s : State) (fn pasid page : Nat) : Bool :=
  s.xl.pinned.any fun x => x.fn = fn && x.pasid = pasid && x.page ≤ page && page < x.page + x.pages

def modAccess (s : State) (id : Nat) (f : Access → Access) : State :=
  modXl s fun x => { x with accesses := x.accesses.map fun a => if a.id = id then f a else a }

/-- Domain an access works for: its context's, or of a ring outside any context its function's. -/
def accessDom (s : State) (a : Access) : Option Nat :=
  match s.xl.ctxs.lookup a.ctx with
  | some c => some c.dom
  | none => fnDom s a.fn

/-- Take an access out of the list. -/
def dropAccess (s : State) (id : Nat) : State :=
  modXl s fun x => { x with accesses := x.accesses.filter fun a => a.id ≠ id }

def endAccess (s : State) (id status : Nat) (data : List Byte := []) (poison : Bool := false) : State :=
  modAccess s id fun a => { a with result := some (status, data, poison), fault := none, xlatReq := false }

/-- A near port reaches an access of the domain: Zuquin mode, ACTIVE, bound (R321, R322). -/
def nearOpen (s : State) (n dom : Nat) : Bool :=
  let p := getNear s n
  p.mode = 0 && p.state = 4 && (dom ≥ 64 || bitAt p.bind.inForce dom)

/-- entries of the pinned translation table (R408) -/
def pinnedMax : Nat := 2097152

/-- The pinned entry lies over one of the pages [p, p + n) of a function and PASID. -/
def Xlat.covers (x : Xlat) (fn pasid p n : Nat) : Bool :=
  x.fn = fn && x.pasid = pasid && x.page < p + n && p < x.page + x.pages

/-- Pin the host pages [p, p + n) with the translations ATS returned: the reason it fails with is 3 for a page with no
translation, 4 for a full table (R408). -/
def pinPages (s : State) (fn pasid p n : Nat) (pins : List Pin) : Except Nat State :=
  let fresh := pins.filter fun x => x.page < p + n && p < x.page + x.pages && 0 < x.pages &&
    !(s.xl.pinned.any fun y => y.covers fn pasid x.page x.pages)
  let covered := (List.range n).all fun i =>
    (s.xl.pinned.any fun y => y.covers fn pasid (p + i) 1) || fresh.any fun x => x.page ≤ p + i && p + i < x.page + x.pages
  if !covered then .error 3
  else if s.xl.pinned.length + fresh.length > pinnedMax then .error 4
  else
    let kept := s.xl.pinned.map fun y => if y.covers fn pasid p n then { y with pins := y.pins + 1 } else y
    let added : List Xlat := fresh.map fun x => ⟨fn, pasid, x.page, x.pages, x.target, true, true, 1⟩
    .ok (modXl s fun x => { x with pinned := kept ++ added })

/-- Release the pins of host pages [p, p + n). -/
def unpinPages (s : State) (fn pasid p n : Nat) : State :=
  let less (y : Xlat) : Option Xlat :=
    if y.covers fn pasid p n then (if y.pins ≤ 1 then none else some { y with pins := y.pins - 1 }) else some y
  modXl s fun x => { x with pinned := x.pinned.filterMap less, pinAsk := x.pinAsk.filterMap less }

/-- The PASID an entry is kept under. -/
def Ctx.pasidKey (c : Ctx) : Nat := if c.pasidEn then c.pasid else 0

/-- Pin the host pieces of a range of a context (R136, R408): nothing to do where ATS is off. -/
def pinRange (s : State) (c : Ctx) (pieces : List (Nat × Seg × Nat × Nat)) (pins : List Pin) : Except Nat State :=
  if !(getFn s c.atsFn).ats then .ok s else
    pieces.foldl (fun r p =>
      match r with
      | .error e => .error e
      | .ok s =>
        if p.2.1.target ≠ 0 then .ok s
        else
          let a := p.2.1.tbase + (p.2.2.1 - p.2.1.base)
          pinPages s c.atsFn c.pasidKey (a / 4096) (cdiv p.2.2.2 4096) pins) (.ok s)

/-- Release the pins of a range. -/
def unpinRange (s : State) (c : Ctx) (pieces : List (Nat × Seg × Nat × Nat)) : State :=
  pieces.foldl (fun s p =>
    if p.2.1.target ≠ 0 then s
    else unpinPages s c.atsFn c.pasidKey ((p.2.1.tbase + (p.2.2.1 - p.2.1.base)) / 4096) (cdiv p.2.2.2 4096)) s

/-- Pieces of a range, one an entry of the context. -/
def segSpans (c : Ctx) : Nat → Nat → Nat → List (Nat × Seg × Nat × Nat)
  | 0, _, _ => []
  | fuel + 1, v, len =>
    if len = 0 then [] else
      match segAtAny c v with
      | none => []
      | some (i, g) =>
        let n := min len (g.base + g.len - v)
        (i, g, v, n) :: segSpans c fuel (v + n) (len - n)

/-- The access lies in the page of a fault (R411). -/
def FaultKey.covers (k : FaultKey) (a : Access) : Bool :=
  match k, a.place with
  | .host fn pasid page, .host => a.fn = fn && a.pasid.getD 0 = pasid && a.addr / 4096 = page
  | .near n addr log2, .near m => n = m && a.addr / 2 ^ log2 = addr / 2 ^ log2
  | _, _ => false

def openFault (s : State) (a : Access) : Option FaultRec := s.xl.faults.find? fun f => !f.resolved && f.key.covers a

/-- Faults that are open (R411). -/
def openFaults (s : State) : Nat := (s.xl.faults.filter fun f => !f.resolved).length

/-- Count a waiter (Table 18.3, Table 18.4). -/
def countWaiter (s : State) (a : Access) : State :=
  let dom := accessDom s a
  prog (bumpDom s (dom.getD 64) 11 1)
    { code := 0x0B, source := a.source, dom := dom, cls := none, seg := some (a.ctx, a.seg), units := 1, va := a.va
      qp := match a.who with | .send n _ | .respond n _ | .place n _ | .readPlace n _ => n | _ => 0 }

/-- The marker of a waiter that waits for one of the 4096 faults to close (R411). -/
def noFaultYet : Nat := 2 ^ 40

/-- Owner function of an access's transfer. -/
def accessFn (s : State) (a : Access) : Nat :=
  let qp (n : Nat) : Nat := ((getQp s n).map (·.fn)).getD a.fn
  match a.who with
  | .send n _ => qp n
  | .respond n _ => qp n
  | .place n _ => qp n
  | .readPlace n _ => qp n
  | .mov j _ => ((s.zoo.jobs.lookup j).map (·.fn)).getD a.fn
  | .movOut j => ((s.zoo.jobs.lookup j).map (·.fn)).getD a.fn
  | .coll c _ => ((s.col.comms.lookup c).map (·.fn)).getD a.fn
  | .collSrc c _ _ => ((s.col.comms.lookup c).map (·.fn)).getD a.fn
  | .collCell c _ _ _ _ _ => ((s.col.comms.lookup c).map (·.fn)).getD a.fn
  | .inbound _ _ _ _ => a.fn
  | .fetch _ => a.fn
  | .record _ _ => a.fn

/-- Opening of an access's window on a fault: now, or when it began to wait for a free one (R411). -/
def waitFrom (s : State) (a : Access) : Gtc :=
  match a.fault with
  | some (i, g) => if i = noFaultYet then g else s.now
  | none => s.now

/-- The page's pinned translation is lost and not there again (R409). -/
def pinLost (s : State) (a : Access) : Bool :=
  s.xl.pinAsk.any fun x => x.covers a.fn (a.pasid.getD 0) (a.addr / 4096) 1

/-- An access waits on a fault: it joins the open one of its page or opens a new one (R410, R411). -/
def meetFault (s : State) (a : Access) (cause log2 : Nat) : State :=
  let s := countWaiter s a
  match openFault s a with
  | some f =>
    let s := modAccess s a.id fun x => { x with fault := some (f.id, waitFrom s a), xlatReq := false, issued := false, left := 0 }
    modXl s fun x => { x with faults := x.faults.map fun g =>
      if g.id = f.id && !g.recorded then { g with waiters := g.waiters + 1, source := min g.source a.source } else g }
  | none =>
    if openFaults s ≥ 4096 then
      modXl (modAccess (mark s 0x1B0040 39) a.id fun x => { x with fault := some (noFaultYet, waitFrom s a), xlatReq := false })
        fun x => { x with faultFullSeen := true }
    else
      let c := s.xl.ctxs.lookup a.ctx
      let g := c.bind fun c => c.segs.lookup a.seg
      let dom := (accessDom s a).getD 64
      let id := s.xl.nextFault
      let key := match a.place with
        | .near n => FaultKey.near n (a.addr / 2 ^ log2 * 2 ^ log2) log2
        | _ => FaultKey.host a.fn (a.pasid.getD 0) (a.addr / 4096)
      let rec_ : FaultRec :=
        { id := id, key := key, cause := cause, opened := s.now, tick := s.folio, resolved := false, pri := 0, left := false, recorded := false,
          carrel := dom, va := a.va / 4096 * 4096, ctx := a.ctx,
          fn := (if a.place = .host then a.fn else accessFn s a), target := (g.map (·.target)).getD 0, write := a.write, pinned := cause = 4,
          policy := (g.map (·.policy)).getD false, source := a.source, waiters := 1 }
      let s := modXl s fun x => { x with faults := x.faults ++ [rec_], nextFault := (id + 1) % 2 ^ 32 }
      let s := bump s (devCnt 12) 1
      let s := modAccess s a.id fun x => { x with fault := some (id, waitFrom s a), xlatReq := false, issued := false, left := 0 }
      let s := if cause = 4 && !pinLost s a then
          codexHand s 0x62 a.source (carrelField dom) (codexCause cause (a.addr / 4096 % 2 ^ 32)) else s
      match a.place with
      | .host =>
        if (getFn s a.fn).pri && !(getFn s a.fn).priStopped then
          let s := modXl s fun x => { x with faults := x.faults.map fun f => if f.id = id then { f with pri := 1 } else f }
          bump (emit s (.pageRequest a.fn (a.pasid.getD 0) (a.addr / 4096) id)) (cxlCnt 9) 1
        else s
      | _ => s

/-- The access reads data that stages for an SC flow: its READs are CLASS 1 (R189, R308). -/
def stagesSc (s : State) (a : Access) : Bool :=
  match a.who with
  | .send n i => match (getQp s n).bind fun q => q.ops.find? fun o => o.idx = i with
    | some o => o.onFlow
    | none => false
  | .collSrc c i _ => match (s.col.comms.lookup c).bind fun m => m.run.find? fun r => r.idx = i with
    | some r => dSc r.desc
    | none => false
  | _ => false

/-- Requests of an access to a near port: one READ of its lines, or one WRITE a line (R308). -/
def issueNear (s : State) (n : Nat) (a : Access) : State :=
  let first := a.addr / 64
  let lines := (a.addr + a.len - 1) / 64 + 1 - first
  if a.write then
    let s := modAccess s a.id fun x => { x with issued := true, left := lines }
    (List.range lines).foldl (fun s i =>
      let lo := max a.addr ((first + i) * 64)
      let hi := min (a.addr + a.len) ((first + i + 1) * 64)
      let bs := (a.data.drop (lo - a.addr)).take (hi - lo)
      nearReq s n false 0 ((first + i) * 64) 1 (lo % 64) ((hi - 1) % 64) (ofBytes 512 bs <<< (8 * (lo % 64))) a.poison
        (some a.id)) s
  else
    let s := modAccess s a.id fun x => { x with issued := true, left := lines }
    nearReq s n true (b2n (stagesSc s a)) (first * 64) lines 0 (lines - 1) 0 false (some a.id)

/-- A record on its way to its ring. -/
def Access.isRecord (a : Access) : Bool := match a.who with | .record _ _ => true | _ => false

/-- A translated access goes out on the host link (R380, R392). A write's bytes are visible once its completion has come
(R86); a record is on its way. -/
def issueHost (s : State) (a : Access) (bus : Nat) (uio : Bool) : State :=
  if !fnUp s a.fn then endAccess s a.id 6
  else
    let req := s.cxl.nextReq
    let s := modCxl s fun c => { c with nextReq := req + 1 }
    let s := if a.write then
        bwBytes (bump (bump (emit s (.hostWrite req a.fn bus a.data a.poison uio)) (cxlCnt 2) 1) (cxlCnt 3) a.len) 28 true a.len
      else bump (bump (emit s (.hostRead req a.fn bus a.len uio)) (cxlCnt 0) 1) (cxlCnt 1) a.len
    if a.isRecord then dropAccess s a.id
    else
      let s := modCxl s fun c => { c with reads := tput c.reads req ⟨a.fn, bus, a.len, a.id, a.write⟩ }
      modAccess s a.id fun x => { x with issued := true, left := 1 }

/-- HBM page in host bias (R386). -/
def biasedPage (s : State) (phys : Nat) : Bool := s.cxl.hostBias.contains (phys / 4096)

/-- The page is changing bias (R388). -/
def biasChanging (s : State) (phys : Nat) : Bool :=
  match s.cxl.biasJob with
  | j :: _ => j.2.1 = phys / 4096
  | [] => false

/-- Device accesses to the page are not served at once. -/
def hostBiased (s : State) (phys : Nat) : Bool := biasedPage s phys || biasChanging s phys

/-- Ask the host for the lines of an access or engine job (R386). -/
def askHost (s : State) (lines : List Nat) (write : Bool) (access job : Option Nat) : State :=
  lines.foldl (fun s l =>
    let req := s.cxl.nextReq
    let s := bump (emit s (.cacheReq req l (if write then 1 else 0))) (cxlCnt 7) 1
    modCxl s fun c => { c with nextReq := req + 1, cacheReqs := tput c.cacheReqs req ⟨l, write, false, access, job⟩ }) s

/-- The transfer places received bytes (R71, R120). -/
def Who.places : Who → Bool
  | .place _ _ => true
  | .readPlace _ _ => true
  | _ => false

/-- Bytes the transport has placed are looked at for doorbells (R71). -/
def placed (s : State) (who : Who) (a n : Nat) : State :=
  if who.places then modCyc s fun c => { c with placed := c.placed ++ [(a, n)] } else s

/-- An HBM access completes in HBM, with the lines the host answered in place of its own (R386). -/
def finishHbm (s : State) (a : Access) : State :=
  if a.write then
    let s := if a.poison then (linesOf a.addr a.len).foldl markPoison s else placed (hbmWrite s a.addr a.data) a.who a.addr a.data.length
    endAccess (hbmLines s a.source (accessDom s a) (linesOf a.addr a.len).length) a.id 0
  else
    let lines := linesOf a.addr a.len
    let bytes := lines.flatMap fun l => match a.hostLines.lookup l with
      | some d => bytesOf d
      | none => readPhys s (64 * l) 64
    let bad := lines.any fun l => (a.hostLines.lookup l).isNone && lineBad s l
    let s := hbmLines s a.source (accessDom s a) lines.length
    endAccess (bump s (devCnt 0) lines.length) a.id 0 ((bytes.drop (a.addr % 64)).take a.len) bad

/-- An HBM access of a host-bias page first asks the host for its lines; with the link lost or the decoder uncommitted
it is resolved from HBM (R384, R386, R394). While the page changes bias it waits (R388). -/
def issueCache (s : State) (a : Access) : State :=
  if biasChanging s a.addr then modCxl s fun c => { c with biasWait := c.biasWait ++ [.dev a.id] }
  else if !biasedPage s a.addr || !cacheUp s then finishHbm s a
  else
    let lines := linesOf a.addr a.len
    askHost (modAccess s a.id fun x => { x with issued := true, left := lines.length }) lines a.write (some a.id) none

/-- Take an access one step on: issue it, ask for its translation, or let it wait on a fault (R407, R410, R411). -/
def tryAccess (s : State) (id : Nat) : State :=
  match s.xl.accesses.find? fun a => a.id = id with
  | none => s
  | some a =>
    if a.result.isSome || a.issued then s else
    let s := modAccess s id fun x => { x with fault := none, xlatReq := false }
    let dom := (accessDom s a).getD 64
    let uio := (((s.xl.ctxs.lookup a.ctx).bind fun c => c.segs.lookup a.seg).map (·.uio)).getD false
    match a.place with
    | .hbm => issueCache s a
    | .near n =>
      if !nearOpen s n dom then meetFault s a 3 12
      else if (openFault s a).isSome then meetFault s a 2 12
      else issueNear s n a
    | .host =>
      if !(getFn s a.fn).ats then issueHost s a a.addr (uio && s.cxl.flit256)
      else match atcHit s a.fn (a.pasid.getD 0) (a.addr / 4096) a.write with
        | some x => issueHost s a ((x.target + (a.addr / 4096 - x.page)) * 4096 + a.addr % 4096) (uio && s.cxl.flit256)
        | none =>
          if (openFault s a).isSome then meetFault s a 1 12
          else if pinLost s a then meetFault s a 4 12
          else if !fnUp s a.fn then endAccess s id 6
          else bump (emit (modAccess s id fun x => { x with xlatReq := true })
            (.atsRequest a.fn (a.pasid.getD 0) (a.addr / 4096) a.write)) (cxlCnt 8) 1

/-- An access of a transfer. -/
def accessOf (s : State) (who : Who) (src : Source) (ctx : Nat) (c : Ctx) (piece : Nat × Seg × Nat × Nat)
    (place : Place) (addr : Nat) (write : Bool) (data : List Byte) (poison : Bool) : Access :=
  { id := s.xl.nextAccess, who := who, source := src, ctx := ctx, seg := piece.1, va := piece.2.2.1, len := piece.2.2.2,
    write := write, data := data, poison := poison, place := place, addr := addr, fn := c.atsFn,
    pasid := if c.pasidEn then some c.pasid else none, xlatReq := false, fault := none, issued := false, left := 0, folio := s.folio,
    dropped := false, hostLines := [], result := none }

def addAccess (s : State) (a : Access) : State :=
  modXl s fun x => { x with accesses := x.accesses ++ [a], nextAccess := a.id + 1 }

/-- Start an access of a transfer. -/
def newAccess (s : State) (who : Who) (src : Source) (ctx : Nat) (c : Ctx) (piece : Nat × Seg × Nat × Nat)
    (place : Place) (addr : Nat) (write : Bool) (data : List Byte) (poison : Bool) : State :=
  let a := accessOf s who src ctx c piece place addr write data poison
  tryAccess (addAccess s a) a.id

/-- An access to an address in a granule no longer granted: it ends its transfer as a withdrawn segment does under the abort
policy, with KEY_INVALID (R275, R415). -/
def deadAccess (s : State) (who : Who) (src : Source) (ctx : Nat) (c : Ctx) (piece : Nat × Seg × Nat × Nat) (write : Bool) : State :=
  addAccess s { accessOf s who src ctx c piece .hbm 0 write [] false with issued := true, result := some (0xC, [], false) }

/-- The access of a ring to its own memory, at target address `addr` (R64, R65): through its segment, or with none for a
control ring. `wait` keeps it back: an HBM read is answered as its result comes. -/
def ringAccess (s : State) (who : Who) (fn : Nat) (seg : Option (Nat × Nat)) (place : Place) (addr len : Nat) (write : Bool)
    (data : List Byte) (wait : Bool := false) : State :=
  let c := seg.bind fun g => s.xl.ctxs.lookup g.1
  let g := seg.bind fun g => c.bind fun c => c.segs.lookup g.2
  let id := s.xl.nextAccess
  let a : Access :=
    { id := id, who := who, source := fnSource fn, ctx := (seg.map (·.1)).getD 4096, seg := (seg.map (·.2)).getD 0
      va := (g.map fun g => g.base + (addr - g.tbase)).getD addr, len := len, write := write, data := data, poison := false
      place := place, addr := addr, fn := fn, pasid := c.bind fun c => if c.pasidEn then some c.pasid else none
      xlatReq := false, fault := none, issued := wait, left := b2n wait, folio := s.folio, dropped := false, hostLines := []
      result := none }
  let s := modXl s fun x => { x with accesses := x.accesses ++ [a], nextAccess := id + 1 }
  if wait then s else tryAccess s id

/-- `buf` with `bs` at offset `off`. -/
def splice (buf : List Byte) (off : Nat) (bs : List Byte) : List Byte :=
  (buf.take off) ++ bs ++ buf.drop (off + bs.length)

/-- Poisoned lines of [a, a + n) as ranges of a buffer that holds them from `off` on. -/
def badRanges (s : State) (a n off : Nat) : List (Nat × Nat) :=
  (linesOf a n).filterMap fun l =>
    if lineBad s l then
      let lo := max a (64 * l)
      let hi := min (a + n) (64 * l + 64)
      some (off + (lo - a), hi - lo)
    else none

/-- Progress of a read: the bytes so far, the accesses outstanding, poison met. -/
structure ReadRes where
  st : State
  buf : List Byte
  left : Nat
  /-- poisoned ranges of the bytes so far: offset and length -/
  bad : List (Nat × Nat)

/-- Read a segment range for a transfer: HBM pages in device bias at once, everything else through accesses (R17 steps
3 and 4, R386). Bytes not there yet are zero in the buffer. -/
def startRead (s : State) (who : Who) (src : Source) (ctx va len : Nat) (cls : Option Nat := none) : ReadRes :=
  match s.xl.ctxs.lookup ctx with
  | none => ⟨s, [], 0, []⟩
  | some c =>
    (segPieces c (2 * (len / 4096) + 20) va len).foldl (fun r p =>
      let addr := p.2.1.tbase + (p.2.2.1 - p.2.1.base)
      let n := p.2.2.2
      let ev : ProgEv := { code := 0x09, source := src, dom := some c.dom, cls := cls, seg := some (ctx, p.1), units := n, va := p.2.2.1
                           qp := match who with | .send n _ | .respond n _ => n | _ => 0 }
      let st := prog r.st ev
      match placeOf p.2.1.target with
      | .hbm =>
        match domPhys st c.dom addr with
        | none =>
          { r with st := deadAccess st who src ctx c p false, buf := r.buf ++ List.replicate n 0, left := r.left + 1 }
        | some ph =>
          if hostBiased st ph then
            { r with st := newAccess st who src ctx c p .hbm ph false [] false, buf := r.buf ++ List.replicate n 0,
                     left := r.left + 1 }
          else
            let bad := r.bad ++ badRanges st ph n r.buf.length
            let k := (linesOf ph n).length
            { r with st := hbmLines (bump st (devCnt 0) k) src (some c.dom) k, buf := r.buf ++ readPhys st ph n, bad := bad }
      | pl => { r with st := newAccess st who src ctx c p pl addr false [] false, buf := r.buf ++ List.replicate n 0,
                       left := r.left + 1 }) ⟨s, [], 0, []⟩

/-- Write bytes at a segment address for a transfer: the state and the accesses that are outstanding (R120, R419). -/
def startWrite (s : State) (who : Who) (src : Source) (ctx va : Nat) (bs : List Byte) (poison : Bool := false) :
    State × Nat :=
  match s.xl.ctxs.lookup ctx with
  | none => (s, 0)
  | some c =>
    let r := (segPieces c (2 * (bs.length / 4096) + 20) va bs.length).foldl (fun (acc : State × Nat × List Byte) p =>
      let addr := p.2.1.tbase + (p.2.2.1 - p.2.1.base)
      let now := acc.2.2.take p.2.2.2
      let rest := acc.2.2.drop p.2.2.2
      let st := logSeg acc.1 p.2.1 p.2.2.1
      match placeOf p.2.1.target with
      | .hbm =>
        match domPhys st c.dom addr with
        | none => (deadAccess st who src ctx c p true, acc.2.1 + 1, rest)
        | some ph =>
          if hostBiased st ph then (newAccess st who src ctx c p .hbm ph true now poison, acc.2.1 + 1, rest)
          else if poison then ((linesOf ph now.length).foldl markPoison st, acc.2.1, rest)
          else (hbmLines (placed (hbmWrite st ph now) who ph now.length) src (some c.dom) (linesOf ph now.length).length, acc.2.1, rest)
      | pl => (newAccess st who src ctx c p pl addr true now poison, acc.2.1 + 1, rest)) (s, 0, bs)
    (r.1, r.2.1)

/-- A fault whose last waiter has left closes: it is forgotten once recorded (R411). -/
def closeEmptyFaults (s : State) : State :=
  modXl s fun x => { x with faults := x.faults.filterMap fun f =>
    if f.resolved then (if f.recorded then none else some f)
    else if (x.accesses.any fun a => match a.fault with | some (i, _) => i = f.id | none => false) then some f
    else if f.recorded then none else some { f with resolved := true, left := true } }

/-- Resolve a fault: its waiters are released and repeat their lookup (R413); so do those that waited for a fault to
close. -/
def resolveFault (s : State) (id : Nat) : State :=
  let waits := s.xl.accesses.filter fun a => match a.fault with | some (i, _) => i = id || i = noFaultYet | none => false
  let s := modXl s fun x => { x with
    faults := x.faults.map fun f => if f.id = id then { f with resolved := true } else f
    accesses := (x.accesses.filter fun a => ¬ (a.dropped && (match a.fault with | some (i, _) => i = id | none => false))).map
      fun a => if (waits.any fun w => w.id = a.id) && (match a.fault with | some (i, _) => decide (i = id) | none => false)
        then { a with fault := none, xlatReq := false } else a }
  closeEmptyFaults (waits.foldl (fun s a => if a.dropped then s else tryAccess s a.id) s)

/-- End every waiter of a fault at once with LOCAL_FAULT_TIMEOUT (R413, Table 15.6). -/
def abortFault (s : State) (id : Nat) : State :=
  let waits := s.xl.accesses.filter fun a => match a.fault with | some (i, _) => i = id | none => false
  closeEmptyFaults (waits.foldl (fun s a => endAccess s a.id 3) s)

/-! ## Region keys (R132, R133) -/

/-- The valid registration a key names. -/
def regionOf (s : State) (key : Nat) : Option (Nat × Region) :=
  match s.regions.lookup (key / 256) with
  | some r => if r.valid && r.gen = key % 256 then some (key / 256, r) else none
  | none => none

/-- A range lies in the region. -/
def Region.has (r : Region) (va len : Nat) : Bool := r.base ≤ va && va + len ≤ r.base + r.len

/-- Local-side check of a descriptor's buffer (R133). -/
def localOk (s : State) (fn key va len : Nat) (write : Bool) : Bool :=
  match regionOf s key with
  | some (_, r) => r.fn = fn && r.has va len && (!write || r.localWrite)
  | none => false

end Sys2Proof.Machine
end

