-- ==== Sys2Proof/Machine/Records.lean ====
section
/-! DEFINITION. Records.lean: completion and event records on their rings, the journal, moderation, and the completions of
commands (R64 to R96). -/

namespace Sys2Proof.Machine

/-- Bytes of one record. -/
def CqRing.entry (q : CqRing) : Nat := if q.isEq then 64 else 32

/-- PHASE of index i in a ring of 2^n (R68). -/
def phaseOf (i n : Nat) : Nat := ((i >>> n) + 1) % 2

/-- Capacity of the journal: 0 while disabled or misplaced (R93). -/
def journalCap (s : State) : Nat :=
  let n := fld s.journal.cfg 0 5
  let base := fld s.journal.base 12 27 * 4096
  if bitAt s.journal.cfg 5 && 10 ≤ n && n ≤ 20 && domNamed s 64 base (128 + 128 * 2 ^ n) then 2 ^ n else 0

def journalBase (s : State) : Nat := fld s.journal.base 12 27 * 4096

/-- The journal header's first 24 bytes (Table 3.15). -/
def journalHeader (s : State) : State :=
  if journalCap s = 0 then s else
    wrAlloc s 64 (journalBase s) (leBytes 8 s.journal.writes ++ leBytes 4 s.journal.losses ++ leBytes 4 0 ++
      leBytes 8 s.journal.lossStamp)

/-- Stamp and source number of the record of an entry (Tables 3.11, 3.12). -/
def JEntry.key (e : JEntry) : Nat × Nat :=
  if e.kind = 2 then (fld e.record 0 64, fld e.record 64 12) else (fld e.record 64 64, fld e.record 128 12)

/-- Order of R38 among entries: stamp, then source; equal keys keep their order (R95). -/
def journalInsert (e : JEntry) : List JEntry → List JEntry
  | [] => [e]
  | x :: xs =>
    if e.key.1 < x.key.1 ∨ (e.key.1 = x.key.1 ∧ e.key.2 < x.key.2) then e :: x :: xs else x :: journalInsert e xs

/-- A record is bound for the journal: it joins those of the present cycle (R94). -/
def journalPut (s : State) (e : JEntry) : State := modCyc s fun c => { c with journal := c.journal ++ [e] }

/-- An entry is written behind those there are (Table 3.15). -/
def journalWriteEntry (s : State) (e : JEntry) : State :=
  let at_ := journalBase s + 128 + 128 * s.journal.writes
  let tail : Line := layout 512 [(0, 8, e.kind), (16, 16, e.fn), (32, 20, e.ring), (64, 32, e.index)]
  let s := wrAlloc s 64 at_ (bytesOf e.record ++ bytesOf tail)
  journalHeader { s with journal := { s.journal with writes := s.journal.writes + 1 } }

/-- Held entries are written in order while the journal has room (R94). -/
def journalDrain (s : State) : State :=
  let room := journalCap s - s.journal.writes
  let out := s.journal.held.take room
  out.foldl journalWriteEntry { s with journal := { s.journal with held := s.journal.held.drop room } }

/-- The records the cycle bound for the journal are written in the order of R38, or held while it is full or disabled (R94,
R95). -/
def journalFlush (s : State) : State :=
  if s.cyc.journal.isEmpty then s
  else
    let held := s.cyc.journal.foldl (fun l e => journalInsert e l) s.journal.held
    journalDrain (modCyc { s with journal := { s.journal with held := held } } fun c => { c with journal := [] })

/-- ENTRY_KIND and RING of a journal entry. -/
def journalKind (r : RingRef) : Nat × Nat :=
  match r with
  | .cq _ num => (1, num)
  | .eq _ => (2, 0)
  | _ => (3, 0)

/-- The journal entry of a record bound for index `idx` of a ring. -/
def ringEntry (s : State) (r : RingRef) (fn idx : Nat) (rec : Line) : JEntry :=
  { kind := (journalKind r).1, fn := fn, ring := (journalKind r).2, index := idx, record := rec, folio := s.folio }

/-- The segment a ring lies in logs a write of its at target address `a` (R419). -/
def logRing (s : State) (q : CqRing) (a : Nat) : State :=
  match q.seg.bind fun x => (s.xl.ctxs.lookup x.1).bind fun c => c.segs.lookup x.2 with
  | some g => logSeg s g (g.base + (a - g.tbase))
  | none => s

/-- A record's bytes go to the ring's memory; in host memory as any host access of the function does (R65, R84). -/
def storeRecord (s : State) (r : RingRef) (q : CqRing) (rec : Line) : State :=
  let bs := (bytesOf rec).take q.entry
  let a := q.addr + (q.pIdx % 2 ^ q.log2) * q.entry
  let s := logRing s q a
  match q.place with
  | .hbm => wrAlloc s q.dom a bs
  | .host => ringAccess s (.record r q.pIdx) q.fn q.seg .host a q.entry true bs
  | .near n =>
    let off := a % 64
    nearReq s n false 0 (a - off) 1 off (off + q.entry - 1) (ofBytes 512 bs <<< (8 * off)) false none

/-- Raise the interrupt or notify of a ring, and disarm it (R91, R92). -/
def raiseRing (s : State) (r : RingRef) (q : CqRing) : State :=
  let s := modCq s r fun q => { q with armed := false, since := 0, winFolio := none, raiseAt := none }
  if (getFn s q.fn).fenced then s
  else if q.notify then nearNotify s q else raiseMsix s q.fn q.vector

/-- A record has been written: moderation (R92); control and manager completions are not moderated. -/
def moderate (s : State) (r : RingRef) : State :=
  match r, getCq s r with
  | .ctlCq fn, some q => raiseMsix s fn q.vector
  | .mgrCq, some q => raiseMsix s 0 q.vector
  | _, some q => if q.armed && (q.since ≥ max 1 q.modCount || q.modFolios = 0) then raiseRing s r q else s
  | _, none => s

/-- Write a record at the ring's next index (R84, R86, R94); records of a fenced VF are suppressed (R436). -/
def writeRecord (s : State) (r : RingRef) (rec : Line) : State :=
  match getCq s r with
  | none => s
  | some q =>
    let out := setFld rec (if q.isEq then 76 else 140) 1 (phaseOf q.pIdx q.log2)
    let s := if (getFn s q.fn).fenced then s
      else if q.journalled then
        journalPut s (ringEntry s r q.fn q.pIdx out)
      else storeRecord s r q out
    let s := modCq s r fun q => { q with
      pIdx := (q.pIdx + 1) % 2 ^ 32
      since := if q.armed then q.since + 1 else q.since
      winFolio := if q.armed && q.modFolios > 0 && q.winFolio.isNone then some s.folio else q.winFolio }
    moderate s r

def CqRing.full (q : CqRing) : Bool := sub32 q.pIdx q.cIdx ≥ 2 ^ q.log2

/-- An event is written, stamped with the present cycle; no EQ, or a full one, drops it (R89). -/
def writeEvent (s : State) (e : PendEvent) : State :=
  match (getFn s e.fn).eq with
  | none => bump s (devCnt 13) 1
  | some q =>
    let ev := eventRec s.now e.src e.code e.carrel q.seq e.obj e.data
    let s := modCq s (.eq e.fn) fun q => { q with seq := (q.seq + 1) % 2 ^ 32 }
    if q.full then bump s (devCnt 13) 1 else writeRecord s (.eq e.fn) ev

/-- The events of the cycle are written in the order of R38: all have one stamp, so by source, then as they were raised. -/
def writeEvents (s : State) : State :=
  (sortBy (fun a b => a.src ≤ b.src) s.cyc.events).foldl writeEvent (modCyc s fun c => { c with events := [] })

/-- Put a completion on a CQ: held in order while the CQ is full (R88). -/
def complete (s : State) (r : RingRef) (rec : Line) (sc : Bool := false) : State :=
  match getCq s r with
  | none => s
  | some q =>
    let dom := (fnDom s q.fn).getD 64
    let s := bumpDom s dom 15 1
    let s := prog s { code := 0x0F, source := fnSource q.fn, dom := some dom, cls := some (if sc then 2 else 1), seg := none, units := 1
                      qp := dfld rec 28 0 20 }
    if q.held = [] && !q.full then writeRecord s r rec
    else
      let s := modCq s r fun q => { q with
        held := q.held ++ [rec], overFolio := if q.held = [] then some s.folio else q.overFolio }
      if q.held = [] then
        postEvent s q.fn 0x03 (fnSource q.fn) (carrelField dom) q.num (evData [(20, 32, 1)])
      else s

/-- Held records of a CQ are written in order once space appears (R88). -/
def drainHeld (s : State) (r : RingRef) : State :=
  match getCq s r with
  | none => s
  | some q =>
    let room := 2 ^ q.log2 - sub32 q.pIdx q.cIdx
    let out := q.held.take room
    let rest := q.held.drop room
    let s := modCq s r fun q => { q with held := rest, overFolio := if rest = [] then none else q.overFolio }
    out.foldl (fun s rec => writeRecord s r rec) s

/-- A CQ holds back admission of the QPs bound to it: since the tick after an overrun, or after a record of it was held for
want of room in the journal (R88, R94). -/
def cqBlocked (s : State) (fn num : Nat) : Bool :=
  match getCq s (.cq fn num) with
  | none => false
  | some q => (!q.held.isEmpty && (match q.overFolio with | some f => f < s.folio | none => false)) ||
      s.journal.held.any fun e => e.kind = 1 && e.fn = fn && e.ring = num && e.folio < s.folio

/-! ## Completions of commands (R83, R100) -/

/-- Completion of a manager command. -/
def mgrDone (s : State) (d : Line) (status bc : Nat) : State :=
  complete s .mgrCq (complRec (dWrId d) s.now 0x3FF true false false status (dOpcode d) bc 0 0 0)

def mgrOk (s : State) (d : Line) (bc : Nat := 0) : State := mgrDone s d 0 bc
/-- KEY_INVALID with a reason (R100) -/
def mgrFail (s : State) (d : Line) (reason : Nat) : State := mgrDone s d 0x0C reason

/-- Completion of a control-ring command of a function. -/
def ctlDone (s : State) (fn : Nat) (d : Line) (status bc : Nat) : State :=
  complete s (.ctlCq fn) (complRec (dWrId d) s.now (fnSource fn) true false false status (dOpcode d) bc 0 0 0)

/-- Take a descriptor the fetch has accepted off its ring, when it heads the accepted ones. -/
def takeHanded (s : State) (r : RingRef) (d : Line) : State :=
  modRing s r fun q => { q with handed := match q.handed with | x :: xs => if x = d then xs else x :: xs | [] => [] }

end Sys2Proof.Machine
end

