-- ==== Sys2Proof/Machine/Fetch.lean ====
section
/-! DEFINITION. Fetch.lean: reads of descriptor slots leave for the memory their ring lies in (R65, R69, R74). -/

namespace Sys2Proof.Machine

/-- A QP whose state fetches from its SQ or RQ (Table 4.4, R144). -/
def qpFetches (q : Qp) (sq : Bool) : Bool :=
  match q.state with
  | .rts => true
  | .error => true
  | .rtr => !sq
  | .init => !sq
  | .sqd => !sq
  | .reset => false

/-- The ring has descriptors to fetch and may fetch them (R65, R94, R102, R321, R436). -/
def canFetch (s : State) (ref : RingRef) (r : Ring) : Bool :=
  r.enabled && !r.stopped && !r.linkStop && r.cDev ≠ r.pDev && !(getFn s r.fn).fenced &&
  (match r.place with
   | .host => fnUp s r.fn
   | .hbm => true
   | .near n => nearOpen s n r.dom) &&
  (match ref with
   | .sq qp => ((getQp s qp).map fun q => qpFetches q true).getD false
   | .rq qp => ((getQp s qp).map fun q => qpFetches q false).getD false
   | _ => true)

/-- Target address of the slot at C_dev. -/
def Ring.slotAddr (r : Ring) : Nat := r.addr + 64 * (r.cDev % 2 ^ r.log2)

/-- A read of the slot at C_dev is outstanding whose result counts. -/
def fetchOut (s : State) (ref : RingRef) : Bool := s.xl.accesses.any fun a => a.who = .fetch ref && !a.dropped

/-- Results still outstanding are to be discarded (R74). -/
def dropFetches (s : State) (ref : RingRef) : State :=
  modXl s fun x => { x with accesses := x.accesses.map fun a => if a.who = .fetch ref then { a with dropped := true } else a }

/-- Reads of a ring that is gone are forgotten. -/
def forgetFetches (s : State) (ref : RingRef) : State :=
  modXl s fun x => { x with accesses := x.accesses.filter fun a => a.who ≠ .fetch ref }

/-- A read of the slot at C_dev leaves. One of an HBM page in device bias is answered by DESCRIPTOR_FETCH_RESULT. -/
def fetchSlot (s : State) (ref : RingRef) (r : Ring) : State :=
  match r.place with
  | .hbm =>
    match domPhys s r.dom r.slotAddr with
    | some p =>
      if hostBiased s p then ringAccess s (.fetch ref) r.fn r.seg .hbm p 64 false []
      else ringAccess (bump s (devCnt 0) 1) (.fetch ref) r.fn r.seg .hbm p 64 false [] true
    | none => ringAccess s (.fetch ref) r.fn r.seg .hbm hbmSize 64 false [] true
  | pl => ringAccess s (.fetch ref) r.fn r.seg pl r.slotAddr 64 false []

/-- Fetch goes on at C_dev where the ring may fetch and neither a read nor a window of R74 is open (R69, R74). -/
def startFetch (s : State) (ref : RingRef) : State :=
  match getRing s ref with
  | none => s
  | some r => if !canFetch s ref r || r.window.isSome || fetchOut s ref then s else fetchSlot s ref r

/-- Re-fetch of the same slot (R74). -/
def refetchSlot (s : State) (ref : RingRef) : State :=
  match getRing s ref with
  | none => s
  | some r =>
    let s := modRing s ref fun q => { q with refetches := q.refetches + 1 }
    if canFetch s ref r then fetchSlot s ref r else s

end Sys2Proof.Machine
end

