-- ==== Sys2Proof/Machine/Transport.lean ====
section
/-! DEFINITION. Transport.lean: the queue-pair transport of both ends (R97 to R147): admission of descriptors, cutting
segments, acknowledgement and retransmission at the sender; admission, placement, completion and acknowledgement at the
receiver; ERROR and flush. -/

namespace Sys2Proof.Machine

/-- bytes of a full segment (R112) -/
def segBytes : Nat := 4194304

/-- distance from `a` up to `b` in modulo-4096 arithmetic (R122) -/
def seqDist (a b : Nat) : Nat := (b + 4096 - a % 4096) % 4096

/-- MAC index of a peer entry (R353, R361). -/
def peerMac (s : State) (entry : Nat) : Nat :=
  match s.peers.lookup entry with
  | some p => 2 * p.mac + p.sub
  | none => 0

/-- Carrel that owns a QP, through its function. -/
def qpDom (s : State) (q : Qp) : Nat := (fnDom s q.fn).getD 65

/-- Carrel that owns the QP of a number. -/
def domOf (s : State) (n : Nat) : Nat := ((getQp s n).map (qpDom s)).getD 65

/-- Payload coordinate of this adapter, y * 32 + x (Table 5.1). -/
def myCoord (s : State) : Nat := fld s.lat.cfg 10 10

/-! ## Sending control-tier cells (R126, R446) -/

/-- Put a cell in the control tier of an output: MAC index, or none for the lattice; to a peer entry where the QP holds
none. -/
def pushCtl (s : State) (mac : Option Nat) (qp : Nat) (c : Cell) (entry : Option Nat := none) : State :=
  match mac with
  | none => { s with latOut := { s.latOut with ctl := s.latOut.ctl ++ [⟨qp, c, none, none⟩] } }
  | some k => { s with macOut := tmod s.macOut k Output.reset fun o => { o with ctl := o.ctl ++ [⟨qp, c, none, entry⟩] } }

/-- The MAC output of a QP, none for the lattice. -/
def qpMac (s : State) (q : Qp) : Option Nat := if q.udp then some (peerMac s q.peerEntry) else none

/-- Header of a cell of a QP to its peer; over Fyton/UDP the lattice fields are zero (R363). -/
def qpHdr (s : State) (q : Qp) (type cls seq off : Nat) (last : Bool) : BitVec 96 :=
  if q.udp then latHdr type 0 0 0 false false 0 q.peerQp seq off last
  else latHdr type cls s.lat.epoch q.peerCoord false false (myCoord s) q.peerQp seq off last

/-- A control-tier cell of a QP to its peer. -/
def sendCtl (s : State) (n : Nat) (q : Qp) (type seq : Nat) (p : Line) : State :=
  pushCtl s (qpMac s q) n (latCell (qpHdr s q type 0 seq 0 false) p)

/-- SACK bitmap: bit i says sequence E + 1 + i is delivered (Table 4.8). -/
def sackBits (q : Qp) : BitVec 256 :=
  (List.range 256).foldl (fun x i => if q.d.getLsbD ((q.e + 1 + i) % 4096) then x ||| (1#256 <<< i) else x) 0

/-- The ACK payload of a QP (Table 4.8, R172). -/
def ackPayload (q : Qp) : Line :=
  layout 512 [(0, 12, q.e), (288, 16, q.marked), (304, 16, q.total)] ||| ((sackBits q).setWidth 512 <<< 32)

/-- Send an ACK; the echo counts restart (R123, R172). -/
def sendAck (s : State) (n : Nat) : State :=
  match getQp s n with
  | none => s
  | some q => modQp (sendCtl s n q 0x3 q.e (ackPayload q)) n fun q => { q with marked := 0, total := 0 }

/-- A QP owes an ACK: those of one cycle are sent as one, at its end (R123). -/
def oweAck (s : State) (n : Nat) : State :=
  modCyc s fun c => { c with acks := if c.acks.contains n then c.acks else c.acks ++ [n] }

/-- A QP that takes transport cells. -/
def qpLive (q : Qp) : Bool := q.state = .rtr || q.state = .rts || q.state = .sqd

/-- The ACKs owed in the cycle are sent, of QPs that still send them (R123, Table 4.4). -/
def ackCycle (s : State) : State :=
  s.cyc.acks.foldl (fun s n => if ((getQp s n).map qpLive).getD false then sendAck s n else s) (modCyc s fun c => { c with acks := [] })

/-- NAK payload (R124). -/
def nakPayload (code seq detail : Nat) : Line := layout 512 [(0, 8, code), (16, 12, seq), (32, 32, detail)]

/-- Count a NAK sent (Tables 18.3, 18.4). -/
def countNak (s : State) (n : Nat) (q : Qp) (code : Nat) : State :=
  let dom := qpDom s q
  let s := if code = 1 then bumpDom s dom 7 1 else s
  prog s { code := 0x0A, source := fnSource q.fn, dom := some dom, cls := some 1, seg := none, units := 1, qp := n }

/-- Send a NAK of a QP (R124). -/
def sendNak (s : State) (n code seq : Nat) (detail : Nat := 0) : State :=
  match getQp s n with
  | none => s
  | some q => countNak (sendCtl s n q 0x4 seq (nakPayload code seq detail)) n q code

/-- A NAK for a head cell refused before its QP is known to be its peer's: it goes back to the source and names the
refused QP number (Table 4.7 steps 1 and 2; log 20). -/
def nakBack (s : State) (via : Via) (c : Cell) (code : Nat) : State :=
  match via with
  | .lattice => pushCtl s none (cQp c)
      (latCell (latHdr 0x4 0 0 (cSrc c) false false (myCoord s) (cQp c) (cSeq c) 0 false) (nakPayload code (cSeq c) 0))
  | .udp g =>
    let cell := latCell (latHdr 0x4 0 0 0 false false 0 (cQp c) (cSeq c) 0 false) (nakPayload code (cSeq c) 0)
    { s with macOut := tmod s.macOut g.mac Output.reset fun o => { o with ctl := o.ctl ++ [⟨cQp c, cell, some g, none⟩] } }

/-! ## Sending records -/

/-- The CQ of a QP's send or receive completions. -/
def sqCq (q : Qp) : RingRef := .cq q.fn ((q.sq.map (·.bind)).getD 0)
def rqCq (q : Qp) : RingRef := .cq q.fn ((q.rq.map (·.bind)).getD 0)

/-- Completion record of a send-side descriptor (Table 3.11). -/
def sendRecord (s : State) (n : Nat) (q : Qp) (wr opcode status bc segSeq : Nat) (stamp : Option Gtc := none)
    (sc : Bool := false) : State :=
  complete s (sqCq q) (complRec wr (stamp.getD s.now) (fnSource q.fn) true false false status opcode bc 0 n segSeq) sc

/-- Completion record of a RECV (R105, R111, Table 3.11). -/
def recvRecord (s : State) (n : Nat) (q : Qp) (d : Line) (last imm sol : Bool) (status bc immData seq : Nat) : State :=
  complete s (rqCq q) (complRec (dWrId d) s.now (fnSource q.fn) last imm sol status (dOpcode d) bc immData n seq)

/-- Bytes a finished descriptor reports (Table 3.11). -/
def SendOp.byteCount (o : SendOp) : Nat :=
  match o.phase with
  | .done st =>
    if ! [0, 5, 0xA, 0xB].contains st || dOpcode o.desc = 0 then 0
    else if dOpcode o.desc = 0x04 || dOpcode o.desc ≥ 0x10 then o.bytes
    else if st = 0xA && !o.bad.isEmpty then (o.cut - 1) * 4194304
    else o.total
  | _ => 0

/-- A descriptor taken onto a QP's queue of work. -/
def SendOp.new (idx : Nat) (d : Line) (trig : Option Line) : SendOp :=
  { idx := idx, desc := d, phase := .fetched, trig := trig, total := dLength d, staged := [], base := 0, ready := 0, bad := [], poisoned := false, toRead := 0, firstSeq := none,
    cut := 0, bytes := 0, respDone := 0, sc := none, late := false, asEc := false, overflow := false, stampAt := none }

/-- Pairs an accepted list holds. -/
def pairsIn : List Line → Nat
  | [] => 0
  | [_] => 0
  | d :: w :: rest => if dOpcode d = 0x20 then pairsIn rest + 1 else pairsIn (w :: rest)

/-- Entries of a domain's deferred pool in use: pairs held, and pairs fetched and not yet handed on (R81). -/
def deferredUse (s : State) (dom : Nat) : Nat :=
  s.qps.foldl (fun n e => if qpDom s e.2 = dom then
    n + e.2.pairs.length + ((e.2.sq.map fun r => pairsIn r.handed).getD 0) else n) 0

/-- The deferred pool of a domain is full. -/
def poolFull (s : State) (dom : Option Nat) : Bool :=
  match dom with
  | some c => decide (deferredUse s c ≥ ((getDom s c).map (·.cfg.deferredQuota)).getD 0)
  | none => true

/-- Send queues that wait at a pair for an entry of the pool fetch again while it has one free (R81). -/
def poolKick (s : State) : State :=
  s.qps.foldl (fun s e => match e.2.sq with
    | some r => if sub32 r.pDev r.cDev ≥ 2 && !poolFull s (fnDom s r.fn) then startFetch s (.sq e.1) else s
    | none => s) s

/-- Descriptors of a send queue stay in ring order (R87). -/
def insertOp (o : SendOp) : List SendOp → List SendOp
  | [] => [o]
  | x :: xs => if o.idx < x.idx then o :: x :: xs else x :: insertOp o xs

/-- The counter of a pair has reached its threshold (R224). -/
def pairDue (s : State) (p : Pair) : Bool :=
  (tget s.trig (dfld p.slot 16 0 16) 0 + 2 ^ 32 - dfld p.slot 20 0 32) % 2 ^ 32 < 2 ^ 31

/-- Held pairs whose counter has reached their threshold are released into their SQ's work, in QP and ring order; the
entries they leave let waiting queues fetch (R81, R222 to R225). -/
def releasePairs (s : State) : State :=
  if s.qps.all fun e => e.2.pairs.all fun p => !pairDue s p then s
  else poolKick (s.qps.foldl (fun s e =>
    modQp s e.1 fun q => { q with
      pairs := q.pairs.filter fun p => !pairDue s p
      ops := (q.pairs.filter (pairDue s)).foldl (fun l p => insertOp (SendOp.new p.idx p.work (some p.slot)) l) q.ops }) s)

/-- TRIG_COUNTER gains `n`: the additions of one cycle are summed and applied together at its end (R223). -/
def trigAdd (s : State) (counter n : Nat) : State := modCyc s fun c => { c with adds := tmod c.adds counter 0 (· + n) }

/-- The additions of the cycle are applied modulo 2^32, and the pairs they reach released (R223 to R225). -/
def trigCycle (s : State) : State :=
  if s.cyc.adds.isEmpty then s
  else releasePairs (modCyc { s with trig := s.cyc.adds.foldl (fun t a => tput t a.1 ((tget t a.1 0 + a.2) % 2 ^ 32)) s.trig }
    fun c => { c with adds := [] })

/-- A released pair's work has completed: its DONE_ADD is given (Table 3.9, R223). -/
def giveDone (s : State) (o : SendOp) : State :=
  match o.trig with
  | some slot => if dbit slot 1 0 then trigAdd s (dfld slot 24 0 16) (dfld slot 28 0 32) else s
  | none => s

/-- Write the records of finished descriptors at the front of the SQ, in descriptor order: none passes an earlier
descriptor, or an earlier pair that is still held (R87). -/
def finishOps : Nat → State → Nat → State
  | 0, s, _ => s
  | fuel + 1, s, n =>
    match getQp s n with
    | none => s
    | some q =>
      match q.ops with
      | [] => s
      | o :: rest =>
        match o.phase with
        | .done st =>
          if q.pairs.any fun p => p.idx < o.idx then s else
          let s := modQp s n fun q => { q with ops := rest }
          let s := if st ≠ 0 || dSignal o.desc then
              sendRecord s n q (dWrId o.desc) (dOpcode o.desc) st o.byteCount
                ((o.firstSeq.getD 0 + (max 1 o.cut - 1)) % 4096) o.stampAt (dSc o.desc) else s
          finishOps fuel s n
        | _ => s

/-- Change a descriptor of a send queue. -/
def modOp (s : State) (n idx : Nat) (f : SendOp → SendOp) : State :=
  modQp s n fun q => { q with ops := q.ops.map fun o => if o.idx = idx then f o else o }

/-- A descriptor's operation has finished with a status: what its pair adds is added now, its record waits for its turn. -/
def markDone (s : State) (n idx status : Nat) : State :=
  match (getQp s n).bind fun q => q.ops.find? fun o => o.idx = idx with
  | none => s
  | some o => giveDone (modOp s n idx fun o => { o with phase := .done status }) o

def doneOp (s : State) (n idx status : Nat) : State := finishOps 70000 (markDone s n idx status) n

/-! ## ERROR (R144 to R146) -/

/-- Ring-ordered flush of the send side: the descriptor `victim` takes `status`, finished ones their own, every other
one and every held pair QP_FLUSHED; released work that ends so adds its DONE_ADD. -/
def flushSends (s : State) (n : Nat) (q : Qp) (victim : Option Nat) (status : Nat) : State :=
  let recs : List (Nat × Nat × Nat × Nat × Nat × Nat) :=
    (q.ops.map fun o =>
      match o.phase with
      | .done st => (o.idx, dWrId o.desc, dOpcode o.desc, st, o.byteCount, (o.firstSeq.getD 0 + (max 1 o.cut - 1)) % 4096)
      | _ => (o.idx, dWrId o.desc, dOpcode o.desc, if victim = some o.idx then status else 8, 0,
              (o.firstSeq.getD 0 + (max 1 o.cut - 1)) % 4096)) ++
    (q.pairs.map fun p => (p.idx, dWrId p.slot, 0x20, 8, 0, 0))
  let s := q.ops.foldl (fun s o => match o.phase with | .done _ => s | _ => giveDone s o) s
  (sortBy (fun a b => a.1 ≤ b.1) recs).foldl (fun s r =>
    if r.2.2.2.1 = 0 && !((q.ops.find? fun o => o.idx = r.1).map fun o => dSignal o.desc).getD true then s
    else sendRecord s n q r.2.1 r.2.2.1 r.2.2.2.1 r.2.2.2.2.1 r.2.2.2.2.2) s

/-- The receive side of a QP is flushed: delivered segments of a message that has not ended, then in ring order the RECVs of
admitted segments, LAST on the last one of each, and those no segment reserved (R144). -/
def flushRecvs (s : State) (n : Nat) (q : Qp) : State :=
  let s := q.held.foldl (fun s h => h.2.2.zipIdx.foldl (fun s r =>
    recvRecord s n q r.1.1 (r.2 + 1 = h.2.2.length) false false 8 0 0 0) s) s
  let taken : List (Nat × Line × Bool × Nat) := q.rx.flatMap fun r =>
    r.recvs.zipIdx.map fun v => (v.1.idx, v.1.desc, decide (v.2 + 1 = r.recvs.length), r.seq)
  let free : List (Nat × Line × Bool × Nat) := q.recvs.map fun r => (r.idx, r.desc, false, 0)
  (sortBy (fun a b => a.1 ≤ b.1) (taken ++ free)).foldl (fun s r =>
    recvRecord s n q r.2.1 r.2.2.1 false false 8 0 0 r.2.2.2) s

/-- The last descriptor accepted opens a pair whose second slot is still to come. -/
def pairOpen (r : Ring) : Bool :=
  match r.handed.reverse with
  | x :: _ => dOpcode x = 0x20 && (r.handed.reverse.takeWhile fun y => dOpcode y = 0x20).length % 2 = 1
  | [] => false

/-- The descriptors whose records accepted slots give: a pair counts as its TRIGGERED slot (R81). -/
def handedWork : List Line → List Line
  | [] => []
  | [d] => [d]
  | d :: w :: rest => if dOpcode d = 0x20 then d :: handedWork rest else d :: handedWork (w :: rest)

/-- Accepted slots of a QP in ERROR: a pair still open keeps its first slot, so that the second completes nothing. -/
def Ring.flushed (r : Ring) : Ring := { r with handed := if pairOpen r then r.handed.reverse.take 1 else [] }

/-- A descriptor just taken off a ring whose failure moves its QP to ERROR: of the SQ or the RQ, and its status. -/
structure BadWork where
  sq : Bool
  desc : Line
  status : Nat
  /-- descriptors of the ring accepted before it and on no queue yet -/
  ahead : List Line := []

/-- Records of a descriptor list of the SQ or RQ. -/
def flushLines (s : State) (n : Nat) (q : Qp) (sq : Bool) (ds : List (Line × Nat)) : State :=
  ds.foldl (fun s d =>
    if sq then sendRecord s n q (dWrId d.1) (dOpcode d.1) d.2 0 0 else recvRecord s n q d.1 false false false d.2 0 0 0) s

/-- Descriptors of one ring that are on no queue of the QP: the one that failed, and those accepted behind it. -/
def looseWork (r : Option Ring) (sq : Bool) (bad : Option BadWork) : List (Line × Nat) :=
  ((bad.toList.filter fun b => b.sq = sq).flatMap fun b => (b.ahead.map fun d => (d, 8)) ++ [(b.desc, b.status)]) ++
    (((r.map fun r => handedWork r.handed).getD []).map fun d => (d, 8))

/-- A QP enters ERROR (R144): `victim` is the queued descriptor that takes `status`, `bad` one that has just left its ring;
`cause` is the CAUSE of the QP_ERROR event, 0 when none is posted; `notices` says whether PEER_GONE goes to the peer (R145).
Both rings are fetched to their ends, to be flushed. -/
def enterError (s : State) (n : Nat) (victim : Option Nat) (status cause : Nat) (notices : Bool)
    (bad : Option BadWork := none) : State :=
  match getQp s n with
  | none => s
  | some q =>
    if q.state = .error then s else
    let wr := ((q.ops.find? fun o => some o.idx = victim).map fun o => dWrId o.desc) <|> bad.map fun b => dWrId b.desc
    let s := modQp s n fun q => { q with
      state := .error, cause := status, ops := [], pairs := [], recvs := [], rx := [], held := [], tx := [], outq := [], stash := [], reads := [],
      timer := none, round := none, roundSeq := none, paWaits := [], discard := none, sqdWait := none
      sq := q.sq.map Ring.flushed, rq := q.rq.map Ring.flushed }
    let s := if notices && q.hadPeer then
        { s with gone := s.gone ++ [⟨n, q.udp, q.peerCoord, q.peerQp, q.peerEntry, q.e, 4, s.folio⟩] } else s
    let s := modXl s fun x => { x with accesses := x.accesses.filter fun a =>
      match a.who with
      | .send m _ => m ≠ n
      | .respond m _ => m ≠ n
      | .place m _ => m ≠ n
      | .readPlace m _ => m ≠ n
      | _ => true }
    let s := closeEmptyFaults s
    let s := flushLines (flushSends s n q victim status) n q true (looseWork q.sq true bad)
    let s := flushLines (flushRecvs s n q) n q false (looseWork q.rq false bad)
    let s := match q.sqdWait with | some d => mgrFail s d 2 | none => s
    let s := if cause = 0 then s else
      postEvent s q.fn 0x04 (fnSource q.fn) (carrelField (qpDom s q)) n
        (evData [(20, 8, status), (21, 8, cause), (24, 64, wr.getD 0)])
    poolKick (startFetch (startFetch s (.sq n)) (.rq n))

/-- A local error of a descriptor: it completes with `status` and the QP enters ERROR (CAUSE 3). -/
def failOp (s : State) (n idx status : Nat) : State := enterError s n (some idx) status 3 true

/-! ## Building segments and cells (R112 to R115, R141, R143) -/

/-- Sequence of the oldest unacknowledged segment, or the next one to be sent. -/
def oldestUnacked (q : Qp) : Nat := ((q.tx.find? fun t => !t.acked).map (·.seq)).getD q.txSeq

/-- 12-byte IV of segment number N: the salt lowest byte first, N highest byte first (R141, chapter 10). -/
def sealIv (salt n : Nat) : List Byte := leBytes 4 salt ++ (leBytes 8 n).reverse

/-- The 32-byte key of a slot. -/
def slotKey (s : State) (slot : Nat) : List Byte :=
  match s.keys.lookup slot with
  | some k => (bytesOf k.key).take 32
  | none => List.replicate 32 0

/-- Additional data: bytes 0 to 39 of the head with RETX 0. -/
def sealAad (h : Line) : List Byte := (bytesOf (setFld h 11 1 0)).take 40

/-- Encrypt a segment of a sealed QP with number N: head with its tag and ciphertext (R140, R141, R287). -/
def sealSeg (s : State) (q : Qp) (nn : Nat) (h : Line) (data : List Byte) : Line × List Byte :=
  let r := gcmSeal (slotKey s q.txSlot) (sealIv q.salt nn) (sealAad h) data
  (setFld h 320 128 (natOf r.2), r.1)

/-- Put one more segment of a QP behind those it has. One of a sealed QP waits for its sealing job, one on a flow may have
`ready` bytes only (R189, R288). -/
def pushSeg (s : State) (n : Nat) (op : Option Nat) (readSeq prio : Nat) (sc : Option Nat) (h : Line)
    (data : List Byte) : State :=
  match getQp s n with
  | none => s
  | some q =>
    let poison := hPoison h
    let len := if hOpcode h = 0x04 || poison then 0 else hSegLen h
    let h := if q.sealed then setFld h 12 1 1 else h
    let seg : TxSeg :=
      { seq := q.txSeq, op := op, readSeq := readSeq, head := h, data := if poison then [] else data, cells := cdiv len 64
        have_ := if data.length < len then data.length / 64 else cdiv len 64, sealing := q.sealed, next := 0, sc := sc, prio := prio
        acked := false, again := [], resent := [], sentIn := [] }
    let s := modQp s n fun q => { q with tx := q.tx ++ [seg], txSeq := (q.txSeq + 1) % 4096, txN := q.txN + 1 }
    match getQp s n with
    | some q' => copyStored s (qpDom s q) (segCopy n q' q.txSeq) 0 (seg.cells + 1)
    | none => s

/-- Number of segments of a message (R112). -/
def segCount (len : Nat) : Nat := max 1 (cdiv len segBytes)

/-- Head payload of segment `i` of a SEND, WRITE or WRITE_TRIG of `len` bytes (Table 4.6); a poisoned one ends its
message (R143). -/
def transferHead (d : Line) (len i : Nat) (poison sc : Bool) : Line :=
  let last := poison || i + 1 = segCount len
  let n := min segBytes (len - i * segBytes)
  let op := dOpcode d
  let remote := op = 0x02 || op = 0x03
  layout 512 [(0, 8, op), (8, 1, b2n (last && dImm d)), (9, 1, b2n (dSolicit d)), (10, 1, b2n sc),
    (13, 1, b2n (i = 0)), (14, 1, b2n last), (15, 1, b2n poison), (16, 10, i), (32, 32, n),
    (64, 57, if remote then dRemoteAddr d + i * segBytes else 0), (128, 32, if remote then dRemoteKey d else 0),
    (160, 32, if last && dImm d then dImmData d else 0), (192, 16, if op = 0x03 then dTrigCounter d else 0),
    (224, 32, if op = 0x03 then dTrigAdd d else 0), (256, 32, len)]

/-- Head payload of a READ request (Table 4.6). -/
def readHead (d : Line) : Line :=
  layout 512 [(0, 8, 4), (9, 1, b2n (dSolicit d)), (13, 1, 1), (14, 1, 1), (64, 57, dRemoteAddr d), (128, 32, dRemoteKey d),
    (256, 32, dLength d)]

/-- Head payload of piece `i` of a READ response (R109). -/
def respHead (r : ReadReq) (i : Nat) (poison : Bool) : Line :=
  let last := poison || i + 1 = segCount r.len
  layout 512 [(0, 8, 7), (13, 1, b2n (i = 0)), (14, 1, b2n last), (15, 1, b2n poison), (16, 10, i),
    (32, 32, min segBytes (r.len - i * segBytes)), (256, 32, r.len), (288, 12, r.seq)]

/-- Bytes of segment `i`. -/
def segSlice (bs : List Byte) (i : Nat) : List Byte := (bs.drop (i * segBytes)).take segBytes

/-- A poisoned range lies in segment `i`. -/
def poisonIn (bad : List (Nat × Nat)) (i : Nat) : Bool :=
  bad.any fun r => r.1 < (i + 1) * segBytes && i * segBytes < r.1 + r.2

/-- A poisoned range lies in one of the first `n` segments. -/
def poisonBefore (bad : List (Nat × Nat)) (n : Nat) : Bool := bad.any fun r => r.1 / segBytes < n

/-- The window of R115 has room for one more segment. -/
def windowOpen (q : Qp) : Bool := seqDist (oldestUnacked q) q.txSeq < 2048

/-- Chain stages of a descriptor before the first 0x0 (Table 3.5). -/
def chainStages (d : Line) : List Nat := if dChainEn d then (dChain d).takeWhile (· ≠ 0) else []

/-- The staged copy holds the whole message: an engine chain works on it, or it goes to a MAC (R17, R253). -/
def SendOp.whole (o : SendOp) : Bool := chainStages o.desc ≠ [] || dOpcode o.desc = 5

/-- A descriptor that still has a segment to cut: of its message, or a READ's request. -/
def SendOp.uncut (o : SendOp) : Bool :=
  if dOpcode o.desc = 0x04 then o.cut = 0
  else [1, 2, 3].contains (dOpcode o.desc) && (o.cut < segCount o.total) && !poisonBefore o.bad o.cut

/-- The descriptor has data to send and has not come so far. -/
def SendOp.before (o : SendOp) : Bool :=
  [1, 2, 3].contains (dOpcode o.desc) &&
    (match o.phase with
     | .fetched => true | .queued => true | .reading => true | .chain _ => true | .staged => true | _ => false)

/-- A message of which a segment has been cut and another is to follow: no segment of another message comes between, since
the receiver ends a message at its LAST_SEG (R111). -/
def SendOp.begun (o : SendOp) : Bool := o.uncut && o.cut > 0

/-- A READ whose request has no sequence yet. -/
def SendOp.readDue (o : SendOp) : Bool := dOpcode o.desc = 0x04 && o.phase = .sending && o.uncut

/-- Earlier work that a descriptor's first segment must follow: of the same class, or for a READ any transfer, since it sees
the bytes of every WRITE posted before it; and earlier READs (R110, R112). -/
def SendOp.follows (o p : SendOp) : Bool :=
  p.idx < o.idx && (p.readDue || (dOpcode o.desc = 0x04 && (p.before || (p.phase = .sending && p.uncut))) ||
    (p.before && p.onFlow = o.onFlow))

/-- The data of the segment cut next is staged: on a flow the first of its cells, on a sealed QP all of it (R137, R189,
R288). -/
def SendOp.segReady (o : SendOp) (sealed : Bool) : Bool :=
  dOpcode o.desc = 0x04 || o.whole || !o.onFlow || o.total = 0 ||
    (if sealed then min o.total ((o.cut + 1) * segBytes) ≤ o.ready else o.cut * segBytes < o.ready)

/-- The descriptor whose segment is cut next: the message begun, else the first of the EC work, or of the SC work, that no
earlier one has still to precede. -/
def nextCut (q : Qp) : Option SendOp :=
  let ok (o : SendOp) : Bool := o.phase = .sending && o.uncut && o.segReady q.sealed
  match q.ops.find? fun o => o.begun with
  | some o => if ok o then some o else none
  | none => q.ops.find? fun o => ok o && q.ops.all fun p => !o.follows p

/-! ## Staging (R17, R137, R189, R428) -/

/-- The active gate-list set (R188). -/
def activeSet (s : State) : Option GateSet := s.sched.active.bind fun i => s.sched.sets.find? fun g => g.id = i

/-- The slot map of the active set: the base, or the contingency section in force. -/
def activeMap (s : State) : List SlotEntry :=
  match activeSet s with
  | none => []
  | some g => match s.sched.contLink with
    | none => g.map
    | some l => tget g.conts l []

/-- Index of folio k in the active set's cycle (R188). -/
def cycleIndex (s : State) (g : GateSet) (k : Nat) : Nat := (k - s.sched.activeFrom) % g.cycle

/-- Slots of a run. -/
def SlotEntry.runLen (e : SlotEntry) : Nat := if e.run = 0 then 1024 else e.run

/-- Slots of a role with local injection a flow has in folio `k` of the cycle. -/
def localSlots (m : List SlotEntry) (f role k : Nat) : Nat :=
  m.foldl (fun n e => if e.flow = f && e.role = role && e.inPort = 8 && e.folio = k then n + e.runLen else n) 0

/-- Data slots of a flow from here in folio `k`. -/
def dataSlots (s : State) (f k : Nat) : Nat :=
  match activeSet s with
  | some g => localSlots (activeMap s) f 0 (cycleIndex s g k)
  | none => 0

/-- Bytes the transport area of a domain holds of its QPs and streams: staging and retransmission copies, READ responses
being read, sealed staging, the staging and the streams of collectives, and the contexts of suspended jobs, 256 bytes each (R262, R428). -/
def transportUse (s : State) (dom : Nat) : Nat :=
  (s.qps.foldl (fun n e => if qpDom s e.2 ≠ dom then n else
    n + (e.2.ops.map fun o => o.staged.length - (if o.whole || o.base = 0 then min o.staged.length (o.cut * segBytes) else 0)).sum + (e.2.tx.map (·.data.length)).sum + (e.2.reads.map (·.staged.length)).sum +
      ((e.2.rx.filter fun r => hSealed r.head && !r.delivered).map fun r => hSegLen r.head).sum) 0) +
  (s.col.comms.foldl (fun n e => if fnDom s e.2.fn ≠ some dom then n else
    n + (e.2.run.map fun c => (c.staged.map fun x => x.2.1.length).sum + 64 * (c.tx.map fun t => t.cells.length).sum).sum) 0) +
  256 * (s.zoo.jobs.filter fun j => j.2.dom = dom && j.2.engine.isSome).length

/-- Bytes the transport area still has for copies: the stash's share is kept for it (R119, R428). -/
def transportRoom (s : State) (dom : Nat) : Nat :=
  match getDom s dom with
  | some d => d.cfg.transport * 2 ^ 30 - d.cfg.stashMib * 2 ^ 20 - transportUse s dom
  | none => 0

/-- Bytes of a message staged by one read: its current segment, or all of it (R137). -/
def SendOp.readLen (o : SendOp) : Nat := if o.whole then o.total else min segBytes (o.total - o.cut * segBytes)

/-- A descriptor whose data is still to be staged, its segments' own part by part. -/
def SendOp.plain (o : SendOp) : Bool := [1, 2, 3].contains (dOpcode o.desc) && !o.whole

/-- The bytes of the segment cut next, as far as they are staged. -/
def SendOp.segData (o : SendOp) : List Byte :=
  if o.whole then segSlice o.staged o.cut
  else if o.onFlow then segSlice (o.staged.take o.ready) o.cut
  else o.staged

/-- The head of the segment a descriptor cuts next. -/
def SendOp.nextHead (o : SendOp) : Line :=
  if dOpcode o.desc = 0x04 then readHead o.desc
  else transferHead o.desc o.total o.cut (poisonIn o.bad o.cut) o.onFlow

/-- What a descriptor becomes as its next segment is cut. -/
def SendOp.afterCut (o : SendOp) (seq : Nat) : SendOp :=
  let o := { o with cut := o.cut + 1, firstSeq := o.firstSeq <|> some seq }
  if dOpcode o.desc = 0x04 then { o with phase := .waiting }
  else if o.whole || o.onFlow then o
  else { o with staged := [], phase := if o.uncut then .queued else .sending }

/-- A descriptor whose staged copy is read now: with the ranges of it that read as poisoned (R143, R514). -/
def SendOp.staging (s : State) (n : Nat) (q : Qp) (o : SendOp) : SendOp :=
  { o with bad := o.bad ++ badStaged s (qpDom s q) (sendCopy n o.idx) o.base o.staged.length }

/-- Cut segments in descriptor order, while the window has room (R112, R115). -/
def cutSegs : Nat → State → Nat → State
  | 0, s, _ => s
  | fuel + 1, s, n =>
    match getQp s n with
    | none => s
    | some q =>
      if !windowOpen q then s else
      match nextCut q with
      | none => s
      | some o =>
        let sc := if o.onFlow then some (dScFlow o.desc) else none
        let s := pushSeg s n (some o.idx) 0 (dPrio o.desc) sc (o.staging s n q).nextHead (if dOpcode o.desc = 0x04 then [] else o.segData)
        cutSegs fuel (modOp s n o.idx fun o => o.afterCut q.txSeq) n

/-- Cut the response segments of READ requests whose piece is there, in request order (R109, R110). -/
def cutResps : Nat → State → Nat → State
  | 0, s, _ => s
  | fuel + 1, s, n =>
    match getQp s n with
    | none => s
    | some q =>
      match q.reads with
      | [] => s
      | r :: rest =>
        if !r.started || r.toRead > 0 || !windowOpen q then s else
        let bad := !(r.bad ++ badStaged s (qpDom s q) (respCopy n r.seq r.cut) 0 r.staged.length).isEmpty
        let s := pushSeg s n none r.seq r.prio none (respHead r r.cut bad) r.staged
        let fin := bad || r.cut + 1 = segCount r.len
        let s := modQp s n fun q => { q with
          reads := if fin then rest else { r with cut := r.cut + 1, started := false, staged := [], bad := [] } :: rest }
        cutResps fuel s n

/-- Cell `i` of a segment: 0 the head, i the data cell at offset i - 1 (R112, R114). -/
def segCell (s : State) (q : Qp) (t : TxSeg) (i : Nat) (retx : Bool) : Cell :=
  let cls := if t.sc.isSome then 1 else 0
  let hdr (type off : Nat) := qpHdr s q type cls t.seq off (i = t.cells)
  if i = 0 then latCell (hdr 1 0) (if retx then setFld t.head 11 1 1 else t.head)
  else latCell (hdr 2 (i - 1)) (ofBytes 512 (padTo 64 ((t.data.drop (64 * (i - 1))).take 64)))

/-- The next cell of a QP's EC work: (segment, cell, re-sent), in sequence order; in a round no new one (R130). -/
def nextEcCell (q : Qp) : Option (TxSeg × Nat × Bool) :=
  q.tx.findSome? fun t =>
    if t.sc.isSome || t.acked || t.sealing || t.have_ < t.cells then none
    else match t.again with
      | i :: _ => some (t, i, true)
      | [] => if q.round.isNone && t.next ≤ t.cells then some (t, t.next, false) else none

/-- The copy of a cell about to be sent again reads as poisoned (R514). -/
def resendBad (s : State) (n : Nat) (q : Qp) (t : TxSeg) (i : Nat) : Bool :=
  (badParts s (qpDom s q) (segCopy n q t.seq)).contains i

/-- A retransmission copy reads as poisoned: its descriptor completes POISON and the QP enters ERROR (Table 21.4); a READ response
has no descriptor at its sender. -/
def copyPoisoned (s : State) (n : Nat) (t : TxSeg) : State := enterError s n t.op 0xA 3 true

/-- The EC segment a QP would send from next, where the cell is sent again and its copy reads as poisoned. -/
def nextEcBad (s : State) (n : Nat) (q : Qp) : Option TxSeg :=
  match nextEcCell q with
  | some (t, i, true) => if resendBad s n q t i then some t else none
  | _ => none

/-- The timer opens when the last cell of the oldest unacknowledged EC segment is injected (R128). -/
def openTimer (s : State) (q : Qp) (t : TxSeg) (i : Nat) (tm : Option (Gtc × Nat)) : Option (Gtc × Nat) :=
  let oldest := q.tx.find? fun t => !t.acked && t.sc.isNone
  if i = t.cells && (oldest.map (·.seq)) = some t.seq && tm.isNone then some (s.now, q.rtoUs * 16000) else tm

/-- A cell of a segment has been injected. -/
def cellSent (s : State) (n seq i : Nat) (again : Bool) (slot : Nat := 0) : State :=
  match getQp s n with
  | none => s
  | some q =>
    let sc := q.tx.any fun t => t.seq = seq && t.sc.isSome
    let s := if again then
        prog (bumpDom s (qpDom s q) 6 1)
          { code := 0x06, source := fnSource q.fn, dom := some (qpDom s q), cls := some (if sc then 2 else 1), seg := none,
            units := 1, qp := n } else s
    modQp s n fun q =>
      let tm := match q.tx.find? fun t => t.seq = seq with
        | some t => openTimer s q t i q.timer
        | none => q.timer
      { q with
        tx := q.tx.map fun t => if t.seq = seq then
          { t with
            next := if again then t.next else max t.next (i + 1), again := if again then t.again.drop 1 else t.again
            resent := if t.sc.isSome && again then tput t.resent i s.now else t.resent
            sentIn := if t.sc.isSome then tput t.sentIn i slot else t.sentIn } else t
        timer := tm }

/-! ## Admission of descriptors at a tick (R58, R105 to R110) -/

/-- The staged copy of a whole message is final: an SC one waits for a tick of R189, another is cut into segments. -/
def stageEnd (s : State) (n idx : Nat) : State :=
  match (getQp s n).bind fun q => q.ops.find? fun o => o.idx = idx with
  | none => s
  | some o => modOp s n idx fun x => { x with
      total := x.staged.length, ready := x.staged.length, phase := if o.onFlow then .staged else .sending }

/-- The data read is all there: the engine chain of a whole message runs, or the current segment can be cut. -/
def stagedReady (s : State) (n idx : Nat) : State :=
  match (getQp s n).bind fun q => q.ops.find? fun o => o.idx = idx with
  | none => s
  | some o =>
    if !o.whole then modOp s n idx fun o => { o with phase := .sending }
    else if chainStages o.desc = [] then stageEnd s n idx
    else modOp s n idx fun o => { o with phase := .chain 0 }

/-- The segment of a descriptor that was cut before all of its data was staged (R189). -/
def filling (q : Qp) (idx : Nat) : Option TxSeg := q.tx.find? fun t => t.op = some idx && t.have_ < t.cells

/-- More of an SC message is staged: the segment that waits for it takes it. One that goes on as EC is staged segment by
segment from the next one on. -/
def chunkDone (s : State) (n idx : Nat) : State :=
  match (getQp s n).bind fun q => (q.ops.find? fun o => o.idx = idx).map fun o => (q, o) with
  | none => s
  | some (q, o) =>
    let ready := o.staged.length
    let s := modOp s n idx fun o => { o with ready := ready }
    match filling q idx with
    | none => s
    | some t =>
      let i := o.cut - 1
      if poisonIn (o.staging s n q).bad i then failOp s n idx 0xA else
      let whole := decide (min o.total ((i + 1) * segBytes) ≤ ready)
      let data := segSlice (o.staged.take ready) i
      let fill (x : TxSeg) : TxSeg :=
        if x.seq = t.seq && x.op = some idx then { x with data := data, have_ := if whole then x.cells else data.length / 64 } else x
      let s := modQp s n fun q => { q with tx := q.tx.map fill }
      if whole && !o.onFlow && o.uncut then modOp s n idx fun o => { o with staged := [], ready := 0, phase := .queued } else s

/-- Bytes of an SC message that are to be staged by now: those its flow's data slots of this folio and the next one take
(R189); whole segments on a sealed QP, which are sealed before they leave (R140). -/
def stageGoal (s : State) (q : Qp) (o : SendOp) : Nat :=
  let f := dScFlow o.desc
  let last := q.tx.find? fun t => t.op = some o.idx && t.seq = ((o.firstSeq.getD 0) + o.cut - 1) % 4096
  let sent := (o.cut - 1) * segBytes + 64 * ((last.map fun t => t.next - 1).getD 0)
  min o.total (if q.sealed then (o.cut + 1) * segBytes
    else if o.onFlow then sent + 64 * max 1 (dataSlots s f s.folio + dataSlots s f (s.folio + 1))
    else o.cut * segBytes)

/-- A descriptor whose data is still to be read has none of its class before it. -/
def firstToRead (q : Qp) (o : SendOp) : Bool :=
  q.ops.all fun p => p.idx ≥ o.idx || !(p.before || p.begun) || p.onFlow ≠ o.onFlow

/-- The read a descriptor may begin: of its message, its current segment, or the part of an SC message due now; offset in the
message and length. The transport area must have room; what is read ahead of the segments that can be cut leaves room for
one more (R428; log 111). -/
def nextRead (s : State) (q : Qp) (o : SendOp) : Option (Nat × Nat) :=
  let room := transportRoom s (qpDom s q)
  if o.toRead > 0 then none
  else if o.plain && (o.onFlow || (filling q o.idx).isSome) then
    let goal := stageGoal s q o
    if (o.phase = .queued || o.phase = .sending) && o.ready < goal && goal - o.ready ≤ room then some (o.ready, goal - o.ready) else none
  else if o.phase ≠ .queued then none
  else if o.readLen + (if firstToRead q o then 0 else segBytes) ≤ room || o.readLen = 0 then
    some (if o.whole then 0 else o.cut * segBytes, o.readLen)
  else none

/-- A read of a local buffer into the staging copy begins (R17 step 2, R137). Its key was checked when it was fetched
(R133). -/
def beginRead (s : State) (n : Nat) (q : Qp) (o : SendOp) (off len : Nat) : State :=
  let ctx := ((s.regions.lookup (dLocalKey o.desc / 256)).map (·.ctx)).getD 0
  let res := startRead s (.send n o.idx) (fnSource q.fn) ctx (dLocalAddr o.desc + off) len (some (if o.onFlow then 2 else 1))
  let part := o.plain && (o.onFlow || (filling q o.idx).isSome)
  let bad := res.bad.map fun b => (b.1 + off, b.2)
  let s := modOp (bytesStored res.st (qpDom s q) (sendCopy n o.idx) off len) n o.idx fun o =>
    if part then { o with staged := o.staged ++ res.buf, toRead := res.left, bad := o.bad ++ bad }
    else { o with staged := res.buf, base := off, toRead := res.left, bad := o.bad ++ bad, phase := .reading }
  if res.left > 0 then s else if part then chunkDone s n o.idx else stagedReady s n o.idx

/-- The send side goes on: segments whose data is staged are cut, and reads begin while there is room (R17, R112, R428). -/
def sendPump : Nat → State → Nat → State
  | 0, s, _ => s
  | fuel + 1, s, n =>
    let s := cutSegs 3000 s n
    match (getQp s n).bind fun q => q.ops.findSome? fun o => (nextRead s q o).map fun r => (q, o, r) with
    | some (q, o, r) => sendPump fuel (beginRead s n q o r.1 r.2) n
    | none => s

/-- READ requests are read from memory piece by piece, in order, and their responses cut (R109, R110, R137, R428). A responder
that has no send sequence yet (RTR) answers from RTS on. -/
def respPump : Nat → State → Nat → State
  | 0, s, _ => s
  | fuel + 1, s, n =>
    let s := cutResps 3000 s n
    match getQp s n with
    | none => s
    | some q =>
      match q.reads with
      | [] => s
      | r :: _ =>
        let len := min segBytes (r.len - r.cut * segBytes)
        if r.started || !qpLive q || q.state = .rtr || transportRoom s (qpDom s q) < len then s
        else
          let ctx := ((s.regions.lookup (r.key / 256)).map (·.ctx)).getD 0
          let res := startRead s (.respond n r.seq) (fnSource q.fn) ctx (r.addr + r.cut * segBytes) len (some 1)
          respPump fuel (modQp (bytesStored res.st (qpDom s q) (respCopy n r.seq r.cut) 0 len) n fun q => { q with reads := match q.reads with
            | [] => []
            | x :: xs => { x with staged := res.buf, toRead := res.left, bad := res.bad, started := true } :: xs }) n

/-- Both sides of a QP go on. -/
def pump (s : State) (n : Nat) : State := sendPump 70000 (respPump 4096 s n) n

/-- A source flow of this adapter in the loaded sets. -/
def sourceFlow (s : State) (f : Nat) : Bool := s.sched.sets.any fun g => g.flows.any fun x => x.num = f && x.role = 1

/-- The active set carries the flow from here (Table 6.1). -/
def flowCarried (s : State) (f : Nat) : Bool :=
  !s.sched.voids.contains f &&
    (match activeSet s with | some g => g.flows.any fun x => x.num = f && x.role = 1 | none => false)

/-- Table 6.1: an SC descriptor fails with KEY_INVALID (none), goes as EC (false) or waits for its flow (true). -/
def scCheck (s : State) (n : Nat) (q : Qp) (d : Line) : Option Bool :=
  let f := dScFlow d
  if q.type = 1 || q.udp || dOpcode d = 0x04 then none
  else if !sourceFlow s f || (match s.sched.binds.lookup f with | some m => decide (m ≠ n) | none => false) then none
  else some (flowCarried s f)

/-- Admit one descriptor (R17 step 2): its data is staged as there is room; a READ sends its request. -/
def admitOp (s : State) (n : Nat) (o : SendOp) : State :=
  match dOpcode o.desc with
  | 0x00 => markDone s n o.idx 0
  | 0x10 | 0x11 | 0x12 | 0x13 | 0x14 | 0x15 => modOp s n o.idx fun o => { o with phase := .waiting }
  | 0x04 => modOp s n o.idx fun o => { o with phase := .sending }
  | _ => modOp s n o.idx fun o => { o with phase := .queued }

/-- As `admitOp`, after the checks of Table 6.1 for an SC descriptor. -/
def admitChecked (s : State) (n : Nat) (q : Qp) (o : SendOp) : State :=
  if !dSc o.desc || ! [1, 2, 3, 4, 5].contains (dOpcode o.desc) then admitOp s n o
  else match scCheck s n q o.desc with
    | none => failOp s n o.idx 0xC
    | some true => admitOp s n o
    | some false => admitOp (modOp s n o.idx fun o => { o with late := true }) n o

/-- A descriptor with a chain is admitted in this cycle (Table 10.9). -/
def noteOp (s : State) (n : Nat) (o : SendOp) : State :=
  if chainStages o.desc = [] then s else modCyc s fun c => { c with newOps := c.newOps ++ [(n, o.idx)] }

/-- Every earlier READ of the queue has completed (FENCE, Table 3.5). A READ still held as a deferred pair is not on the queue,
which does not wait at a pair (R81), and FENCE does not wait for it (DESIGN CHOICE, log 94). -/
def fenceClear (q : Qp) (o : SendOp) : Bool :=
  !dFence o.desc || q.ops.all fun p => p.idx ≥ o.idx || dOpcode p.desc ≠ 0x04 ||
    (match p.phase with | .done _ => true | _ => false)

/-- A QP may admit new work in this folio (R88, R94, R102, Table 16.7). -/
def mayAdmit (s : State) (q : Qp) : Bool :=
  q.state = .rts && !((getDom s (qpDom s q)).map (·.suspended)).getD true && !(getFn s q.fn).fenced &&
  !([q.sq, q.rq].any fun r => match r with | some r => cqBlocked s q.fn r.bind | none => false)

/-- Queued descriptors of a QP are admitted in order at a tick (R12, R58); one whose FENCE is not clear holds those behind
it. -/
def admitQp (s : State) (n : Nat) : State :=
  match getQp s n with
  | none => s
  | some q =>
    if !mayAdmit s q then s else
    let s := (q.ops.foldl (fun (acc : State × Bool) o =>
      if acc.2 || o.phase ≠ .fetched then acc else
        match getQp acc.1 n with
        | none => acc
        | some q' =>
          if q'.state ≠ .rts || !fenceClear q' o then (acc.1, true)
          else (admitChecked (noteOp acc.1 n o) n q' o, false)) (s, false)).1
    pump (finishOps 70000 s n) n

/-! ## Acknowledgement (R123, R128, R130) -/

/-- Whether an ACK covers sequence `x` (R123). -/
def ackCovers (cum : Nat) (sack : BitVec 256) (x : Nat) : Bool :=
  let d := seqDist cum x
  d ≥ 2048 || (1 ≤ d && d ≤ 256 && sack.getLsbD (d - 1))

/-- Status of a descriptor whose every segment is acknowledged (R143, R178, R192, R212). -/
def SendOp.finalStatus (o : SendOp) (folio : Nat) : Nat :=
  let past := match o.sc with | some (ta, m) => decide (ta + m + 5 ≤ folio) | none => false
  if !o.bad.isEmpty || o.poisoned then 0xA else if o.late || past then 5 else if o.overflow then 0xB else 0

/-- A descriptor with every segment cut and acknowledged is finished. -/
def settleOps (s : State) (n : Nat) : State :=
  match getQp s n with
  | none => s
  | some q =>
    let fin := q.ops.filter fun o => o.phase = .sending && [1, 2, 3].contains (dOpcode o.desc) &&
      (o.cut = segCount o.total || poisonBefore o.bad o.cut) &&
      !(q.tx.any fun t => t.op = some o.idx && !t.acked)
    let s := fin.foldl (fun s o =>
      let s := if o.finalStatus s.folio = 5 then bumpDom s (qpDom s q) 8 1 else s
      markDone s n o.idx (o.finalStatus s.folio)) s
    finishOps 70000 s n

/-- RTS to SQD completes when every segment of every descriptor admitted before has been sent and acknowledged (Table 4.5);
a collective's cells are its segments. -/
def sqdDrained (q : Qp) : Bool :=
  (q.tx.all fun t => t.acked || t.op.isNone) && q.ops.all fun o => match o.phase with
    | .fetched => true
    | .done _ => true
    | .waiting => dOpcode o.desc = 0x04
    | .sending => !o.uncut
    | _ => false

/-- The congestion estimate on an ACK's echo (R173). -/
def rateOnAck (s : State) (q : Qp) (marked total : Nat) : Qp :=
  if total = 0 then q else
    let alpha := q.alpha - (q.alpha >>> 4) + ((marked * 65536 / total) >>> 4)
    let rmin := max 1 (fld s.lat.ccCfg.inForce 16 16)
    if marked > 0 && !q.decreased then
      { q with alpha := alpha, rateR := max rmin (q.rateR - ((q.rateR * alpha) >>> 17)), decreased := true }
    else { q with alpha := alpha }

/-- Apply an ACK to the sender's QP. -/
def applyAck (s : State) (n cum : Nat) (sack : BitVec 256) (marked total : Nat) : State :=
  match getQp s n with
  | none => s
  | some q =>
    let before := oldestUnacked q
    let s := modQp s n fun q =>
      let tx := (q.tx.map fun t => { t with acked := t.acked || ackCovers cum sack t.seq }).dropWhile (·.acked)
      let q := rateOnAck s { q with tx := tx } marked total
      let q := match q.roundSeq with
        | some r => if ackCovers cum sack r then { q with rnrLeft := q.rnrMax, roundSeq := none } else q
        | none => q
      if oldestUnacked q = before then q else
        { q with
          retryLeft := q.retryMax
          timer := if q.tx.any fun t => !t.acked && t.sc.isNone then some (s.now, q.rtoUs * 16000) else none }
    pump (settleOps s n) n

/-! ## The receiver (R116 to R125) -/

/-- Sequence class of R122. -/
inductive SeqClass where
  | delivered | admitted | pending
deriving DecidableEq, Repr

def classify (q : Qp) (x : Nat) : SeqClass :=
  if seqDist q.e x ≥ 2048 || q.d.getLsbD x then .delivered
  else if q.rx.any fun r => r.seq = x then .admitted else .pending

/-- The next sequence to admit (R118). -/
def nextAdmit (q : Qp) : Nat :=
  ((List.range 2048).map fun i => (q.e + i) % 4096).find? (fun x => classify q x = .pending) |>.getD ((q.e + 2048) % 4096)

/-- The transfer's QP and segment, for placement of cells; the bytes of a raw frame simply wait for their page. -/
def Access.placing (a : Access) : Option (Nat × Nat) :=
  match a.who with
  | .place n seq => if seq < 4096 then some (n, seq) else none
  | .readPlace n seq => some (n, seq)
  | _ => none

/-- The communicator of a received result cell's write. -/
def Access.collComm (a : Access) : Option Nat := match a.who with | .collCell m _ _ _ _ _ => some m | _ => none

/-- Cells that wait for a page in stall mode, of a domain (R138). -/
def stalledUse (s : State) (dom : Nat) : Nat :=
  (s.xl.accesses.filter fun a => a.write && a.fault.isSome && !a.dropped &&
    (match a.collComm, a.placing with
     | some m, _ => ((s.col.comms.lookup m).map fun x => decide (fnDom s x.fn = some dom)).getD false
     | none, some (n, _) => ((getQp s n).map fun q => decide (qpDom s q = dom)).getD false
     | none, none => false)).length

/-- Stashed cells of a domain, over all its QPs and communicators, with those that wait there for a page (R119, R138, R245). -/
def stashUse (s : State) (dom : Nat) : Nat :=
  s.qps.foldl (fun n e => if qpDom s e.2 = dom then n + e.2.stash.length else n) 0 +
    s.col.comms.foldl (fun n e => if fnDom s e.2.fn = some dom then n + e.2.stash.length else n) 0 + stalledUse s dom

/-- Stash a cell, or discard and count it when the carrel's stash is full (R119). -/
def stashCell (s : State) (n : Nat) (q : Qp) (c : Stashed) (cls : Nat) : State :=
  let dom := qpDom s q
  let cap := ((getDom s dom).map fun d => d.cfg.stashMib * 8192).getD 0
  if stashUse s dom < cap then
    prog (modQp s n fun q => { q with stash := q.stash ++ [c] })
      { code := 0x10, source := fnSource q.fn, dom := some dom, cls := some cls, seg := none, units := 1, qp := n }
  else bumpDom s dom 10 1

/-- Missing offsets of an admitted segment, in order. -/
def missingOf (r : RxSeg) : List Nat :=
  if hPoison r.head then [] else (List.range (cdiv (hSegLen r.head) 64)).filter fun o => ¬ r.got.contains o

/-- SNAK payload for the window at `base` (Table 4.10, R125). -/
def snakFor (seq cells : Nat) (miss : List Nat) (base : Nat) : Line :=
  let tail := base + 448 < cells && (List.range (cells - (base + 448))).all fun i => miss.contains (base + 448 + i)
  let bits : BitVec 448 := miss.foldl (fun x o => if base ≤ o && o < base + 448 then x ||| (1#448 <<< (o - base)) else x) 0
  layout 512 [(0, 12, seq), (16, 16, base), (32, 16, sat 65535 miss.length), (48, 1, b2n tail)] |||
    (bits.setWidth 512 <<< 64)

def snakPayload (r : RxSeg) (miss : List Nat) (base : Nat) : Line := snakFor r.seq (cdiv (hSegLen r.head) 64) miss base

/-- SNAKs of an admitted, incomplete segment: one for each window of 448 cells with a missing cell, at most 8 (R125). -/
def sendSnaks (s : State) (n seq : Nat) : State :=
  match getQp s n with
  | none => s
  | some q =>
    match q.rx.find? fun r => r.seq = seq && !r.delivered with
    | none => s
    | some r =>
      let miss := missingOf r
      let wins := ((miss.map fun o => o / 448).eraseDups).take 8
      wins.foldl (fun s w => sendCtl s n q 0x5 seq (snakPayload r miss (448 * w))) s

/-- The RECVs a SEND segment needs, filled in ring order (R105, R106): none when the available ones do not hold it. -/
def takeRecvs : Nat → List Recv → Nat → Nat → Option (List Recv)
  | 0, _, _, need => if need = 0 then some [] else none
  | fuel + 1, rs, folio, need =>
    if need = 0 then some [] else
      match rs with
      | [] => none
      | r :: rest =>
        if r.from_ > folio then none
        else (takeRecvs fuel rest folio (need - dLength r.desc)).map (r :: ·)

/-- RECVs reserved for a head, or the NAK that refuses it: code and detail (Table 4.7 step 10). -/
def reserve (q : Qp) (folio : Nat) (h : Line) : Except (Nat × Nat) (List Recv) :=
  let avail := q.recvs.takeWhile fun r => r.from_ ≤ folio
  let posted := avail.foldl (fun n r => n + dLength r.desc) 0
  let one := match avail with | [] => Except.error (1, posted) | r :: _ => Except.ok [r]
  if hOpcode h = 0x01 then
    if hSegLen h = 0 then one
    else match takeRecvs 64 avail folio (hSegLen h) with
      | some rs => .ok rs
      | none => if avail.length ≥ 64 && (avail.take 64).foldl (fun n r => n + dLength r.desc) 0 < hSegLen h
                then .error (5, 0) else .error (1, posted)
  else if hImm h && hLastSeg h && hOpcode h ≠ 0x07 then one
  else .ok []

/-- Address in segment virtual space, context and length of each piece of bytes [64 o, 64 o + n) of an admitted
segment: the REMOTE_ADDR region, the reserved RECVs, or the READ's buffer (R105, R107, R109). -/
def targetPieces (s : State) (q : Qp) (r : RxSeg) (o n : Nat) : List (Nat × Nat × Nat) :=
  match hOpcode r.head with
  | 0x01 =>
    let lo := 64 * o
    let hi := lo + n
    (r.recvs.foldl (fun (acc : Nat × List (Nat × Nat × Nat)) v =>
      let b0 := acc.1
      let b1 := acc.1 + dLength v.desc
      let a := max lo b0
      let z := min hi b1
      if a < z then
        match regionOf s (dLocalKey v.desc) with
        | some (_, g) => (b1, acc.2 ++ [(g.ctx, dLocalAddr v.desc + (a - b0), z - a)])
        | none => (b1, acc.2 ++ [((s.regions.lookup (dLocalKey v.desc / 256)).map (·.ctx) |>.getD 0,
                                  dLocalAddr v.desc + (a - b0), z - a)])
      else (b1, acc.2)) (0, [])).2
  | 0x07 =>
    match q.ops.find? fun op => op.phase = .waiting && op.firstSeq = some (hReadSeq r.head) with
    | some op => [((s.regions.lookup (dLocalKey op.desc / 256)).map (·.ctx) |>.getD 0,
                   dLocalAddr op.desc + hSegIndex r.head * segBytes + 64 * o, n)]
    | none => []
  | _ => [((s.regions.lookup (hRemoteKey r.head / 256)).map (·.ctx) |>.getD 0, hRemoteAddr r.head + 64 * o, n)]

/-- Bytes cell `o` carries (R114). -/
def cellLen (r : RxSeg) (o : Nat) : Nat := min 64 (hSegLen r.head - 64 * o)

/-- Policy of the segment a piece lies in. -/
def resendPolicy (s : State) (ctx va : Nat) : Bool :=
  (((s.xl.ctxs.lookup ctx).bind fun c => segAt c va).map fun g => g.2.policy).getD false

/-- Context and entry of the segment that holds an address (R465). -/
def segHolding (s : State) (ctx va : Nat) : Option (Nat × Nat) :=
  ((s.xl.ctxs.lookup ctx).bind fun c => segAtAny c va).map fun g => (ctx, g.1)

/-- Write bytes of an admitted segment to their target; what meets a page that is not there follows the segment's
policy (R120, R138). -/
def placeBytes (s : State) (n : Nat) (r : RxSeg) (o : Nat) (bs : List Byte) : State :=
  match getQp s n with
  | none => s
  | some q =>
    let who := if hOpcode r.head = 0x07 then Who.readPlace n r.seq else Who.place n r.seq
    let dom := qpDom s q
    let res := (targetPieces s q r o bs.length).foldl (fun (acc : State × Nat × List Byte) p =>
      let st := prog acc.1 { code := 0x08, source := fnSource q.fn, dom := some dom, cls := some (if r.sc then 2 else 1),
                             seg := segHolding s p.1 p.2.1, units := p.2.2, qp := n, va := p.2.1 }
      let w := startWrite st who (fnSource q.fn) p.1 p.2.1 (acc.2.2.take p.2.2)
      (w.1, acc.2.1 + w.2, acc.2.2.drop p.2.2)) (s, 0, bs)
    let s := bumpDom res.1 dom 5 bs.length
    modQp s n fun q => { q with rx := q.rx.map fun x => if x.seq = r.seq then { x with writes := x.writes + res.2.1 } else x }

/-- Place a data cell of an admitted segment (R120); a sealed one is kept in staging until its tag is checked (R141). -/
def placeCell (s : State) (n seq o : Nat) (p : Line) : State :=
  match (getQp s n).bind fun q => q.rx.find? fun r => r.seq = seq with
  | none => s
  | some r =>
    if r.delivered || hPoison r.head || r.got.contains o || o ≥ cdiv (hSegLen r.head) 64 then s else
    let s := modQp s n fun q => { q with rx := q.rx.map fun x => if x.seq = seq then
      { x with got := x.got ++ [o], stagedCells := if hSealed x.head then x.stagedCells ++ [(o, p)] else x.stagedCells }
      else x }
    if hSealed r.head then copyStored s (domOf s n) (sealedCopy n seq) o (o + 1) else placeBytes s n r o ((bytesOf p).take (cellLen r o))

/-- The ACK slots of an SC flow answer for the QP (R126, R191). -/
def ackSlots (s : State) (n : Nat) : Bool :=
  s.sched.active.isSome && s.sched.expect.any fun e => e.2.qp = some n && !s.sched.voids.contains e.1

/-- Refuse a head: the NAK of Table 4.7; RNR and SUSPENDED make the receiver discard from there on and empty the stash
of that segment and later ones (R118, R119). -/
def refuse (s : State) (n code seq detail : Nat) (sc : Bool) : State :=
  let s := if sc && ackSlots s n then
      match getQp s n with
      | some q => countNak { s with sched := { s.sched with naks := tput s.sched.naks n (seq, nakPayload code seq detail) } } n q code
      | none => s
    else sendNak s n code seq detail
  if code = 1 || code = 2 then
    modQp s n fun q => { q with
      discard := some seq, stash := q.stash.filter fun c => ¬ (seqDist seq c.seq < 2048) }
  else s

/-- Bytes an opcode touches at REMOTE_ADDR. -/
def remoteLen (h : Line) : Nat := if hOpcode h = 0x04 then hMsgLen h else hSegLen h

/-- Checks 4 to 11 of Table 4.7: the NAK that refuses the head, or the RECVs it reserves. -/
def admitCheck (s : State) (q : Qp) (h : Line) : Except (Nat × Nat) (List Recv) :=
  let dom := qpDom s q
  let op := hOpcode h
  let remote := op = 0x02 || op = 0x03 || op = 0x04
  let reg := regionOf s (hRemoteKey h)
  let want := reserve q s.folio h
  let posted := (q.recvs.takeWhile fun r => r.from_ ≤ s.folio).foldl (fun n r => n + dLength r.desc) 0
  let pinnedRecvs := match want with
    | .ok rs => rs.all fun r => ((s.regions.lookup (dLocalKey r.desc / 256)).map (·.pinned)).getD false
    | .error _ => true
  if ((getDom s dom).map (·.suspended)).getD false then .error (2, 0)
  else if hSealed h ≠ q.sealed || !(q.type = 0 && [1, 2, 3, 4, 7].contains op) ||
      (op = 7 && !(q.ops.any fun o => o.phase = .waiting && o.firstSeq = some (hReadSeq h))) then .error (5, 0)
  else if op = 4 && q.reads.length ≥ q.readDepth then .error (1, posted)
  else if remote && !(match reg with | some (_, g) => fnDom s g.fn = some dom | none => false) then .error (6, 0)
  else if (remote && !(match reg with
      | some (_, g) => (if op = 4 then g.remoteRead else g.remoteWrite) && g.has (hRemoteAddr h) (remoteLen h) &&
          (!hSc h || g.pinned)
      | none => false)) || (op = 1 && hSc h && !pinnedRecvs) then .error (5, 0)
  else if op = 3 && hLastSeg h && !(match getDom s dom with
      | some d => d.cfg.trigBase ≤ hTrigCounter h && hTrigCounter h < d.cfg.trigBase + d.cfg.trigCount
      | none => false) then .error (5, 0)
  else match want with
    | .ok rs => if hSealed h && transportRoom s dom < hSegLen h then .error (1, posted) else .ok rs
    | .error e => .error e

/-- Admit the head of the next sequence, place its stashed cells, and go on with a stashed head behind it (R116 to
R120). -/
def admitHead : Nat → State → Nat → Nat → Line → Bool → State
  | 0, s, _, _, _, _ => s
  | fuel + 1, s, n, seq, h, sc =>
    match getQp s n with
    | none => s
    | some q =>
      match admitCheck s q h with
      | .error (code, detail) => refuse s n code seq detail sc
      | .ok rs =>
        let seg : RxSeg :=
          { seq := seq, head := h, got := [], recvs := rs, stagedCells := [], writes := 0,
            delivered := false, opening := false, opened := false, paSent := [], lost := false, sc := sc }
        let mine := sortBy (fun a b => a.offset ≤ b.offset) (q.stash.filter fun c => c.seq = seq && !c.head)
        let s := modQp s n fun q => { q with
          rx := q.rx ++ [seg], recvs := q.recvs.drop rs.length
          discard := if q.discard = some seq then none else q.discard
          stash := q.stash.filter fun c => c.seq ≠ seq }
        let dom := qpDom s q
        let first := (targetPieces s q seg 0 1).head?
        let s := prog s { code := 0x07, source := fnSource q.fn, dom := some dom, cls := some (if sc then 2 else 1),
                          seg := first.bind fun p => segHolding s p.1 p.2.1, units := 1, qp := n
                          va := (first.map (·.2.1)).getD 0 }
        let s := mine.foldl (fun s c => placeCell s n seq c.offset c.payload) s
        match (getQp s n).bind fun q => (q.stash.find? fun c => c.head && c.seq = nextAdmit q).map fun c => (q, c) with
        | none => s
        | some (q, c) =>
          admitHead fuel (modQp s n fun q => { q with stash := q.stash.filter fun x => x ≠ c }) n (nextAdmit q) (setFld c.payload 11 1 0) c.sc

/-- The READ request of a delivered head that is not being served any more is served again from memory (R110). -/
def readAgain (s : State) (n seq : Nat) (h : Line) : State :=
  match getQp s n with
  | none => s
  | some q =>
    if hOpcode h ≠ 4 || (q.reads.any fun r => r.seq = seq) || (q.rx.any fun r => r.seq = seq) then s
    else match admitCheck s q (setFld h 11 1 0) with
      | .error _ => s
      | .ok _ =>
        let (p, s) := draw s 3
        respPump 4096 (modQp s n fun q => { q with reads := q.reads ++
          [{ seq := seq, addr := hRemoteAddr h, len := hMsgLen h, key := hRemoteKey h, prio := p.toNat, staged := [], toRead := 0,
             started := false, cut := 0, bad := [] }] }) n

/-- A head cell of a live QP from its peer (Table 4.7 from step 3, R129). -/
def headCell (s : State) (n : Nat) (c : Cell) : State :=
  match getQp s n with
  | none => s
  | some q =>
    let x := cSeq c
    let h := c.payload
    match classify q x with
    | .delivered => readAgain (if cClass c = 1 && ackSlots s n then s else oweAck s n) n x h
    | .admitted => if hRetx h && cClass c = 0 then sendSnaks s n x else s
    | .pending =>
      if (match q.discard with | some b => seqDist b x < 2048 && x ≠ b | none => false) then s
      else if x ≠ nextAdmit q then
        stashCell s n q ⟨x, cClass c = 1, true, 0, h, s.folio⟩ (if cClass c = 1 then 2 else 1)
      else
        let s := admitHead 2050 s n x (setFld h 11 1 0) (cClass c = 1)
        if hRetx h && cClass c = 0 then sendSnaks s n x else s

/-- Echo counts of an arriving EC data cell (R172). -/
def echoCount (s : State) (n : Nat) (c : Cell) : State :=
  if cClass c = 1 then s else
    let s := modQp s n fun q =>
      let m := q.marked + b2n (cMark c)
      let t := q.total + 1
      { q with marked := if t ≥ 65535 then m / 2 else m, total := if t ≥ 65535 then t / 2 else t, ecCells := (q.ecCells + 1) % 4096 }
    if ((getQp s n).map fun q => decide (q.ecCells = 0)).getD false then oweAck s n else s

/-- A data cell of a live QP from its peer (R118 to R122). -/
def dataCell (s : State) (n : Nat) (c : Cell) : State :=
  match getQp s n with
  | none => s
  | some q =>
    let s := echoCount s n c
    match classify q (cSeq c) with
    | .delivered => s
    | .admitted => placeCell s n (cSeq c) (cOff c) c.payload
    | .pending =>
      if (match q.discard with | some b => decide (seqDist b (cSeq c) < 2048) | none => false) then s
      else stashCell s n q ⟨cSeq c, cClass c = 1, false, cOff c, c.payload, s.folio⟩ (if cClass c = 1 then 2 else 1)

/-! ## Segment completion (R111, R121) -/

/-- Bytes placed in each reserved RECV of a segment (R105). -/
def recvFill : List Recv → Nat → List (Line × Nat)
  | [], _ => []
  | r :: rs, left => (r.desc, min left (dLength r.desc)) :: recvFill rs (left - dLength r.desc)

/-- Release the receive completions of a message whose last segment has just been delivered in order (R111, R143). -/
def releaseMessage (s : State) (n seq : Nat) (h : Line) : State :=
  match getQp s n with
  | none => s
  | some q =>
    let s := modQp s n fun q => { q with held := [] }
    let total := q.held.length
    q.held.zipIdx.foldl (fun s e =>
      let hd := e.1.1
      let lost := e.1.2.1
      let rs := e.1.2.2
      rs.zipIdx.foldl (fun s r =>
        let lastRec := r.2 + 1 = rs.length
        let imm := lastRec && e.2 + 1 = total && hImm h && !hPoison h
        recvRecord s n q r.1.1 lastRec imm (hSolicit h) (if hPoison hd then 0xA else if lost then 6 else 0)
          (if hPoison hd || lost then 0 else r.1.2)
          (if imm then hImmData h else 0) seq) s) s

/-- A delivered segment takes effect in sequence order: records, trigger, READ progress (R107 to R111). The priority of a READ's
response cells is a free value: no descriptor at the responder gives one (log 6). -/
def releaseSeg (s : State) (n : Nat) (r : RxSeg) : State :=
  match getQp s n with
  | none => s
  | some q =>
    let h := r.head
    match hOpcode h with
    | 0x04 =>
      let (p, s) := draw s 3
      modQp s n fun q => { q with reads := q.reads ++
        [{ seq := r.seq, addr := hRemoteAddr h, len := hMsgLen h, key := hRemoteKey h, prio := p.toNat, staged := [], toRead := 0,
           started := false, cut := 0, bad := [] }] }
    | 0x07 =>
      match q.ops.find? fun o => o.phase = .waiting && o.firstSeq = some (hReadSeq h) with
      | none => s
      | some o =>
        let s := modOp s n o.idx fun o => { o with
          bytes := if hPoison h then o.bytes else o.bytes + hSegLen h, respDone := o.respDone + 1 }
        if hLastSeg h then doneOp s n o.idx (if hPoison h then 0xA else 0) else s
    | _ =>
      let fill := if hOpcode h = 0x01 then recvFill r.recvs (hSegLen h) else r.recvs.map fun v => (v.desc, 0)
      let s := modQp s n fun q => { q with held := q.held ++ [(h, r.lost, fill)] }
      if !hLastSeg h then s else
        let s := releaseMessage s n r.seq h
        if hOpcode h = 0x03 && !hPoison h then trigAdd s (hTrigCounter h) (hTrigAdd h) else s

/-- Advance E over delivered sequences, releasing each (R122). -/
def advanceE : Nat → State → Nat → State
  | 0, s, _ => s
  | fuel + 1, s, n =>
    match getQp s n with
    | none => s
    | some q =>
      if !q.d.getLsbD q.e then s else
        let r := q.rx.find? fun r => r.seq = q.e
        let s := modQp s n fun q => { q with
          d := q.d &&& ~~~ (1#4096 <<< ((q.e + 2048) % 4096)), e := (q.e + 1) % 4096, eN := q.eN + 1
          rx := q.rx.filter fun x => x.seq ≠ q.e }
        advanceE fuel (match r with | some r => releaseSeg s n r | none => s) n

/-- Every byte of an admitted segment is there and visible. -/
def segWhole (r : RxSeg) : Bool := !r.delivered && missingOf r = [] && r.writes = 0

/-- A sealed segment is decrypted once it is whole; the plaintext then moves to the target, or the segment is discarded: its
RECVs go back to their places (R141). -/
def openSealed (s : State) (n : Nat) (q : Qp) (r : RxSeg) : State :=
  let len := if hPoison r.head then 0 else hSegLen r.head
  let ct := (((sortBy (fun a b => a.1 ≤ b.1) r.stagedCells).flatMap fun c => bytesOf c.2)).take len
  let nn := q.eN + seqDist q.e r.seq
  match gcmOpen (slotKey s q.rxSlot) (sealIv q.salt nn) (sealAad r.head) ct (leBytes 16 (hTag r.head)) with
  | none =>
    let s := modQp s n fun q => { q with
      recvs := sortBy (fun a b => a.idx ≤ b.idx) (r.recvs ++ q.recvs), rx := q.rx.filter fun x => x.seq ≠ r.seq }
    enterError (sendNak s n 6 r.seq) n none 0xC 3 true
  | some pt =>
    let s := modQp s n fun q => { q with rx := q.rx.map fun x => if x.seq = r.seq then { x with opened := true, stagedCells := [] } else x }
    placeBytes s n r 0 pt

/-- A whole segment is delivered and acknowledged (R121); an SC one in its flow's ACK slots (R126). -/
def deliverSeg (s : State) (n seq : Nat) : State :=
  let s := modQp s n fun q => { q with
    d := q.d ||| (1#4096 <<< seq), rx := q.rx.map fun x => if x.seq = seq then { x with delivered := true } else x }
  let s := match getQp s n with | some q => bumpDom s (qpDom s q) 4 1 | none => s
  let sc := ((getQp s n).bind fun q => (q.rx.find? fun r => r.seq = seq).map (·.sc)).getD false
  let s := advanceE 4096 s n
  respPump 4096 (if sc && ackSlots s n then s else oweAck s n) n

/-- The opening job of a sealed segment has ended: once its plaintext is in place the segment is delivered (R141, R288). -/
def sealOpened (s : State) (n seq : Nat) : State :=
  match (getQp s n).bind fun q => (q.rx.find? fun r => r.seq = seq).map fun r => (q, r) with
  | none => s
  | some (q, r) =>
    let s := openSealed s n q r
    match (getQp s n).bind fun q => q.rx.find? fun r => r.seq = seq with
    | some r => if r.opened && r.writes = 0 then deliverSeg s n seq else s
    | none => s

/-- The sealing job of a segment has ended: its tag and ciphertext stand, and its cells can leave (R140, R288). -/
def sealDone (s : State) (n seq : Nat) : State :=
  match getQp s n with
  | none => s
  | some q => modQp s n fun q' => { q' with tx := q'.tx.map fun t =>
      if t.seq = seq && t.sealing then
        let r := sealSeg s q (q.txN - seqDist t.seq q.txSeq) t.head t.data
        { t with head := r.1, data := r.2, sealing := false }
      else t }

/-- The last byte of a segment becomes visible (R121): it is delivered, or, sealed, its opening job is asked for (R288). -/
def completeSeg (s : State) (n seq : Nat) : State :=
  match getQp s n with
  | none => s
  | some q =>
    match q.rx.find? fun r => r.seq = seq with
    | none => s
    | some r =>
      if q.state = .error || !segWhole r then s
      else if hSealed r.head && !r.opened then
        modQp s n fun q => { q with rx := q.rx.map fun x => if x.seq = seq then { x with opening := true } else x }
      else deliverSeg s n seq

/-! ## NAK, SNAK (R124, R125, R130) -/

/-- Status a final NAK gives (Table 4.9). -/
def nakStatus (code : Nat) : Nat :=
  match code with
  | 1 => 1 | 2 => 7 | 4 => 4 | 5 => 2 | 6 => 0xC | 7 => 0xD | 8 => 2 | _ => 0

/-- A final NAK: the descriptor of SEQ, or else the oldest one, takes the status; ERROR without notices (R124, R145). -/
def finalNak (s : State) (n : Nat) (q : Qp) (code seq : Nat) : State :=
  let owner := (q.tx.find? fun t => t.seq = seq && !t.acked).map (·.op)
  let oldest := (q.ops.find? fun o => match o.phase with | .done _ => false | _ => true).map (·.idx)
  let victim := match owner with | some o => o | none => oldest
  enterError s n victim (nakStatus code) 2 false

/-- An RNR or SUSPENDED NAK (R130). -/
def rnrNak (s : State) (n : Nat) (q : Qp) (code seq : Nat) : State :=
  if !(q.tx.any fun t => t.seq = seq && !t.acked) then s
  else match q.round with
    | some (r, k) =>
    let from_ := if seqDist seq r < 2048 then seq else r
    modQp s n fun q => { q with round := some (from_, k), roundSeq := some from_ }
    | none =>
      if q.rnrMax ≠ 7 && q.rnrLeft = 0 then finalNak s n q code seq
      else modQp s n fun q => { q with
        rnrLeft := if q.rnrMax = 7 then q.rnrLeft else q.rnrLeft - 1, round := some (seq, s.folio + q.rnrDelay), roundSeq := some seq }

/-- Apply a NAK to the sender's QP (R124). -/
def applyNak (s : State) (n code seq : Nat) : State :=
  match getQp s n with
  | none => s
  | some q =>
    match code with
    | 1 => rnrNak s n q 1 seq
    | 2 => rnrNak s n q 2 seq
    | 3 => modQp s n fun q => { q with paWaits := q.paWaits ++ [(seq, s.folio + q.rnrDelay)] }
    | 4 => finalNak s n q 4 seq
    | 5 => finalNak s n q 5 seq
    | 6 => finalNak s n q 6 seq
    | 7 => finalNak s n q 7 seq
    | 8 => finalNak s n q 8 seq
    | _ => s

/-- Cells a SNAK names in a segment of `cells` data cells (R125). -/
def snakCells (p : Line) (cells : Nat) : List Nat :=
  let base := dfld p 2 0 16
  (List.range cells).filter fun o =>
    (base ≤ o && o < base + 448 && bitAt p (64 + (o - base))) || (dbit p 6 0 && base + 448 ≤ o)

/-- Apply a SNAK. For an SC segment a listing of a cell re-sent less than LAG_F + LAG_R + ACK_GAP slots earlier is
ignored (R191; `resent` holds GTC stamps, a slot is 6 units). Else the listed cells go again, the timer reopens and the budget is restored (R125, R128). A round that
re-sends the segment takes precedence (Table 4.12). -/
def applySnak (s : State) (n : Nat) (p : Line) (now : Gtc) : State :=
  let seq := dfld p 0 0 12
  let gap (f : Nat) : Nat := match (activeSet s).bind fun g => g.flows.find? fun x => x.num = f with
    | some x => x.lagF + x.lagR + x.ackGap
    | none => 0
  if ((getQp s n).map fun q => q.tx.any fun t => t.seq = seq && t.sc.isSome).getD false then
    modQp s n fun q => { q with tx := q.tx.map fun t =>
      if t.seq = seq && !t.acked then
        let again := ((snakCells p t.cells).map (· + 1)).filter fun i => i < t.next && ¬ t.again.contains i &&
          !(match t.resent.lookup i with | some g => decide (now < g + 6 * gap (t.sc.getD 0)) | none => false)
        { t with again := t.again ++ again }
      else t }
  else
  modQp s n fun q =>
    if (match q.round with | some (r, _) => decide (seqDist r seq < 2048) | none => false) then q else
    { q with
      tx := q.tx.map fun t => if t.seq = seq && !t.acked then
        { t with again := t.again ++ ((snakCells p t.cells).map (· + 1)).filter fun i => i < t.next && ¬ t.again.contains i } else t
      timer := if q.tx.any fun t => !t.acked && t.sc.isNone then some (now, q.rtoUs * 16000) else q.timer
      retryLeft := q.retryMax }

/-- Send the head of a segment as a probe (R128). -/
def probeSeg (s : State) (n : Nat) (q : Qp) (t : TxSeg) : State := pushCtl s (qpMac s q) n (segCell s q t 0 true)

end Sys2Proof.Machine
end

