-- ==== Sys2Proof/Machine/Members.lean ====
section
/-! DEFINITION. Members.lean: communicators, the places of their members, and the images of a collective (R205, R227, R229,
R231). -/

namespace Sys2Proof.Machine

/-! ## The lattice (R148, R150) -/

def dimX (s : State) : Nat := fld s.lat.cfg 0 5 + 1
def dimY (s : State) : Nat := fld s.lat.cfg 5 5 + 1
def myX (s : State) : Nat := fld s.lat.cfg 10 5
def myY (s : State) : Nat := fld s.lat.cfg 15 5

/-! ## Communicators (R227, R229) -/

def getComm (s : State) (c : Nat) : Option Comm := s.col.comms.lookup c
def modComm (s : State) (c : Nat) (f : Comm → Comm) : State := { s with col := { s.col with comms := tupd s.col.comms c f } }
def modColl (s : State) (c idx : Nat) (f : Coll → Coll) : State :=
  modComm s c fun m => { m with run := m.run.map fun r => if r.idx = idx then f r else r }

/-- Columns and rows of the member rectangle. -/
def Comm.cols (m : Comm) : Nat := if m.isList then m.coords.length else m.xc
def Comm.rows (m : Comm) : Nat := if m.isList then 1 else m.yc
def Comm.size (m : Comm) : Nat := m.cols * m.rows

/-- Coordinate of a rank, y * 32 + x. -/
def rankCoord (s : State) (m : Comm) (r : Nat) : Nat :=
  if m.isList then lget m.coords r 0
  else (m.y0 + r / max 1 m.cols) % dimY s * 32 + (m.x0 + r % max 1 m.cols) % dimX s

/-- Rank of a coordinate. -/
def coordRank (s : State) (m : Comm) (c : Nat) : Option Nat := (List.range m.size).find? fun r => rankCoord s m r = c

/-- This adapter's rank, column and row. -/
def myRank (s : State) (m : Comm) : Nat := (coordRank s m (myCoord s)).getD 0

/-! ## A collective and its images (R205, Table 8.6) -/

/-- The operation of a collective. -/
def Coll.op (c : Coll) : Nat := dOpcode c.desc
def Coll.seq (c : Coll) : Nat := dCollSeq c.desc
def Coll.reduces (c : Coll) : Bool := [0x10, 0x11, 0x12].contains c.op
def Coll.gathers (c : Coll) : Bool := [0x13, 0x14].contains c.op
def Coll.isMax (c : Coll) : Bool := c.op = 0x11
def Coll.count (c : Coll) : Nat := dCount c.desc

/-- A format used where none is named: the check of R206 has passed. -/
def Fmt.byte : Fmt := ⟨8, 0, 7, true, true⟩
def Coll.sf (c : Coll) : Fmt := (fmtOf (dSrcFmt c.desc)).getD Fmt.byte
def Coll.df (c : Coll) : Fmt := (fmtOf (dDstFmt c.desc)).getD Fmt.byte

/-- Elements of the source image. -/
def srcCount (m : Comm) (c : Coll) : Nat := if c.op = 0x12 then m.size * c.count else c.count

/-- Length of the DST image (Table 8.6). -/
def dstLen (m : Comm) (c : Coll) : Nat :=
  if c.reduces then c.df.lenImage c.count
  else if c.op = 0x13 then m.size * c.sf.lenImage c.count
  else if c.op = 0x14 then c.sf.lenImage c.count
  else 0

/-- Length of the SRC image at this member. -/
def srcLen (m : Comm) (c : Coll) (me : Nat) : Nat :=
  if c.reduces then c.sf.lenImage (srcCount m c)
  else if c.op = 0x13 || (c.op = 0x14 && dRoot c.desc = me) then c.sf.lenImage c.count
  else 0

/-- A stream of stages 0, 3, 4, 7 and 8 goes along a row of the members, one of 1, 2, 5, 6 and 9 along a column: whether one of
stage `st` can come from rank `src` to rank `me` at all (Tables 8.5, 8.6, R235). -/
def stagePath (m : Comm) (st src me : Nat) : Bool :=
  let w := max 1 m.cols
  src ≠ me && (if [0, 3, 4, 7, 8].contains st then decide (src / w = me / w)
    else if [1, 2, 5, 6, 9].contains st then decide (src % w = me % w) else true)

/-- Every cell of a stream has arrived and, where it is written, its write is visible. -/
def RxStream.whole (x : RxStream) : Bool := x.got.length = x.cells && x.writes = 0

/-- A stream in EC work: it never was on a flow, or has left it. -/
def TxStream.ec (t : TxStream) : Bool := t.flow.isNone || t.asEc

/-- Some receiver has not acknowledged it; a cast passed on is its sender's to have acknowledged. -/
def TxStream.unacked (t : TxStream) : Bool := t.relayOf.isNone && t.dests.any fun p => !t.acked.contains p

/-- The COLL_SEQ whose lowest byte is `q8` lies behind: it has been admitted and is no longer running. -/
def Comm.passed (m : Comm) (q8 : Nat) : Bool := m.begun && (m.nextSeq + 256 - 1 - q8) % 256 < 128

/-- Change the streams of every collective. -/
def mapTx (s : State) (f : TxStream → TxStream) : State :=
  { s with col := { s.col with comms := tmap s.col.comms fun _ m => { m with run := m.run.map fun c => { c with tx := c.tx.map f } } } }

/-- A collective descriptor about to start. -/
def Coll.start (idx : Nat) (d : Line) : Coll :=
  { idx := idx, desc := d, granted := 0, waits := none, staged := [], tx := [], rx := [], began := [], acc := [], rounded := [], ended := [],
    writes := 0, poison := false, overflow := false, missed := false, timer := none, retryLeft := 0, rnr := [], rnrOf := none }

/-- A key of a local image that has passed the check made as its descriptor was fetched (R133): it stands for its region even
after an invalidation (R135). -/
def keyCovers (s : State) (fn key va len : Nat) (write : Bool) : Bool :=
  match s.regions.lookup (key / 256) with
  | some r => r.gen = key % 256 && r.fn = fn && r.has va len && (!write || r.localWrite)
  | none => false

/-- The keys of a collective cover its images: `ok key va len write` tests one of them (R205, R231). -/
def imagesOk (s : State) (m : Comm) (d : Line) (ok : Nat → Nat → Nat → Bool → Bool) : Bool :=
  let c := Coll.start 0 d
  let me := myRank s m
  (srcLen m c me = 0 || ok (dLocalKey d) (dLocalAddr d) (srcLen m c me) false) &&
  (dstLen m c = 0 || ok (dRemoteKey d) (dRemoteAddr d) (dstLen m c) true)

end Sys2Proof.Machine
end

