-- ==== Sys2Proof/Machine/Rings.lean ====
section
/-! DEFINITION. Rings.lean: doorbells, descriptor fetch, ring management, moderation and the journal (R63 to R96): the
operations and the meaning of each of their commands. -/

namespace Sys2Proof.Machine

open Host (Outcome)

/-- The ring a function's doorbell number names (R66, R526). -/
def ringByBell (s : State) (fn num : Nat) : Option RingRef :=
  if num = 0 then some (.ctlSq fn)
  else if num = 1 then some (.ctlCq fn)
  else if fn = 0 && num = 2 then some .mgrSq
  else if fn = 0 && num = 3 then some .mgrCq
  else
    match s.qps.findSome? fun e =>
      if e.2.fn ≠ fn then none
      else if (e.2.sq.map (·.bell)) = some num then some (RingRef.sq e.1)
      else if (e.2.rq.map (·.bell)) = some num then some (RingRef.rq e.1) else none with
    | some r => some r
    | none =>
      match (tget s.cqs fn []).find? fun q => q.bell = num with
      | some q => some (.cq fn q.num)
      | none => if ((getFn s fn).eq.map (·.bell)) = some num then some (.eq fn) else none

/-- The function of a ring. -/
def refFn (s : State) : RingRef → Nat
  | .ctlSq fn => fn
  | .ctlCq fn => fn
  | .mgrSq => 0
  | .mgrCq => 0
  | .sq qp => ((getQp s qp).map (·.fn)).getD 0
  | .rq qp => ((getQp s qp).map (·.fn)).getD 0
  | .cq fn _ => fn
  | .eq fn => fn

/-- OBJECT of DOORBELL_AHEAD (Table 3.13); 0 for a control SQ and the manager ring, which have neither a QP nor a CQ number
(DESIGN CHOICE, log 94). -/
def refObject : RingRef → Nat
  | .sq qp => qp
  | .rq qp => qp
  | .cq _ num => num
  | _ => 0

/-- A doorbell that is ignored and counted (R69, R70, R423). -/
def badBell (s : State) (fn : Nat) : State :=
  bump (modFn s fn fun f => { f with badBells := f.badBells + 1 }) (cxlCnt 15) 1

/-- A producer doorbell on a descriptor ring (R69). -/
def producerBell (s : State) (fn num : Nat) (ref : RingRef) (r : Ring) (index : Nat) : State :=
  if !r.enabled then badBell s fn
  else if sub32 index r.pDev ≥ 2 ^ 31 then s
  else if sub32 index r.cDev > 2 ^ r.log2 then
    bump (postEvent s fn 0x02 (fnSource fn) (carrelField ((fnDom s fn).getD 64)) num
      (evData [(20, 32, index), (24, 32, r.cDev), (28, 8, 0)])) (devCnt 15) 1
  else
    let s := modRing s ref fun r => { r with pDev := index % 2 ^ 32, stopped := false,
                                             linkStop := if num = 0 && !s.cxl.lost then false else r.linkStop }
    let s := if num = 0 && !s.cxl.lost then modCq s (.ctlCq fn) fun q => { q with journalled := false } else s
    startFetch s ref

/-- A completion ring takes doorbells: a control or manager CQ while its ring is enabled (R65, R530). -/
def bellOpen (s : State) : RingRef → Bool
  | .ctlCq fn => (getFn s fn).ctlSq.enabled
  | .mgrCq => s.mgrSq.enabled
  | _ => true

/-- A consumer doorbell on a completion or event ring, arming it with KIND 2 (R69, R92). Control and manager CQs raise an
interrupt per completion and are armed as the others are (DESIGN CHOICE, log 94). -/
def consumerBell (s : State) (fn num : Nat) (ref : RingRef) (q : CqRing) (index : Nat) (arm : Bool) : State :=
  if !bellOpen s ref then badBell s fn
  else if sub32 index q.cIdx ≥ 2 ^ 31 then s
  else if sub32 index q.cIdx > sub32 q.pIdx q.cIdx then
    bump (postEvent s fn 0x02 (fnSource fn) (carrelField ((fnDom s fn).getD 64)) num
      (evData [(20, 32, index), (24, 32, q.pIdx), (28, 8, if arm then 2 else 1)])) (devCnt 15) 1
  else
    let s := drainHeld (modCq s ref fun q => { q with cIdx := index % 2 ^ 32 }) ref
    if !arm then s else
      modCq s ref fun q => { q with armed := true, since := 0, winFolio := none, raiseAt := if q.pIdx = q.cIdx then none else some (s.now + 1) }

/-- A doorbell of one function, by whichever route it came (R69 to R73, R423). -/
def doorbell (s : State) (fn num kind index : Nat) : State :=
  if fn ≠ 0 && (getFn s fn).state ≠ .enabled then badBell s fn
  else
    let ok := bump s (cxlCnt 14) 1
    let ok := prog ok { code := 0x0E, source := fnSource fn, dom := fnDom s fn, cls := none, seg := none, units := 1 }
    match ringByBell s fn num with
    | none => badBell s fn
    | some ref =>
      match getRing s ref, getCq s ref with
      | some r, _ => if kind = 0 then producerBell ok fn num ref r index else badBell s fn
      | none, some q =>
        if kind = 1 || kind = 2 then consumerBell ok fn num ref q index (kind = 2) else badBell s fn
      | none, none => badBell s fn

/-- Shadow lines watched: function, doorbell number, physical byte (R71). -/
def shadowLines (s : State) : List (Nat × Nat × Nat) :=
  let ring (r : Ring) : List (Nat × Nat × Nat) := match r.shadow with | some p => [(r.fn, r.bell, p)] | none => []
  let cqr (q : CqRing) : List (Nat × Nat × Nat) := match q.shadow with | some p => [(q.fn, q.bell, p)] | none => []
  (s.qps.flatMap fun e => (e.2.sq.toList ++ e.2.rq.toList).flatMap ring) ++
    (s.cqs.flatMap fun e => e.2.flatMap cqr) ++ (s.fns.flatMap fun e => e.2.eq.toList.flatMap cqr)

/-- The write of the run [a, a + n) to HBM seen by one shadow line: a doorbell where it holds the 8 bytes, ignored and
counted where it holds a part of them (R70, R71). -/
def shadowWrite (s : State) (a n : Nat) (x : Nat × Nat × Nat) : State :=
  if a ≤ x.2.2 && x.2.2 + 8 ≤ a + n then
    let v := natOf (rdPhys s x.2.2 8)
    doorbell s x.1 x.2.1 (v / 2 ^ 32 % 256) (v % 2 ^ 32)
  else if a < x.2.2 + 8 && x.2.2 < a + n then badBell s x.1 else s

/-- What the host has written over CXL.mem, or the transport has placed, is taken as doorbells where it lies on a shadow line
(R71); no other write is one (R314, R391). -/
def shadowPump (s : State) : State :=
  if s.cyc.placed.isEmpty then s
  else s.cyc.placed.foldl (fun s p => (shadowLines s).foldl (fun s x => shadowWrite s p.1 p.2 x) s)
    (modCyc s fun c => { c with placed := [] })

/-! ## Fetch (R74 to R76) -/

/-- Opcodes of the manager commands of this part. -/
def mgrOpcodes : List Nat :=
  [0x80, 0x81, 0x82, 0x83, 0x84, 0x85, 0x86, 0x87, 0x88, 0x90, 0x91, 0x92, 0x93, 0x94, 0x98, 0x99, 0x9A, 0x9B, 0x9C, 0x9D] ++
  [0xA0, 0xA1, 0xA2, 0xB0, 0xB1, 0xB2, 0xB3, 0xB4, 0xB5, 0xB8, 0xC0, 0xC1, 0xC2, 0xD0, 0xD1, 0xD2, 0xE0, 0xE2, 0xE3] ++
  [0xF0, 0xF4, 0xF5, 0xF6, 0xF7, 0xF8, 0xF9, 0xFA]

/-- Work opcodes of a QP type (Table 3.6). -/
def workOpcodes (type : Nat) : List Nat :=
  if type = 0 then [1, 2, 3, 4] else if type = 1 then [5] else [0x10, 0x11, 0x12, 0x13, 0x14, 0x15]

/-- A zero LENGTH is valid only with IMM on SEND, WRITE and WRITE_TRIG (R77). -/
def lengthOk (d : Line) : Bool :=
  !([1, 2, 3, 4, 5].contains (dOpcode d)) || dLength d ≠ 0 || ([1, 2, 3].contains (dOpcode d) && dImm d)

/-- Format fields that are used name a format (R206), and a reduction's destination is no per-tensor format (R220). -/
def formatsOk (d : Line) : Bool :=
  let op := dOpcode d
  let coll := 0x10 ≤ op && op ≤ 0x14
  let fmtStage := [1, 2, 3, 4, 5].contains op && (chainStages d).contains 1
  !((coll || fmtStage) && (dSrcFmt d = 0xF || dDstFmt d = 0xF)) &&
  !([0x10, 0x11, 0x12].contains op && [0x7, 0x8, 0xB, 0xC].contains (dDstFmt d))

/-- The descriptor's opcode is valid on its ring (R76, R80): `after` says it is the second slot of a pair. -/
def opcodeOk (s : State) (ref : RingRef) (after : Bool) (d : Line) : Bool :=
  match ref with
  | .ctlSq _ => [0x40, 0x41, 0x42].contains (dOpcode d)
  | .mgrSq => mgrOpcodes.contains (dOpcode d)
  | .sq qp =>
    match getQp s qp with
    | some q => (if after then (workOpcodes q.type).contains (dOpcode d)
                 else (workOpcodes q.type ++ [0, 0x20]).contains (dOpcode d)) && lengthOk d && formatsOk d
    | none => false
  | .rq qp =>
    match getQp s qp with
    | some q => dOpcode d = (if q.type = 1 then 9 else 8)
    | none => false
  | _ => false

/-- A descriptor at C_dev moves its QP to ERROR as its fetch ends: it takes its place behind those accepted before it; a pair
is known by its TRIGGERED slot (R76, R80, R144). `status` QP_FLUSHED is that of R76. -/
def badFetch (s : State) (ref : RingRef) (n : Nat) (sq : Bool) (d : Line) (status cause : Nat) : State :=
  match getRing s ref with
  | some r =>
    let before := if pairOpen r then r.handed.dropLast else r.handed
    let d := if pairOpen r then (r.handed.reverse.head?).getD d else d
    enterError (modRing s ref fun r => { r with handed := [] }) n none status cause true (some ⟨sq, d, status, handedWork before⟩)
  | none => s

/-- An invalid or poisoned descriptor (R76). Of a poisoned one `d` is a drawn line (log 6): the record's OPCODE is free, and its
WR_ID is 0 on the control and manager rings and free on an SQ or RQ. -/
def invalidDescriptor (s : State) (ref : RingRef) (d : Line) (poisoned : Bool) : State :=
  let wr := if poisoned then 0 else dWrId d
  match ref with
  | .sq qp => badFetch s ref qp true d 8 1
  | .rq qp => badFetch s ref qp false d 8 1
  | .ctlSq fn =>
    complete s (.ctlCq fn) (complRec wr s.now (fnSource fn) true false false 0xC (dOpcode d) 6 0 0 0)
  | _ => complete s .mgrCq (complRec wr s.now 0x3FF true false false 0xC (dOpcode d) 3 0 0 0)

/-- A descriptor of a QP in ERROR is fetched to be flushed (R144). -/
def flushFetched (s : State) (ref : RingRef) (r : Ring) (d : Line) : State :=
  if pairOpen r then modRing s ref fun r => { r with handed := [] }
  else
    let s := if dOpcode d = 0x20 then modRing s ref fun r => { r with handed := [d] } else s
    match ref with
    | .sq qp => match getQp s qp with | some q => sendRecord s qp q (dWrId d) (dOpcode d) 8 0 0 | none => s
    | .rq qp => match getQp s qp with | some q => recvRecord s qp q d false false false 8 0 0 0 | none => s
    | _ => s

/-- A pair waits at its first slot while P_dev covers only that slot, or while the deferred pool is full (R80, R81). -/
def pairWaits (s : State) (r : Ring) (d : Line) : Bool :=
  dOpcode d = 0x20 && !pairOpen r && (sub32 r.pDev r.cDev < 2 || poolFull s (fnDom s r.fn))

/-- A fetch has returned `d` for the slot at C_dev (R67, R74): accepted, and results of other reads of the slot discarded; or a
mismatch, which opens the window of R74. A pair that must wait is not taken and leaves no window open (R80). -/
def fetchResult (s : State) (ref : RingRef) (r : Ring) (d : Line) (poison : Bool) : State :=
  let lap := ((r.cDev >>> r.log2) + 1) % 65536
  if !poison && dLap d = lap then
    let s := modRing (dropFetches s ref) ref fun r => { r with window := none, refetches := 0, lastPoison := false }
    let inError : Bool := match ref with
      | .sq qp => ((getQp s qp).map fun q => decide (q.state = .error)).getD false
      | .rq qp => ((getQp s qp).map fun q => decide (q.state = .error)).getD false
      | _ => false
    if !inError && pairWaits s r d then s else
    let s := modRing s ref fun r => { r with cDev := (r.cDev + 1) % 2 ^ 32 }
    startFetch (if inError then flushFetched s ref r d
      else if opcodeOk s ref (pairOpen r) d then modRing s ref fun r => { r with handed := r.handed ++ [d] }
      else invalidDescriptor s ref d false) ref
  else
    modRing s ref fun r => { r with
      window := if r.window.isSome then r.window else some s.now
      refetches := if r.window.isSome then r.refetches else 0, lastPoison := poison, lapFound := dLap d }

/-- The read of a slot has failed: the descriptor there is not known. On a control or manager ring it completes with the
status, and the ring goes on; a QP enters ERROR (R389, R395, Table 15.6; log 108). -/
def fetchFail (s : State) (ref : RingRef) (st : Nat) : State :=
  let (d, s) := draw (dropFetches s ref) 512
  let s := modRing s ref fun r => { r with cDev := (r.cDev + 1) % 2 ^ 32, window := none, refetches := 0, lastPoison := false }
  startFetch (match ref with
    | .sq qp => badFetch s ref qp true d st 3
    | .rq qp => badFetch s ref qp false d st 3
    | .ctlSq fn => complete s (.ctlCq fn) (complRec 0 s.now (fnSource fn) true false false st (dOpcode d) 0 0 0 0)
    | _ => complete s .mgrCq (complRec 0 s.now 0x3FF true false false st (dOpcode d) 0 0 0 0)) ref

/-- A read of a slot has ended (R74, R389, R395): its result counts unless it was to be discarded or the ring has stopped. A
control or manager ring disabled meanwhile still takes the descriptor it was fetching (Table 22.10), and opens no window. -/
def fetchEnd (s : State) (ref : RingRef) (a : Access) (st : Nat) (data : List Byte) (poison : Bool) : State :=
  match getRing s ref with
  | none => s
  | some r =>
    let lap := ((r.cDev >>> r.log2) + 1) % 65536
    let late := !r.enabled && (match ref with | .ctlSq _ => true | .mgrSq => true | _ => false)
    if a.dropped || !canFetch s ref { r with enabled := r.enabled || late } then s
    else if late && st = 0 && (poison || dLap (ofBytes 512 data) ≠ lap) then s
    else if st = 0 then fetchResult s ref r (ofBytes 512 data) poison
    else fetchFail s ref st

/-- What memory holds of a descriptor in HBM, or what the link returned. -/
def fetchedData (s : State) (a : Access) (d : Line) (poison : Bool) : Line × Bool :=
  match a.place with
  | .hbm => if a.addr < hbmSize then (ofBytes 512 (readPhys s a.addr 64), poisonedRange s a.addr 64) else (0, true)
  | _ => (d, poison)

/-- The read of a ring a result is for: the oldest one that has left and has no other answer to await (DESIGN CHOICE, log
109). -/
def fetchNext (s : State) (ref : RingRef) : Option Access :=
  s.xl.accesses.find? fun a => a.who = .fetch ref && a.issued && a.result.isNone &&
    !(s.cxl.cacheReqs.any fun r => r.2.access = some a.id)

/-- The result of a read of a slot: it counts as R74 says, or is discarded. -/
def takeFetch (s : State) (ref : RingRef) (d : Line) (poison : Bool) : State :=
  match fetchNext s ref with
  | none => s
  | some a =>
    let r := fetchedData s a d poison
    let s := if a.place = .host then
        bwBytes (modCxl s fun c => { c with reads := c.reads.filter fun x => x.2.access ≠ a.id }) 28 false 64 else s
    fetchEnd (dropAccess s a.id) ref a 0 (bytesOf r.1) r.2

/-! ## Descriptors on a send or receive queue -/

/-- MAX_FRAME of a MAC, with its clamp (Table 13.7). -/
def maxFrame (s : State) (e : Nat) : Nat := min 9216 (max 64 (fld (lget s.macCfg e (rwt 0)).inForce 0 14))

/-- Near port n is bound to the domain (R322). -/
def nearBound (s : State) (n dom : Nat) : Bool := dom ≥ 64 || bitAt (getNear s n).bind.inForce dom

/-- MAC e with sub-MAC b is there: its port is in an Ethernet mode that has it (Table 13.1, R359). -/
def macThere (s : State) (e b : Nat) : Bool :=
  ((getNear s (e / 2)).mode = 1 && b = 0) || ((getNear s (e / 2)).mode = 2 && b < 2)

/-- What a RAW_SEND needs (R359). -/
def rawOk (s : State) (q : Qp) (d : Line) : Bool :=
  64 ≤ dLength d && dLength d ≤ maxFrame s (dMac d) && macThere s (dMac d) (dSubMac d) &&
  nearBound s (dMac d / 2) (qpDom s q)

/-- The region of a local key is PINNED (R139). -/
def keyPinned (s : State) (key : Nat) : Bool := ((regionOf s key).map fun g => g.2.pinned).getD false

/-- The images of a collective lie in regions its keys name, PINNED where it is SC; for a QP no communicator is bound to there
is nothing to cover before R231 fails it (R133, R139). -/
def collKeysOk (s : State) (n : Nat) (q : Qp) (d : Line) : Bool :=
  match s.col.comms.find? fun e => e.2.qp = n with
  | none => true
  | some (_, m) => imagesOk s m d fun key va len write => localOk s q.fn key va len write && (!dSc d || keyPinned s key)

/-- Checks made when a work descriptor of QP n is fetched (R133, Table 3.5): keys, rights, ranges and engine chain; the image an
FMT stage reads (R205). -/
def workOk (s : State) (n : Nat) (q : Qp) (d : Line) : Bool :=
  let op := dOpcode d
  let chainOk := !dChainEn d || (chainStages d).all fun c => c ≤ 5
  let coll := 0x10 ≤ op && op ≤ 0x15
  chainOk && (!((chainStages d).contains 1 && op = 4) || ((fmtOf (dSrcFmt d)).bind fun f => f.countOf (dLength d)).isSome) &&
  (if op = 0 then true
   else if op = 5 then rawOk s q d && localOk s q.fn (dLocalKey d) (dLocalAddr d) (dLength d) false
   else if coll then collKeysOk s n q d
   else dLength d = 0 ||
     (localOk s q.fn (dLocalKey d) (dLocalAddr d) (dLength d) (op = 4) && (!dSc d || keyPinned s (dLocalKey d))))

/-- The counters a pair names belong to its carrel: the one it waits on, and the one its end adds to (R222). -/
def countersOk (s : State) (dom : Nat) (slot : Line) : Bool :=
  let mine (c : Nat) : Bool := match getDom s dom with
    | some x => x.cfg.trigBase ≤ c && c < x.cfg.trigBase + x.cfg.trigCount
    | none => false
  mine (dfld slot 16 0 16) && (!dbit slot 1 0 || mine (dfld slot 24 0 16))

/-- A work descriptor is handed to its QP (R58, R76, R133): queued, failed by its checks, or flushed. -/
def submit (s : State) (n : Nat) (d : Line) : State :=
  let s := takeHanded s (.sq n) d
  match getQp s n with
  | none => s
  | some q =>
    match q.state with
    | .error => sendRecord s n q (dWrId d) (dOpcode d) 8 0 0
    | .rts | .sqd =>
      if !opcodeOk s (.sq n) false d then enterError s n none 8 1 true (some ⟨true, d, 8, []⟩)
      else
        let s := modQp s n fun q => { q with ops := q.ops ++ [SendOp.new q.opNext d none], opNext := q.opNext + 1 }
        if workOk s n q d then s else failOp s n q.opNext 0xC
    | _ => s

/-- A RECV or RAW_RECV is handed to its QP: available from the next tick (R117, R133). -/
def submitRecv (s : State) (n : Nat) (d : Line) : State :=
  let s := takeHanded s (.rq n) d
  match getQp s n with
  | none => s
  | some q =>
    match q.state with
    | .error => recvRecord s n q d false false false 8 0 0 0
    | .reset => s
    | _ =>
      if !opcodeOk s (.rq n) false d then enterError s n none 8 1 true (some ⟨false, d, 8, []⟩)
      else if localOk s q.fn (dLocalKey d) (dLocalAddr d) (dLength d) true then
        modQp s n fun q => { q with recvs := q.recvs ++ [⟨d, s.folio + 1, q.opNext⟩], opNext := q.opNext + 1 }
      else enterError s n none 0xC 3 true (some ⟨false, d, 0xC, []⟩)

/-- A TRIGGERED pair is held in the deferred pool, and released at once if its counter has reached its threshold (R80, R81,
R224). One that was not fetched finds no place in a full pool and is not taken. -/
def submitPair (s : State) (n : Nat) (d w : Line) : State :=
  let s0 := s
  let s := takeHanded (takeHanded s (.sq n) d) (.sq n) w
  match getQp s n with
  | none => s
  | some q =>
    match q.state with
    | .error => sendRecord s n q (dWrId d) 0x20 8 0 0
    | .rts | .sqd =>
      if dOpcode d ≠ 0x20 || !opcodeOk s (.sq n) true w then enterError s n none 8 1 true (some ⟨true, d, 8, []⟩)
      else if poolFull s (fnDom s q.fn) then s0
      else if !workOk s n q w || !countersOk s (qpDom s q) d then
        let s := modQp s n fun q => { q with ops := q.ops ++ [SendOp.new q.opNext w (some d)], opNext := q.opNext + 1 }
        failOp s n q.opNext 0xC
      else poolKick (releasePairs (modQp s n fun q => { q with pairs := q.pairs ++ [⟨q.opNext, d, w⟩], opNext := q.opNext + 1 }))
    | _ => s

/-! ## Ring management (R82, R83, R96) -/

/-- The context rings of a function lie in: the lowest numbered one whose ATS_FUNCTION it is (R64; log 21). -/
def fnCtx (s : State) (fn : Nat) : Option (Nat × Ctx) := s.xl.ctxs.find? fun e => e.2.atsFn = fn

/-- The one pinned segment that holds [va, va + len) whole (R64). -/
def ringSeg (s : State) (fn va len : Nat) : Option (Nat × Ctx × Nat × Seg) :=
  (fnCtx s fn).bind fun c => (segAt c.2 va).bind fun g =>
    if va + len ≤ g.2.base + g.2.len && (g.2.pinned || g.2.target = 1) then some (c.1, c.2, g.1, g.2) else none

def rcBase (d : Line) : Nat := dfld d 16 0 57
def rcLog2 (d : Line) : Nat := dfld d 24 0 5
def rcKind (d : Line) : Nat := dfld d 24 5 3
def rcShadow (d : Line) : Bool := dbit d 25 0
def rcBell (d : Line) : Nat := dfld d 26 0 16
def rcObject (d : Line) : Nat := dfld d 28 0 20
def rcBind (d : Line) : Nat := dfld d 32 0 20
def rcShadowAddr (d : Line) : Nat := dfld d 40 0 57

/-- The ring RING_KIND and OBJECT name. -/
def rcRef (fn : Nat) (d : Line) : Option RingRef :=
  match rcKind d with
  | 0 => some (.sq (rcObject d))
  | 1 => some (.rq (rcObject d))
  | 2 => some (.cq fn (rcObject d))
  | 3 => some (.eq fn)
  | _ => none

/-- Entry bytes of a ring kind and the bounds of n (Table 3.1). -/
def kindEntry (k : Nat) : Nat := if k = 2 then 32 else 64
def kindMax (k : Nat) : Nat := if k = 2 then 20 else 16

/-- HBM byte of a shadow line, none where R71 refuses it. -/
def shadowPhys (s : State) (fn : Nat) (d : Line) : Option (Nat × Nat × Nat) :=
  match ringSeg s fn (rcShadowAddr d) 64 with
  | some (ci, c, gi, g) =>
    if g.target = 1 && domNamed s c.dom (g.tbase + (rcShadowAddr d - g.base)) 64 then
      (domPhys s c.dom (g.tbase + (rcShadowAddr d - g.base))).map fun a => (ci, gi, a)
    else none
  | none => none

/-- The reason a RING_CREATE fails, in the order 6, 4, 1, 2, 3, 5 (R83); 0 when it does not. -/
def createReason (s : State) (fn : Nat) (d : Line) : Nat :=
  let k := rcKind d
  let n := rcLog2 d
  let vmax := if fn = 0 then 2048 else 64
  if dOpcode d ≠ 0x40 then 6
  else if k ≥ 4 || n < 4 || n > kindMax k || rcBase d % kindEntry k ≠ 0 || (rcShadow d && rcShadowAddr d % 64 ≠ 0) ||
      (k ≥ 2 && !bitAt (BitVec.ofNat 20 (rcBind d)) 11 && rcBind d % 2048 ≥ vmax) then 4
  else if (match ringSeg s fn (rcBase d) (kindEntry k * 2 ^ n) with
      | some (_, c, _, g) => g.target = 1 && !domNamed s c.dom (g.tbase + (rcBase d - g.base)) (kindEntry k * 2 ^ n)
      | none => true) ||
      (rcShadow d && (shadowPhys s fn d).isNone) then 1
  else if rcBell d < 2 || (fn = 0 && rcBell d < 4) || (ringByBell s fn (rcBell d)).isSome then 2
  else if ((match rcRef fn d with
      | some (.sq qp) => !((getQp s qp).map fun q => decide (q.fn = fn) && q.sq.isNone).getD false
      | some (.rq qp) => !((getQp s qp).map fun q => decide (q.fn = fn) && q.rq.isNone).getD false
      | some r => (getCq s r).isSome
      | none => true) : Bool) then 3
  else if k < 2 && (getCq s (.cq fn (rcBind d))).isNone then 5
  else 0

/-- Create the ring of an accepted RING_CREATE (R64, R71, R82). One created in host memory while the link is lost is journalled,
or stopped, until RING_REBIND names it (DESIGN CHOICE, log 94). -/
def createRing (s : State) (fn : Nat) (d : Line) : State :=
  match ringSeg s fn (rcBase d) (kindEntry (rcKind d) * 2 ^ rcLog2 d), rcRef fn d with
  | some (ci, c, gi, g), some ref =>
    let place := placeOf g.target
    let addr := g.tbase + (rcBase d - g.base)
    let sh := if rcShadow d then shadowPhys s fn d else none
    let onHost := decide (place = .host) && s.cxl.lost
    let ring : Ring := { Ring.none_ fn with
      place := place, addr := addr, dom := c.dom, seg := some (ci, gi), shadowSeg := sh.map fun x => (x.1, x.2.1)
      log2 := rcLog2 d, bell := rcBell d, shadow := sh.map fun x => x.2.2, bind := rcBind d, enabled := true, linkStop := onHost }
    let b := BitVec.ofNat 20 (rcBind d)
    let cring : CqRing := { CqRing.none_ fn (if rcKind d = 3 then 0 else rcObject d) (rcKind d = 3) with
      place := place, addr := addr, dom := c.dom, seg := some (ci, gi), shadowSeg := sh.map fun x => (x.1, x.2.1)
      log2 := rcLog2 d, bell := rcBell d, shadow := sh.map fun x => x.2.2, vector := fld b 0 11, notify := bitAt b 11,
      nport := fld b 12 2, modFolios := dfld d 36 0 8, modCount := dfld d 38 0 16, journalled := onHost }
    match ref with
    | .sq qp => modQp s qp fun q => { q with sq := some ring }
    | .rq qp => modQp s qp fun q => { q with rq := some ring }
    | .cq fn _ => { s with cqs := tmod s.cqs fn [] fun l => l ++ [cring] }
    | .eq fn => modFn s fn fun f => { f with eq := some cring }
    | _ => s
  | _, _ => s

/-- An SQ or RQ of the function is bound to the CQ (R82). -/
def cqBound (s : State) (fn num : Nat) : Bool :=
  s.qps.any fun e => e.2.fn = fn && ((e.2.sq.map (·.bind)) = some num || (e.2.rq.map (·.bind)) = some num)

/-- The ring of a RING_DESTROY or RING_REBIND exists and is the function's. -/
def refPresent (s : State) (fn : Nat) (ref : RingRef) : Bool :=
  match ref with
  | .sq qp => ((getQp s qp).map fun q => decide (q.fn = fn) && q.sq.isSome).getD false
  | .rq qp => ((getQp s qp).map fun q => decide (q.fn = fn) && q.rq.isSome).getD false
  | r => (getCq s r).isSome

/-- Every descriptor fetched from the ring has completed or been flushed (R82). -/
def ringQuiet (s : State) (ref : RingRef) : Bool :=
  match ref with
  | .sq qp => ((getQp s qp).map fun q => q.ops.isEmpty && q.pairs.isEmpty && ((q.sq.map fun r => r.handed.isEmpty).getD true)).getD true
  | .rq qp => ((getQp s qp).map fun q => q.recvs.isEmpty && q.held.isEmpty && (q.rx.all fun r => r.recvs.isEmpty) &&
      ((q.rq.map fun r => r.handed.isEmpty).getD true)).getD true
  | _ => true

/-- The commands that wait for the ring's destruction. -/
def destroyCmd (s : State) (ref : RingRef) : List Line :=
  match ref with
  | .sq _ => ((getRing s ref).map (·.destroy)).getD []
  | .rq _ => ((getRing s ref).map (·.destroy)).getD []
  | r => ((getCq s r).map (·.destroy)).getD []

/-- Take a ring away. -/
def removeRing (s : State) (ref : RingRef) : State :=
  let s := forgetFetches s ref
  match ref with
  | .sq qp => modQp s qp fun q => { q with sq := none }
  | .rq qp => modQp s qp fun q => { q with rq := none }
  | .cq fn num => { s with cqs := tupd s.cqs fn fun l => l.filter fun q => q.num ≠ num }
  | .eq fn => modFn s fn fun f => { f with eq := none }
  | _ => s

/-! ## Ring locator registers (R65, R530) -/

/-- ENABLE 1 of a control ring is refused (R65, R532). -/
def ctlRefused (s : State) (fn : Nat) (v : W64) : Bool :=
  let n := fld v 0 4
  let base := fld (getFn s fn).ctlBase 6 51 * 64
  n < 4 || n > 12 || (fn ≠ 0 && fld v 8 11 ≥ 64) ||
  (bitAt v 5 && !(match fnDom s fn with | some c => domNamed s c base (96 * 2 ^ n) && !leaving s c base (96 * 2 ^ n) | none => false))

/-- A write of TRN_CTL_CFG with ENABLE 1. -/
def ctlEnable (s : State) (fn : Nat) (v : W64) : State :=
  let keep : W64 := v &&& 0x7FF2F
  let s := if bitAt v 19 then modFn s fn fun f => { f with ctlErr := false } else s
  if ctlRefused s fn v then modFn (mark s (0x4000000 + fn) 19) fn fun f => { f with
    ctlCfg := keep, ctlErr := true, ctlSq := { f.ctlSq with enabled := false } }
  else
    let n := fld v 0 4
    let base := fld (getFn s fn).ctlBase 6 51 * 64
    let pl := if bitAt v 5 then Place.hbm else Place.host
    let dom := (fnDom s fn).getD 64
    let s := modFn s fn fun f => { f with
      ctlCfg := keep ||| 0x10
      ctlSq := { f.ctlSq with enabled := true, place := pl, addr := base, dom := dom, log2 := n,
                              linkStop := decide (pl = .host) && (f.ctlSq.linkStop || s.cxl.lost) }
      ctlCq := { f.ctlCq with place := pl, addr := base + 64 * 2 ^ n, dom := dom, log2 := n, vector := fld v 8 11,
                              journalled := decide (pl = .host) && (f.ctlCq.journalled || s.cxl.lost) } }
    startFetch s (.ctlSq fn)

/-- A write of TRN_CTL_CFG with ENABLE 0: indices are kept, and a descriptor being fetched completes (R65). -/
def ctlDisable (s : State) (fn : Nat) (v : W64) : State :=
  modFn s fn fun f => { f with
    ctlCfg := v &&& 0x7FF2F, ctlErr := f.ctlErr && !bitAt v 19, ctlSq := { f.ctlSq with enabled := false } }

/-- ENABLE 1 of the manager ring is refused (R530). -/
def mgrRefused (s : State) (v : W64) : Bool :=
  let n := fld v 0 4
  n < 4 || n > 12 || !domNamed s 64 (fld s.mgrBase 6 33 * 64) (96 * 2 ^ n) ||
    leaving s 64 (fld s.mgrBase 6 33 * 64) (96 * 2 ^ n)

def mgrEnable (s : State) (v : W64) : State :=
  let keep : W64 := v &&& 0x7FF0F
  let s := if bitAt v 19 then { s with mgrErr := false } else s
  if mgrRefused s v then { mark s 0x1B0018 19 with mgrCfg := keep, mgrErr := true, mgrSq := { s.mgrSq with enabled := false } }
  else
    let n := fld v 0 4
    let base := fld s.mgrBase 6 33 * 64
    startFetch { s with
      mgrCfg := keep ||| 0x10
      mgrSq := { s.mgrSq with enabled := true, place := .hbm, addr := base, dom := 64, log2 := n }
      mgrCq := { s.mgrCq with place := .hbm, addr := base + 64 * 2 ^ n, dom := 64, log2 := n, vector := fld v 8 11 } } .mgrSq

def mgrDisable (s : State) (v : W64) : State :=
  { s with mgrCfg := v &&& 0x7FF0F, mgrErr := s.mgrErr && !bitAt v 19, mgrSq := { s.mgrSq with enabled := false } }

/-- A write of TRN_JOURNAL_CFG (R93): CLEAR sets WRITE_COUNT to 0 unless the link is lost. -/
def journalWrite (s : State) (v : W64) : State :=
  let n := fld v 0 5
  let en := bitAt v 5 && 10 ≤ n && n ≤ 20
  let s := { s with journal := { s.journal with
    cfg := BitVec.ofNat 64 (n + (if en then 32 else 0))
    writes := if bitAt v 6 && !s.cxl.lost then 0 else s.journal.writes } }
  journalDrain (journalHeader s)

/-! ## Meanings -/

/-- The ring's window closes: poisoned, the descriptor is handled by R76 with free contents; otherwise the ring stops (R74). -/
def aheadClose (s : State) (ring : RingRef) (r : Ring) : State :=
  let s := modRing (dropFetches s ring) ring fun r => { r with window := none, refetches := 0, lastPoison := false }
  if r.lastPoison then
    let (d, s) := draw s 512
    startFetch (invalidDescriptor (modRing s ring fun r => { r with cDev := (r.cDev + 1) % 2 ^ 32 }) ring d true) ring
  else
    let fn := refFn s ring
    let s := modRing s ring fun r => { r with stopped := true }
    postEvent s fn 0x01 (fnSource fn) (carrelField ((fnDom s fn).getD 64)) (refObject ring)
      (evData [(20, 32, r.cDev), (24, 16, ((r.cDev >>> r.log2) + 1) % 65536), (26, 16, r.lapFound), (28, 8, r.refetches)])

/-- A VF's BAR takes writes only while it is ENABLED (Table 16.1). -/
def barOpen (s : State) (fn : Nat) : Bool := fn = 0 || (getFn s fn).state = .enabled

end Sys2Proof.Machine
end

