-- ==== Sys2Proof/Machine/Settle.lean ====
section
/-! DEFINITION. Settle.lean: the transport takes the outcome of its accesses: staged reads, READ responder reads,
placement, and the re-send policy (R94, R137, R138, R414, Table 15.6). -/

namespace Sys2Proof.Machine

/-- Drop every access of a transfer. -/
def dropWho (s : State) (w : Who) : State :=
  closeEmptyFaults (modXl s fun x => { x with accesses := x.accesses.filter fun a => a.who ≠ w })

/-- The access whose outcome the transport takes next. -/
def nextResult (s : State) : Option (Access × Nat × List Byte × Bool) :=
  s.xl.accesses.findSome? fun a =>
    match a.who, a.result with
    | .mov _ _, _ => none
    | .movOut _, _ => none
    | .coll _ _, _ => none
    | .collSrc _ _ _, _ => none
    | .collCell _ _ _ _ _ _, _ => none
    | .inbound _ _ _ _, _ => none
    | _, some r => some (a, r)
    | _, none => none

/-- Bytes that a sending read brought are in the staged copy. -/
def sendStored (s : State) (n idx : Nat) (a : Access) : State :=
  match (getQp s n).bind fun q => (q.ops.find? fun o => o.idx = idx) with
  | some o => bytesStored s (domOf s n) (sendCopy n idx) (a.va - dLocalAddr o.desc) a.len
  | none => s

/-- Bytes that a responder's read brought are in the staged piece. -/
def respStored (s : State) (n seq : Nat) (a : Access) : State :=
  match (getQp s n).bind fun q => (q.reads.find? fun r => r.seq = seq) with
  | some r => bytesStored s (domOf s n) (respCopy n seq r.cut) (a.va - (r.addr + r.cut * segBytes)) a.len
  | none => s

/-- A sending read has ended. -/
def takeSend (s : State) (n idx : Nat) (a : Access) (st : Nat) (data : List Byte) (poison : Bool) : State :=
  match st with
  | 0 =>
    let s := sendStored s n idx a
    let s := modOp s n idx fun o =>
      let off := a.va - dLocalAddr o.desc
      { o with
        staged := splice o.staged (off - o.base) data, toRead := o.toRead - 1
        bad := if poison then o.bad ++ [(off, a.len)] else o.bad }
    match (getQp s n).bind fun q => q.ops.find? fun o => o.idx = idx with
    | some o => if o.toRead > 0 then s else sendPump 70000 (if o.phase = .reading then stagedReady s n idx else chunkDone s n idx) n
    | none => s
  | 6 => doneOp (dropWho s (.send n idx)) n idx 6
  | st => failOp s n idx st

/-- A READ responder read has ended. -/
def takeRespond (s : State) (n seq : Nat) (a : Access) (st : Nat) (data : List Byte) (poison : Bool) : State :=
  match st with
  | 0 =>
    let s := respStored s n seq a
    respPump 4096 (modQp s n fun q => { q with reads := q.reads.map fun r =>
      if r.seq = seq then
        let off := a.va - (r.addr + r.cut * segBytes)
        { r with staged := splice r.staged off data, toRead := r.toRead - 1
                 bad := if poison then r.bad ++ [(off, a.len)] else r.bad }
      else r }) n
  | 0xC => enterError (sendNak s n 6 seq) n none 0xC 3 true
  | _ =>
    let s := sendNak (dropWho s (.respond n seq)) n 4 seq
    respPump 4096 (modQp s n fun q => { q with reads := q.reads.filter fun r => r.seq ≠ seq }) n

/-- One write of an admitted segment is visible, or ended by link loss; SEGMENT_COMPLETE follows when it was the last. -/
def writeDone (s : State) (n seq : Nat) (lost : Bool) : State :=
  modQp s n fun q => { q with rx := q.rx.map fun r =>
    if r.seq = seq then { r with writes := r.writes - 1, lost := r.lost || lost } else r }

/-- The RAW_RECVs of the frames a raw QP has wholly placed complete, in the order the frames left the buffer, under the
receive timestamp (R358, R371). -/
def rawPump : Nat → State → Nat → State
  | 0, s, _ => s
  | fuel + 1, s, n =>
    match getQp s n with
    | none => s
    | some q =>
      match q.rx with
      | [] => s
      | r :: rest =>
        if q.type ≠ 1 || r.writes > 0 then s else
          let s := modQp s n fun q => { q with rx := rest }
          let fill := (recvFill r.recvs (hSegLen r.head)).zipIdx
          let s := fill.foldl (fun s e =>
            complete s (rqCq q) (complRec (dWrId e.1.1) (dfld r.head 8 0 64) (fnSource q.fn) (decide (e.2 + 1 = fill.length))
              false false (if r.lost then 6 else 0) (dOpcode e.1.1) (if r.lost then 0 else e.1.2) 0 n 0)) s
          rawPump fuel s n

/-- A placement write of a raw frame has ended: a local failure ends the QP. -/
def takeRaw (s : State) (n seq st : Nat) : State :=
  match st with
  | 0 => rawPump 4096 (writeDone s n seq false) n
  | 6 => rawPump 4096 (writeDone s n seq true) n
  | st => enterError s n none st 3 true

/-- A placement write has ended. -/
def takePlace (s : State) (n seq st : Nat) : State :=
  if seq ≥ 4096 then takeRaw s n seq st else
  match st with
  | 0 => writeDone s n seq false
  | 6 => writeDone s n seq true
  | 0xC => enterError (sendNak s n 6 seq) n none 0xC 3 true
  | _ => sendNak s n 4 seq

/-- A READ_RESP placement write has ended. -/
def takeReadPlace (s : State) (n seq st : Nat) : State :=
  let op := (getQp s n).bind fun q => (q.rx.find? fun r => r.seq = seq).bind fun r =>
    q.ops.find? fun o => o.phase = .waiting && o.firstSeq = some (hReadSeq r.head)
  match st, op with
  | 0, _ => writeDone s n seq false
  | 6, some o => writeDone (doneOp s n o.idx 6) n seq true
  | 6, none => writeDone s n seq true
  | st, some o => failOp s n o.idx st
  | _, none => writeDone s n seq false

/-- A record's way to host memory has ended before it left: with the link gone it goes to the journal at its index (R94);
where no translation could be had it is lost (log 108). -/
def recordEnd (s : State) (ref : RingRef) (idx : Nat) (a : Access) (st : Nat) : State :=
  if st = 6 then journalPut s (ringEntry s ref a.fn idx (ofBytes 512 a.data)) else s

/-- Take one outcome. -/
def takeResult (s : State) (a : Access) (r : Nat × List Byte × Bool) : State :=
  let s := dropAccess s a.id
  match a.who with
  | .send n idx => takeSend s n idx a r.1 r.2.1 r.2.2
  | .respond n seq => takeRespond s n seq a r.1 r.2.1 r.2.2
  | .place n seq => if a.dropped then (if r.1 = 0 then s else sendNak s n 4 seq) else takePlace s n seq r.1
  | .readPlace n seq => if a.dropped && r.1 = 0 then s else takeReadPlace s n seq r.1
  | .fetch ref => fetchEnd s ref a r.1 r.2.1 r.2.2
  | .record ref idx => recordEnd s ref idx a r.1
  | _ => s

/-- Cells of a segment whose bytes reach [va, va + len) of a context. -/
def cellsOfRange (s : State) (q : Qp) (r : RxSeg) (ctx va len : Nat) : List Nat :=
  r.got.filter fun o => (targetPieces s q r o (cellLen r o)).any fun p =>
    p.1 = ctx && p.2.1 < va + len && va < p.2.1 + p.2.2

/-- The data of a placement access is given up: it stays only as a waiter, and its cells count as missing. -/
def giveUp (s : State) (a : Access) (n seq : Nat) (q : Qp) (r : RxSeg) : State :=
  let miss := cellsOfRange s q r a.ctx a.va a.len
  modQp (modAccess s a.id fun x => { x with dropped := true, data := [] }) n fun q => { q with rx := q.rx.map fun x =>
    if x.seq = seq then { x with got := x.got.filter fun o => ¬ miss.contains o, writes := x.writes - 1 } else x }

/-- The received result cell a collective's write holds is given up: it stays only as a waiter, and the cell counts as not
received (R245, R414). -/
def giveUpCell (s : State) (a : Access) : State :=
  match a.who with
  | .collCell comm idx st n src o =>
    modColl (modAccess s a.id fun x => { x with dropped := true, data := [] }) comm idx fun c => { c with rx := c.rx.map fun x =>
      if x.stage = st && x.round = n && x.from_ = src then { x with got := tdel x.got o, writes := x.writes - 1 } else x }
  | _ => s

/-- A result write that waits on a fault, by the policy of its segment, as a placement does (R414). -/
def stallColl (s : State) (a : Access) : State :=
  match a.who, a.fault with
  | .collCell comm _ _ _ _ _, some _ =>
    let dom := ((getComm s comm).bind fun m => fnDom s m.fn).getD 65
    let cap := ((getDom s dom).map fun d => d.cfg.stashMib * 8192).getD 0
    if a.dropped then s
    else if resendPolicy s a.ctx a.va then giveUpCell s a
    else if stashUse s dom > cap then bumpDom (giveUpCell s a) dom 10 1 else s
  | _, _ => s

/-- A placement access that waits on a fault: re-send mode gives its data up with one NAK PAGE_ABSENT a segment and
fault; stall mode keeps it in the stash, or gives it up when the stash is full (R119, R138). -/
def stallOrResend (s : State) (a : Access) : State :=
  match a.placing, a.fault with
  | some (n, seq), some (f, _) =>
    match (getQp s n).bind fun q => (q.rx.find? fun r => r.seq = seq).map fun r => (q, r) with
    | none => s
    | some (q, r) =>
      if a.dropped || hSealed r.head then s
      else if resendPolicy s a.ctx a.va then
        let s := giveUp s a n seq q r
        if r.paSent.contains f then s else
          sendNak (modQp s n fun q => { q with rx := q.rx.map fun x =>
            if x.seq = seq then { x with paSent := f :: x.paSent } else x }) n 3 seq
      else
        let dom := qpDom s q
        let cap := ((getDom s dom).map fun d => d.cfg.stashMib * 8192).getD 0
        if stashUse s dom > cap then bumpDom (giveUp s a n seq q r) dom 10 1 else s
  | _, _ => s

/-- Take every outcome there is, and apply the placement policies. -/
def settleSome : Nat → State → State
  | 0, s => s
  | fuel + 1, s =>
    match nextResult s with
    | some (a, r) => settleSome fuel (takeResult s a r)
    | none => (s.xl.accesses.foldl stallOrResend s).xl.accesses.foldl stallColl (s.xl.accesses.foldl stallOrResend s)

/-- The transport takes what its accesses have ended with (fuel beyond the accesses a part can hold). -/
def settle (s : State) : State := settleSome (4096 + 4 * s.xl.accesses.length) s

end Sys2Proof.Machine
end

