-- ==== Sys2Proof/Machine/QueuePairs.lean ====
section
/-! DEFINITION. QueuePairs.lean: descriptors handed to queue pairs, queue-pair and region commands, arriving transport
cells and the transport's timers (R97 to R147): the operations and the meaning of each command. -/

namespace Sys2Proof.Machine

open Host (Outcome)

/-! ## Queue-pair state (R97 to R104) -/

/-- A QP just allocated, in RESET. -/
def Qp.new (fn : Nat) : Qp :=
  { fn := fn, state := .reset, type := 0, sealed := false, udp := false, peerCoord := 0, peerQp := 0, peerEntry := 0,
    hadPeer := false, e := 0, d := 0, eN := 0, readDepth := 1, txSeq := 0, txN := 0, rtoUs := 4, retryMax := 0, retryLeft := 0,
    rnrMax := 0, rnrLeft := 0, rnrDelay := 1, txSlot := 0, rxSlot := 0, salt := 0, sqdWait := none, cause := 0,
    flushWait := [], sq := none, rq := none, opNext := 0, ops := [], pairs := [], recvs := [], tx := [], outq := [], rx := [], stash := [],
    discard := none, held := [], reads := [], timer := none, round := none, roundSeq := none, paWaits := [], marked := 0,
    total := 0, ecCells := 0, rateR := 0, alpha := 0, quota := 0, decreased := false, bucket := ⟨0, 0, 0⟩,
    tag := ⟨0, 0, false⟩, planeB := false, cached := true, loading := none, ctxWait := [] }

/-- The QP as RESET leaves it: its rings, bucket and number stay (Table 4.5). -/
def Qp.cleared (q : Qp) : Qp :=
  { Qp.new q.fn with sq := q.sq, rq := q.rq, bucket := q.bucket, opNext := q.opNext, cached := q.cached,
                     loading := q.loading, ctxWait := q.ctxWait }

/-- The lowest number from `n` on that `used` does not hold. -/
def freeFrom (used : Nat → Bool) : Nat → Nat → Nat
  | 0, n => n
  | fuel + 1, n => if used n then freeFrom used fuel (n + 1) else n

/-- QP contexts on die (R99). -/
def cachedQps (s : State) : List Nat := (s.qps.filter fun e => e.2.cached).map (·.1)

/-- QP_CREATE (R97, R100). Of the free numbers of the pool the lowest is taken (DESIGN CHOICE, log 112). -/
def qpCreate (s : State) (d : Line) : State :=
  let fn := dfld d 16 0 16
  if fn > 512 then mgrFail s d 3 else
    match (fnDom s fn).bind (getDom s) with
    | none => mgrFail s d 1
    | some c =>
      let n := freeFrom (fun n => (getQp s n).isSome) s.qps.length (max 1 c.cfg.qpBase)
      if n ≥ min (c.cfg.qpBase + c.cfg.qpCount) (2 ^ 20) then mgrFail s d 4
      else mgrOk { s with qps := tput s.qps n { Qp.new fn with cached := decide ((cachedQps s).length < 16384) } } d n

/-- QP_DESTROY (R100): only in RESET. -/
def qpDestroy (s : State) (d : Line) : State :=
  let n := dfld d 16 0 20
  match getQp s n with
  | none => mgrFail s d 1
  | some q => if q.state = .reset then mgrOk (forgetFetches (forgetFetches { s with qps := tdel s.qps n } (.sq n)) (.rq n)) d else mgrFail s d 2

/-- NEW_STATE (Table 4.3). -/
def qmState (d : Line) : Option QpState :=
  match dfld d 16 20 3 with
  | 0 => some .reset | 1 => some .init | 2 => some .rtr | 3 => some .rts | 4 => some .sqd | 5 => some .error | _ => none

/-- The transitions of Table 4.5. -/
def qpMoves (a b : QpState) : Bool :=
  match a, b with
  | .reset, .init => true
  | .init, .reset => true
  | .init, .rtr => true
  | .rtr, .rts => true
  | .rts, .sqd => true
  | .sqd, .rts => true
  | .error, .reset => true
  | .init, .error => true
  | .rtr, .error => true
  | .rts, .error => true
  | .sqd, .error => true
  | _, _ => false

/-- A slot holds a GCM key owned by the function (chapter 10). -/
def sealSlotOk (s : State) (fn slot : Nat) : Bool :=
  match s.keys.lookup slot with
  | some k => k.kind = 2 && k.owner = fn
  | none => false

/-- The reason a QP_MODIFY fails against the state the QP holds (R101 to R104, R142, R361); 0 when it does not. -/
def modifyReason (s : State) (q : Qp) (d : Line) : Nat :=
  match qmState d with
  | none => 3
  | some dests =>
    if !qpMoves q.state dests then 2
    else match q.state, dests with
      | .reset, .init =>
        if dfld d 22 0 2 = 3 || (dbit d 22 3 && dfld d 22 0 2 ≠ 0) then 3 else 0
      | .init, .rtr =>
        let tx := dfld d 40 0 11
        let rx := dfld d 42 0 11
        if dfld d 38 0 7 = 0 || dfld d 38 0 7 > 64 then 3
        else if q.udp && (match s.peers.lookup (dfld d 48 0 12) with | some p => decide (p.fn ≠ q.fn) | none => true) then 3
        else if q.sealed && (tx = rx || !sealSlotOk s q.fn tx || !sealSlotOk s q.fn rx) then 3
        else if q.sealed && ([tx, rx].any fun k => ((s.keys.lookup k).map (·.used)).getD false) then 5
        else 0
      | _, _ => 0

/-- QP_MODIFY as accepted: checked now, taken at the next tick (R104). -/
def qpModify (s : State) (d : Line) : State :=
  let n := dfld d 16 0 20
  match getQp s n with
  | none => mgrFail s d 1
  | some q =>
    let r := modifyReason s q d
    if r = 0 then { s with qpNext := s.qpNext ++ [(n, d)] } else mgrFail s d r

/-- Every flush record of a QP in ERROR is written: its rings are fetched to their ends and no record of it is held
(Table 4.5, R144). -/
def flushDone (s : State) (n : Nat) (q : Qp) : Bool :=
  let ended (r : Option Ring) : Bool := match r with
    | some r => r.cDev = r.pDev || !r.enabled || (getFn s q.fn).fenced
    | none => true
  let written (c : RingRef) : Bool := match getCq s c with
    | some cq => cq.held.all fun x => fld x 224 20 ≠ n
    | none => true
  ended q.sq && ended q.rq && written (sqCq q) && written (rqCq q)

/-- Complete the commands that wait for a QP's flush: ERROR to RESET clears the QP (Table 4.5). -/
def flushPump (s : State) : State :=
  s.qps.foldl (fun s e =>
    match getQp s e.1 with
    | none => s
    | some q =>
      if q.flushWait.isEmpty || q.state ≠ .error || !flushDone s e.1 q then s else
        let toReset := q.flushWait.any fun d => qmState d = some .reset
        let s := modQp s e.1 fun q => if toReset then q.cleared else { q with flushWait := [] }
        q.flushWait.foldl (fun s d => mgrOk s d) s) s

/-- Both slots of a sealed QP have served a QP (R142). -/
def useSlots (s : State) (q : Qp) : State :=
  if !q.sealed then s else
    { s with keys := tupd (tupd s.keys q.txSlot fun k => { k with used := true }) q.rxSlot fun k => { k with used := true } }

/-- QP_MODIFY takes effect at its tick (R103, R104). -/
def applyModify (s : State) (n : Nat) (d : Line) : State :=
  match getQp s n with
  | none => mgrFail s d 1
  | some q =>
    if q.state = .error && qmState d = some .error then
      modQp s n fun q => { q with flushWait := q.flushWait ++ [d] }
    else
      let r := modifyReason s q d
      if r ≠ 0 then mgrFail s d r else
        match q.state, qmState d with
        | _, some .error =>
          modQp (enterError s n none 8 0 true) n fun q => { q with flushWait := q.flushWait ++ [d] }
        | .error, some .reset => modQp s n fun q => { q with flushWait := q.flushWait ++ [d] }
        | .init, some .reset =>
          let s := q.recvs.foldl (fun s r => recvRecord s n q r.desc false false false 8 0 0 0) s
          mgrOk (modQp s n fun q => q.cleared) d
        | .reset, some .init =>
          let s := modQp s n fun q => { q with
            state := .init, type := dfld d 22 0 2, sealed := dbit d 22 2, udp := dbit d 22 3 }
          startFetch (mgrOk s d) (.rq n)
        | .init, some .rtr =>
          let s := modQp s n fun q => { q with
            state := .rtr, peerCoord := dfld d 24 0 10, e := dfld d 26 0 12, eN := dfld d 26 0 12, d := 0
            peerQp := dfld d 28 0 20, readDepth := dfld d 38 0 7, txSlot := dfld d 40 0 11, rxSlot := dfld d 42 0 11
            salt := dfld d 44 0 32, peerEntry := if q.udp then dfld d 48 0 12 else q.peerEntry, hadPeer := true }
          mgrOk (match getQp s n with | some q => useSlots s q | none => s) d
        | .rtr, some .rts =>
          let s := modQp s n fun q => { q with
            state := .rts, txSeq := dfld d 32 0 12, txN := dfld d 32 0 12, rtoUs := max 4 (dfld d 34 0 16)
            retryMax := dfld d 36 0 3, retryLeft := dfld d 36 0 3, rnrMax := dfld d 36 3 3, rnrLeft := dfld d 36 3 3
            rnrDelay := max 1 (dfld d 37 0 8), rateR := fld s.lat.ccCfg.inForce 32 17, alpha := 0
            quota := fld s.lat.ccCfg.inForce 32 17, decreased := false }
          startFetch (mgrOk (pump s n) d) (.sq n)
        | .sqd, some .rts => startFetch (mgrOk (modQp s n fun q => { q with state := .rts }) d) (.sq n)
        | .rts, some .sqd =>
          let s := modQp s n fun q => { q with state := .sqd }
          if sqdDrained q then mgrOk s d else modQp s n fun q => { q with sqdWait := some d }
        | _, _ => s

/-- Commands with an opcode that were accepted for the next tick. -/
def nextOf (s : State) (op : Nat) : List (Nat × Line) := s.qpNext.filter fun x => dOpcode x.2 = op

/-- They are taken. -/
def takeNext (s : State) (op : Nat) : State := { s with qpNext := s.qpNext.filter fun x => dOpcode x.2 ≠ op }

/-- QP_MODIFY commands of the folio just ended take effect in the order they were accepted (R104). -/
def qpCommands (s : State) : State := (nextOf s 0x91).foldl (fun s x => applyModify s x.1 x.2) (takeNext s 0x91)

/-- QP_PEER_MOVE at its tick (R441). -/
def peerMove (s : State) (n : Nat) (d : Line) : State :=
  match getQp s n with
  | none => mgrFail s d 1
  | some q =>
    if qpLive q then
      mgrOk (modQp s n fun q => { q with
        peerCoord := dfld d 20 0 10, peerQp := dfld d 24 0 20
        peerEntry := if q.udp then dfld d 28 0 12 else q.peerEntry }) d
    else mgrFail s d 2

def peerMoves (s : State) : State := (nextOf s 0x88).foldl (fun s x => peerMove s x.1 x.2) (takeNext s 0x88)

/-- The PEER_GONE notices due at a tick: those of the four ticks after an entry into ERROR, to the peer of that moment
(R145). -/
def sendNotices (s : State) : State :=
  let send (s : State) (g : Gone) : State :=
    if s.folio ≤ g.folio then s else
      let hdr := if g.udp then latHdr 4 0 0 0 false false 0 g.peerQp g.seq 0 false
        else latHdr 4 0 s.lat.epoch g.coord false false (myCoord s) g.peerQp g.seq 0 false
      pushCtl s (if g.udp then some (peerMac s g.entry) else none) g.qp (latCell hdr (nakPayload 7 g.seq 0))
        (if g.udp then some g.entry else none)
  let s' := s.gone.foldl send s
  { s' with gone := (s.gone.map fun g => if s.folio ≤ g.folio then g else { g with left := g.left - 1 }).filter fun g => g.left ≠ 0 }

/-- The rate law at a tick (R173). -/
def rateTick (s : State) : State :=
  { s with qps := tmap s.qps fun _ q =>
    let r := if q.decreased then q.rateR else min (fld s.lat.ccCfg.inForce 32 17) (q.rateR + fld s.lat.ccCfg.inForce 0 16)
    if q.state = .rts || q.state = .sqd then { q with rateR := r, quota := r, decreased := false } else q }

/-- Admission of descriptors and of the READ responses that may go on, at a tick (R58). -/
def admitAll (s : State) : State :=
  s.qps.foldl (fun s e => pump (admitQp s e.1) e.1) s

/-! ## Regions (R132 to R136) -/

/-- Generation a registration of an index takes (R132). -/
def nextGen (s : State) (i : Nat) : Nat :=
  match s.regionGen.lookup i with
  | none => 1
  | some g => if i = 0 && g = 255 then 1 else (g + 1) % 256

/-- REGION_REGISTER (R133, R136). Of the free indices of the pool the lowest is taken (DESIGN CHOICE, log 112). -/
def regionRegister (s : State) (d : Line) (pins : List Pin) : State :=
  let base := dfld d 16 0 57
  let len := dfld d 24 0 48
  let fn := dfld d 32 0 16
  let ctxNo := dfld d 34 0 12
  if fn > 512 then mgrFail s d 3 else
    match fnDom s fn, s.xl.ctxs.lookup ctxNo with
    | some c, some ctx =>
      if ctx.dom ≠ c then mgrFail s d 1
      else if base % 4096 ≠ 0 || len % 4096 ≠ 0 || len = 0 || !ctxCovers s ctxNo base len then mgrFail s d 3
      else
        match getDom s c with
        | none => mgrFail s d 1
        | some dom =>
          let i := freeFrom (fun i => (s.regions.lookup i).isSome) s.regions.length dom.cfg.regionBase
          if i ≥ dom.cfg.regionBase + dom.cfg.regionCount || i ≥ 262144 then mgrFail s d 4 else
            let spans := segSpans ctx 17 base len
            let pinned := dbit d 36 3 || spans.all fun p => p.2.1.target = 1
            match (if dbit d 36 3 then pinRange s ctx spans pins else Except.ok s) with
            | .error e => mgrFail s d e
            | .ok s =>
              let gen := nextGen s i
              let r : Region :=
                { base := base, len := len, fn := fn, ctx := ctxNo, localWrite := dbit d 36 0, remoteRead := dbit d 36 1
                  remoteWrite := dbit d 36 2, pinned := pinned, gen := gen, valid := true, waiting := none }
              mgrOk { s with regions := tput s.regions i r, regionGen := tput s.regionGen i gen } d (i * 256 + gen)
    | _, _ => mgrFail s d 1

/-- Region indices a send descriptor holds: its local key, and a READ response's or a segment's remote key. -/
def opKeys (o : SendOp) : List Nat :=
  if dOpcode o.desc ≥ 0x10 then [dLocalKey o.desc / 256, dRemoteKey o.desc / 256]
  else if dLength o.desc = 0 then [] else [dLocalKey o.desc / 256]

/-- Descriptors of a QP that have passed a check with a key: queued, held in pairs, posted, reserved or delivered with their
records still to come (R111, R134, R135). -/
def heldWork (q : Qp) : List Nat :=
  q.ops.flatMap opKeys ++ (q.pairs.flatMap fun p => opKeys (SendOp.new 0 p.work none)) ++
  ((q.recvs ++ q.rx.flatMap (·.recvs)).map fun r => dLocalKey r.desc / 256) ++
  q.held.flatMap fun h => h.2.2.map fun r => dLocalKey r.1 / 256

/-- Something that passed a check with a key of the index is still there (R134, R135). -/
def regionHeld (s : State) (i : Nat) : Bool :=
  s.qps.any fun e =>
    (heldWork e.2).contains i ||
    (e.2.rx.any fun r => [2, 3, 4].contains (hOpcode r.head) && hRemoteKey r.head / 256 = i) ||
    (e.2.reads.any fun r => r.key / 256 = i)

/-- REGION_INVALIDATE (R135): the key is invalid at once. -/
def regionInvalidate (s : State) (d : Line) : State :=
  let key := dfld d 16 0 32
  match regionOf s key with
  | none => mgrFail s d 1
  | some (i, _) => { s with regions := tupd s.regions i fun r => { r with valid := false, waiting := some d } }

/-- An invalidated region that nothing holds any more goes, and the command that asked for it completes (R135, R408). -/
def regionDone (s : State) (key : Nat) : State :=
  let i := key / 256
  match s.regions.lookup i with
  | none => s
  | some r =>
    if r.valid || r.gen ≠ key % 256 || regionHeld s i then s else
      let s := match s.xl.ctxs.lookup r.ctx with
        | some c => if r.pinned then unpinRange s c (segSpans c 17 r.base r.len) else s
        | none => s
      let s := { s with regions := tdel s.regions i }
      match r.waiting with
      | some d => mgrOk s d
      | none => s

/-! ## Arriving cells (R18, R116 to R125, R364, R366, R455) -/

/-- The cell leaves the list of ejected cells, if it came over it. -/
def takeEjected (s : State) (via : Via) (c : Cell) : State :=
  modLat s fun l => { l with ejected := l.ejected.erase (via, c) }

/-- QP of this adapter a cell is for, 0 where it has none (Table 18.5). -/
def qpOfCell (s : State) (c : Cell) : Nat :=
  if cType c = 6 || cType c = 7 then ((s.col.comms.lookup (cQp c % 65536)).map (·.qp)).getD 0
  else if (getQp s (cQp c)).isSome then cQp c else 0

/-- A discarded cell is counted (Table 18.4). -/
def dropCell (s : State) (src : Source) (dom : Option Nat) (c : Cell) : State :=
  prog (modLat s fun l => { l with drops := l.drops + 1 })
    { code := 0x05, source := src, dom := dom, cls := some (if cClass c = 1 then 2 else 1), seg := none, units := 1
      qp := if dom.isSome then qpOfCell s c else 0 }

/-- The source of an arriving cell is the QP's peer (Table 4.7 step 2, Table 16.6, R364, R366). -/
def fromPeer (s : State) (q : Qp) (via : Via) (c : Cell) : Bool :=
  match via with
  | .lattice => !q.udp && cSrc c = q.peerCoord
  | .udp g =>
    q.udp && (match s.peers.lookup q.peerEntry with
      | some p => p.ipv6 = g.ipv6 && p.remoteIp = g.srcIp && p.localIp = g.dstIp && 2 * p.mac + p.sub = g.mac &&
          nearBound s (p.mac / 2) (qpDom s q)
      | none => false)

/-- The policer of a domain sees an arrival of `u` units: passed and counted, or dropped (R455). -/
def policed (s : State) (dom u : Nat) : State × Bool :=
  match getDom s dom with
  | none => (s, true)
  | some d =>
    if d.policeLimit = 0 then (s, true) else
      let p := tget s.police dom ⟨0, 0, false⟩
      if p.count < d.policeLimit then ({ s with police := tput s.police dom { p with count := p.count + u } }, true)
      else
        let s := bumpDom { mark s (0x150400 + 8 * dom) 0 with police := tput s.police dom { p with drops := sat (2 ^ 24 - 1) (p.drops + 1), limitSeen := true } }
          dom 9 1
        (prog s { code := 0x11, source := 0x300 + dom, dom := some dom, cls := some 1, seg := none, units := u }, false)

/-- Domain a cell is for: through its QP, or through its communicator for a cell of a collective (R153, R232). -/
def cellDom (s : State) (c : Cell) : Option Nat :=
  if cType c = 6 || cType c = 7 then
    (s.col.comms.lookup (cQp c % 65536)).bind fun m => (getQp s m.qp).map (qpDom s)
  else (getQp s (cQp c)).map (qpDom s)

/-- Take an ejected cell: its CRC is checked end to end (R18 step 4) and `f` goes on; `police` says the policer counts
it. -/
def takeCell (s : State) (via : Via) (c : Cell) (police : Bool) (f : State → State) : State :=
  let s := takeEjected s via c
  let dom := cellDom s c
  if c.crc ≠ latCrc c.hdr c.payload then dropCell s 0x3FF dom c
  else if police && cClass c = 0 then
    match dom with
    | some dm =>
      let r := policed s dm 1
      if r.2 then f r.1 else dropCell r.1 (0x300 + dm) dom c
    | none => f s
  else f s

/-- A head cell (R116, Table 4.7 steps 1 and 2); one that fails them is discarded and counted (R18, Table 16.6). -/
def headCore (s : State) (via : Via) (c : Cell) : State :=
  match getQp s (cQp c) with
  | none => dropCell (nakBack s via c 7) 0x3FF none c
  | some q =>
    if !qpLive q then dropCell (countNak (nakBack s via c 7) (cQp c) q 7) 0x3FF (some (qpDom s q)) c
    else if !fromPeer s q via c then dropCell (countNak (nakBack s via c 8) (cQp c) q 8) 0x3FF (some (qpDom s q)) c
    else shadowPump (settle (headCell s (cQp c) c))

/-- A cell of another type for a live QP from its peer, discarded and counted otherwise (Table 16.6). -/
def peerCore (s : State) (via : Via) (c : Cell) (f : State → State) : State :=
  match getQp s (cQp c) with
  | none => dropCell s 0x3FF none c
  | some q => if qpLive q && fromPeer s q via c then shadowPump (settle (f s)) else dropCell s 0x3FF (some (qpDom s q)) c

/-- The QP a NAK is for. A CARREL NAK, and a PEER_GONE NAK that is no notice, names the refused QP, the peer's: the
sender is the QP whose peer that is (log 20). -/
def nakTarget (s : State) (via : Via) (c : Cell) : Option Nat :=
  let code := dfld c.payload 0 0 8
  let direct := (getQp s (cQp c)).bind fun q => if qpLive q && fromPeer s q via c then some (cQp c) else none
  let back := (s.qps.find? fun e => qpLive e.2 && e.2.peerQp = cQp c && fromPeer s e.2 via c).map (·.1)
  if code = 8 then back else if code = 7 then direct <|> back else direct

/-- A NAK cell (R124, R172). -/
def nakCore (s : State) (via : Via) (c : Cell) : State :=
  match nakTarget s via c with
  | none => dropCell s 0x3FF none c
  | some n =>
    let code := dfld c.payload 0 0 8
    if code = 0 || code > 8 then dropCell s 0x3FF none c
    else settle (applyNak s n code (dfld c.payload 2 0 12))

/-- What a cell of a QP does, by its type (R18, R116 to R125). -/
def cellCore (s : State) (via : Via) (c : Cell) : State :=
  match cType c with
  | 1 => headCore s via c
  | 2 => peerCore s via c fun s => dataCell s (cQp c) c
  | 3 => peerCore s via c fun s => applyAck s (cQp c) (dfld c.payload 0 0 12) (c.payload.extractLsb' 32 256)
      (dfld c.payload 36 0 16) (dfld c.payload 38 0 16)
  | 4 => nakCore s via c
  | 5 => peerCore s via c fun s => applySnak s (cQp c) c.payload s.now
  | _ => s

/-! ## Contexts off die (R99) -/

/-- Something for a QP whose context is not on die waits for it, behind what waits already; a load begins. -/
def ctxQueue (s : State) (n : Nat) (x : CtxWait) : State :=
  modQp s n fun q => { q with ctxWait := q.ctxWait ++ [x], loading := q.loading <|> some s.now }

/-- The QP's context is not on die. -/
def uncached (s : State) (n : Nat) : Bool := ((getQp s n).map fun q => !q.cached).getD false

/-- A cell of a QP arrives (R18 step 4, R99). -/
def qpCell (s : State) (via : Via) (c : Cell) (police : Bool) : State :=
  takeCell s via c police fun s => if uncached s (cQp c) then ctxQueue s (cQp c) (.cell via c) else cellCore s via c

/-- A work descriptor, a RECV or a pair is handed to its QP (R58, R99). -/
def takeWork (s : State) (n : Nat) (x : CtxWait) : State :=
  match x with
  | .cell via c => cellCore s via c
  | .work d => settle (submit s n d)
  | .recv d => settle (submitRecv s n d)
  | .pair d w => settle (submitPair s n d w)

def handWork (s : State) (n : Nat) (x : CtxWait) : State := if uncached s n then ctxQueue s n x else takeWork s n x

/-- The context has been loaded: another one makes room where 16,384 are on die (which one is free: log 113), and what waited
goes on in its order (R99). -/
def contextLoaded (s : State) (n : Nat) : State :=
  match getQp s n with
  | none => s
  | some q =>
    if q.cached || q.loading.isNone then s
    else
      let out := cachedQps s
      let s := if out.length < 16384 then s else
        let (v, s) := draw s 20
        modQp s (out.getD (v.toNat % out.length) 0) fun q => { q with cached := false }
      let s := modQp s n fun q => { q with cached := true, loading := none, ctxWait := [] }
      q.ctxWait.foldl (fun s x => takeWork s n x) s

/-! ## Timers (R119, R128, R130) -/

/-- The retransmission window closes (R128). A segment of which nothing has been sent is not re-sent: the timer opens with its
last cell (log 114). -/
def retxClose (s : State) (n : Nat) (q : Qp) (len : Nat) : State :=
  match q.tx.find? fun t => !t.acked && t.sc.isNone with
  | none => modQp s n fun q => { q with timer := none }
  | some t =>
    if t.next = 0 then modQp s n fun q => { q with timer := none }
    else if q.retryLeft = 0 then enterError s n t.op 0xE 3 true
    else
      let s := probeSeg s n q t
      modQp s n fun q => { q with
        retryLeft := q.retryLeft - 1, timer := some (s.now, min (2 * len) (64 * q.rtoUs * 16000)) }

/-- The RNR_DELAY window closes: segments from `seq` on are sent again in full (R130). -/
def roundClose (s : State) (n seq : Nat) : State :=
  modQp s n fun q => { q with
    round := none
    tx := q.tx.map fun t =>
      if !t.acked && seqDist seq t.seq < 2048 && t.next > 0 then { t with next := 0, again := [] } else t }

/-- PAGE_ABSENT waits that are over end in a probe each (Table 4.9). -/
def pageProbe (s : State) (n : Nat) : State :=
  match getQp s n with
  | none => s
  | some q =>
    let due := q.paWaits.filter fun x => x.2 ≤ s.folio
    due.foldl (fun s x => match q.tx.find? fun t => t.seq = x.1 && !t.acked with
      | some t => probeSeg s n q t
      | none => s) (modQp s n fun q => { q with paWaits := q.paWaits.filter fun x => ¬ (x.2 ≤ s.folio) })

/-- Stashed cells whose 64 folios are over go; so do cells stalled on a page that long (R119, R138). -/
def stashClose (s : State) (n : Nat) : State :=
  match getQp s n with
  | none => s
  | some q =>
    let old := (q.stash.filter fun c => c.folio + 64 ≤ s.folio).length
    let s := modQp s n fun q => { q with stash := q.stash.filter fun c => ¬ (c.folio + 64 ≤ s.folio) }
    let s := if old = 0 then s else bumpDom s (qpDom s q) 10 old
    s.xl.accesses.foldl (fun s a =>
      match a.placing with
      | some (m, seq) =>
        if m = n && a.fault.isSome && !a.dropped && a.folio + 64 ≤ s.folio then
          match (getQp s n).bind fun q => (q.rx.find? fun r => r.seq = seq).map fun r => (q, r) with
          | some (q, r) => if hSealed r.head then s else bumpDom (giveUp s a n seq q r) (qpDom s q) 10 1
          | none => s
        else s
      | none => s) s

/-! ## Meanings: descriptors -/

/-! ## Meanings: cells and timers -/

end Sys2Proof.Machine
end

