-- ==== Sys2Proof/Machine/Near.lean ====
section
/-! DEFINITION. Near.lean: near ports in Zuquin mode: link states, credits, requests of both sides, inbound windows,
doorbells, notifications, link reset and port down (R297 to R325). -/

namespace Sys2Proof.Machine

open Host (Outcome)

/-! ## Values of the tables -/

/-- Credits the device advertises: REQ, RSP, DB (R305). -/
def ownCredits : List Nat := [1024, 1024, 64]

/-- VC of a type (R299). -/
def zVcOf (type : Nat) : Nat :=
  match type with
  | 0xA => 0 | 0xB => 1 | 0xC => 2 | _ => 3

/-- Source number of a near port. -/
def nearSource (n : Nat) : Source := 0x10 + n

/-- A ZLINK cell. -/
def zLink (op : Nat) (p : Line) : Cell := zCell (zHdr 0xD 0 3 0 0 0 0 op 0 0 false) p

/-- PARAM payload of the device (Table 11.3). -/
def paramPayload (echo : Bool) (tSend tEcho turn : Nat) : Line :=
  layout 512 [(0, 8, 1), (9, 1, b2n echo), (16, 16, 1024), (32, 16, 1024), (48, 16, 64), (64, 64, tSend), (128, 64, tEcho),
    (192, 16, turn)]

/-! ## Link states (R301, R320, R321) -/

/-- A port enters a state. -/
def nearState (s : State) (n st : Nat) : State := modNear s n fun p => { p with state := st, since := s.now }

/-- The port falls back to DARK; link variables are cleared, requests and windows stay (R301, R321). -/
def nearDark (s : State) (n : Nat) : State :=
  modNear s n fun p => { p with
    state := 0, since := s.now, lreset := none, waitq := [], inUse := [0, 0, 0], credits := [0, 0, 0], paramRecv := false
    echoRecv := false, echoSent := false }

/-- A near port in ACTIVE is declared down (R320): event, record, DOWN_SEEN; the cause is 0 signal, 1 reset timeout,
2 third reset. -/
def nearDown (s : State) (n : Nat) (lane : Nat := 0xFF) : State :=
  if (getNear s n).state ≠ 4 then
    if (getNear s n).state = 0 then s else nearDark s n
  else
    let s := modNear (nearDark s n) n fun p => { p with downSeen := true, resetTimes := [] }
    let s := mark (mark s (0x160040 + 8 * n) 5) (0x120080 + 8 * n) 5
    let s := { s with cals := lmod s.cals (8 + n) fun c => { c with downSeen := true, fails := sat 255 (c.fails + 1) } }
    eventAndCodex s 0x09 0x31 (nearSource n) (0x10 + n) (evData [(21, 8, lane)])

/-- Restart the fetch of every ring that lies on a near port. -/
def fetchNear (s : State) (n : Nat) : State :=
  let here (r : Option Ring) : Bool := match r with | some r => r.place = .near n | none => false
  let s := s.fns.foldl (fun s e => if here (some e.2.ctlSq) then startFetch s (.ctlSq e.1) else s) s
  s.qps.foldl (fun s e =>
    let s := if here e.2.sq then startFetch s (.sq e.1) else s
    if here e.2.rq then startFetch s (.rq e.1) else s) s

/-- Faults of cause 3 on a port end for the carrels bound to it (Table 15.4). -/
def portBack (s : State) (n : Nat) : State :=
  let due := s.xl.faults.filter fun f => !f.resolved && f.cause = 3 &&
    (match f.key with | .near m _ _ => decide (m = n) | _ => false) && nearOpen s n f.carrel
  settle (due.foldl (fun s f => resolveFault s f.id) s)

/-- The link is ready for traffic: credits as last advertised, then everything from the oldest unanswered request on is
issued again, and the newest NOTIFY of every ring sent again (R318, R319, R321). -/
def nearResume (s : State) (n : Nat) : State :=
  let s := modNear s n fun p =>
    let run := p.tags.dropWhile (·.done)
    let again := run.map fun r => { r with
      sent := false, done := false, answered := [], got := [], poisoned := [], access := if r.done then none else r.access }
    { p with
      lreset := none, credits := p.farMax, inUse := [0, 0, 0], tags := again
      notify := (p.notified.filter fun e => !(p.notify.any fun x => x.1 = e.1)) ++ p.notify, notified := [] }
  notifyPump (nearPump s n) n

/-- The port enters ACTIVE. -/
def nearActive (s : State) (n : Nat) : State :=
  let s := modNear (nearState s n 4) n fun p => { p with maintNext := s.now + 196608 }
  fetchNear (portBack (nearResume s n) n) n

/-- PARAM leaves, once per 4096 slots until one has come (R301, R302). -/
def paramSend (s : State) (n : Nat) : State :=
  emit (modNear s n fun p => { p with paramNext := s.now + 12288 }) (.nearCell n (zLink 0 (paramPayload false s.now 0 0)))

/-- MAINT leaves once 65,536 slots have passed without one (R324): the next 64 bytes of the port's sequence. -/
def maintSend (s : State) (n : Nat) : State :=
  let r := (List.range 8).foldl (fun (a : BitVec 64 × Line) i => let x := prbsNext a.1; (x, a.2 ||| (x.setWidth 512 <<< (64 * i))))
    ((getNear s n).prbs, 0)
  emit (modNear s n fun p => { p with prbs := r.1, maintNext := s.now + 196608 }) (.nearCell n (zLink 1 r.2))

/-! ## Link reset (R318, R320) -/

/-- Stamps of resets in the 1 s window opened by the first (R320). -/
def resetWindow (ts : List Gtc) (now : Gtc) : List Gtc :=
  match ts with
  | t :: _ => if now < t + 16000000000 then ts ++ [now] else [now]
  | [] => [now]

/-- A link reset starts: `asked` says the far end's RESET_REQ started it. -/
def nearReset (s : State) (n cause : Nat) (asked : Bool) : State :=
  let p := getNear s n
  if p.state ≠ 4 || p.mode ≠ 0 || p.lreset.isSome then s
  else
    let ts := resetWindow p.resetTimes s.now
    let s := bump (modNear s n fun p => { p with resets := sat 255 (p.resets + 1), resetTimes := ts }) (nearCnt n 12) 1
    if ts.length ≥ 3 then nearDown s n
    else
      let s := modNear s n fun p => { p with
        waitq := [], lreset := some ⟨s.now, cause, false, false, asked, s.now + 192⟩ }
      if asked then s else emit s (.nearCell n (zLink 2 (BitVec.ofNat 512 cause)))

/-- RESET_REQ leaves again, once every 64 slots until the far end has answered (R318 step 3). -/
def resetAsk (s : State) (n : Nat) : State :=
  match (getNear s n).lreset with
  | some r => emit (modNear s n fun p => { p with lreset := some { r with next := s.now + 192 } })
      (.nearCell n (zLink 2 (BitVec.ofNat 512 r.cause)))
  | none => s

/-- The reset ends once RESET_ACK has gone both ways (step 5). -/
def resetEnd (s : State) (n : Nat) : State :=
  match (getNear s n).lreset with
  | some r => if r.sentAck && r.recvAck then nearResume s n else s
  | none => s

/-! ## Arriving cells (R298, R299, R304) -/

/-- Credits a cell returns (R304). -/
def creditsBack (s : State) (n : Nat) (c : Cell) : State :=
  let v := zCreditVc c
  if v < 3 then modNear s n fun p => { p with
    credits := lmod p.credits v fun x => min (lget p.farMax v 0) (x + zCreditCount c) } else s

/-- A buffer of VC `v` is free again: its credit goes back with an IDLE cell (R304, R305). -/
def freeBuffer (s : State) (n v : Nat) : State :=
  if v < 3 && (getNear s n).usable then
    emit (modNear s n fun p => { p with inUse := lmod p.inUse v (· - 1) }) (.nearCell n (zCell (zHdr 0 0 3 v 1 0 0 0 0 0 false) 0))
  else s

/-- A cell breaks the rules of R299; an IDLE cell's fields are ignored (R300). -/
def cellWrong (c : Cell) : Bool :=
  cType c ≠ 0 && (! [0xA, 0xB, 0xC, 0xD].contains (cType c) || cClass c > 1 || zVc c ≠ zVcOf (cType c))

/-- A cell of an ACTIVE port outside a reset: CRC, type and VC, credits; then `f`. What is received during a reset is discarded,
but for ZLINK cells and for a response of the very cycle in which the reset started (R318, Table 11.12). A doorbell cell that
is held keeps its buffer. -/
def nearTake (s : State) (n : Nat) (c : Cell) (f : State → State) : State :=
  let p := getNear s n
  let discard : Bool := match p.lreset with
    | some r => !(cType c = 0xB && r.start = s.now)
    | none => false
  if p.mode ≠ 0 || p.state ≠ 4 || discard then s
  else if c.crc ≠ crc32c (cellBytes c.hdr c.payload) then nearReset s n 2 false
  else if cellWrong c then nearReset s n 3 false
  else
    let v := zVcOf (cType c)
    if v < 3 && lget p.inUse v 0 ≥ lget ownCredits v 0 then nearReset s n 3 false
    else
      let s := creditsBack s n c
      let s := if v < 3 then modNear s n fun p => { p with inUse := lmod p.inUse v (· + 1) } else s
      let s := if cType c = 0 then s else bump s (nearCnt n 1) 1
      let s := if cType c = 0 || cType c = 0xD then s else bwBytes s (8 + n) false 64
      let held := (getNear s n).heldDb.length
      let s := f s
      let s := if (getNear s n).heldDb.length > held then s else freeBuffer s n v
      notifyPump (nearPump (nearDrain s n) n) n

/-- A ZLINK cell of operation `op`, in or out of a reset: CRC, VC and OP, credits; then `f` (R300, R318). -/
def zlinkTake (s : State) (n op : Nat) (c : Cell) (f : State → State) : State :=
  let p := getNear s n
  if p.mode ≠ 0 || p.state ≠ 4 then s
  else if c.crc ≠ crc32c (cellBytes c.hdr c.payload) then nearReset s n 2 false
  else if cellWrong c || zOp c > 3 then nearReset s n 3 false
  else if zOp c ≠ op then s
  else f (bump (creditsBack s n c) (nearCnt n 1) 1)

/-! ## Inbound requests (R308, R314, R315) -/

/-- Class-0 ERROR answer. -/
def zError (s : State) (n tag addr code : Nat) : State :=
  bump (nearSend s n (zCell (zHdr 0xB 0 1 0 0 tag addr 3 0 0 false) (BitVec.ofNat 512 code))) (nearCnt n 10) 1

/-- READ_DATA of one line. -/
def zReadData (s : State) (n tag addr : Nat) (d : Line) (poison : Bool) : State :=
  nearSend s n (zCell (zHdr 0xB 0 1 0 0 tag addr 0 0 0 poison) d)

/-- WRITE_DONE with one entry. -/
def zWriteDone (s : State) (n tag : Nat) : State :=
  nearSend s n (zCell (zHdr 0xB 0 1 0 0 0 0 1 0 0 false) (layout 512 [(0, 8, 1), (16, 12, tag)]))

/-- The window a request addresses and its range's place: the code of the ERROR that refuses it (R314). -/
def windowCheck (s : State) (n addr len : Nat) (write : Bool) : Except Nat (Window × Ctx × Nat × Seg × Nat) :=
  match (getNear s n).windows.lookup (addr / 2 ^ 48) with
  | none => .error 1
  | some w =>
    let off := addr % 2 ^ 48
    if w.len = 0 || w.len < off + len || (write && (getFn s w.fn).fenced) then .error 1
    else if (if write then !w.writeOk else !w.readOk) then .error 2
    else match s.xl.ctxs.lookup w.ctx with
      | none => .error 1
      | some c =>
        if !nearBound s n c.dom then .error 2
        else match segAt c (w.base + off) with
          | some (i, g) => if g.target = 1 then .ok (w, c, i, g, w.base + off) else .error 1
          | none => .error 1

/-- An inbound READ of whole lines, segment by segment. -/
def inboundRead (s : State) (n : Nat) (c : Cell) : State :=
  let lines := zLast c + 1
  let addr := zAddr c
  match windowCheck s n addr (64 * lines) false with
  | .error e => zError s n (zTag c) addr e
  | .ok (w, ctx, _, _, va) =>
    if !segCover ctx (fun g => g.target = 1) 17 va (64 * lines) then zError s n (zTag c) addr 1
    else
      let ps := segPieces ctx 20 va (64 * lines)
      let place (p : Nat × Seg × Nat × Nat) := domPhys s ctx.dom (p.2.1.tbase + (p.2.2.1 - p.2.1.base))
      if ps.any (fun p => (place p).isNone) then zError s n (zTag c) addr 1
      else ps.foldl (fun s p =>
        let off := p.2.2.1 - va
        let ph := (place p).getD 0
        (List.range (p.2.2.2 / 64)).foldl (fun s i =>
          let l := ph / 64 + i
          let tag := (zTag c + off / 64 + i) % 4096
          let at_ := addr + off + 64 * i
          if hostBiased s ph then
            newAccess s (.inbound n tag at_ (addr / 2 ^ 48)) (nearSource n) w.ctx ctx (p.1, p.2.1, p.2.2.1 + 64 * i, 64) .hbm (64 * l)
              false [] false
          else
            zReadData (hbmLines (bump s (devCnt 0) 1) (nearSource n) none 1) n tag at_
              (if lineBad s l then 0 else ofBytes 512 (readPhys s (64 * l) 64)) (lineBad s l)) s) s

/-- An inbound WRITE of bytes of one line; poisoned payload marks the line (R513). -/
def inboundWrite (s : State) (n : Nat) (c : Cell) : State :=
  let addr := zAddr c
  match windowCheck s n addr 64 true with
  | .error e => zError s n (zTag c) addr e
  | .ok (w, ctx, i, g, va) =>
    let lo := zFirst c
    let len := zLast c - lo + 1
    let data := ((bytesOf c.payload).drop lo).take len
    match domPhys s ctx.dom (g.tbase + (va - g.base)) with
    | none => zError s n (zTag c) addr 1
    | some ph =>
      let s := logSeg s g va
      if hostBiased s ph then
        newAccess s (.inbound n (zTag c) addr (addr / 2 ^ 48)) (nearSource n) w.ctx ctx (i, g, va + lo, len) .hbm (ph + lo) true data (zPoison c)
      else
        let s := if zPoison c then markPoison s (ph / 64) else hbmWrite s (ph + lo) data
        let s := hbmLines s (nearSource n) none 1
        zWriteDone s n (zTag c)

/-- A ZREQ of an endpoint (R308). -/
def inboundReq (s : State) (n : Nat) (c : Cell) : State :=
  let s := bump s (nearCnt n 3) 1
  if cClass c = 1 || zOp c > 1 || (zOp c = 1 && zFirst c > zLast c) ||
      (zOp c = 0 && zAddr c + 64 * (zLast c + 1) > 2 ^ 56) then nearReset s n 3 false
  else if zOp c = 0 then inboundRead s n c
  else inboundWrite s n c

/-- A doorbell cell's entries, in offset order (R72, R316). -/
def doorbellCell (s : State) (n : Nat) (c : Cell) : State :=
  [0, 16, 32, 48].foldl (fun s o =>
    if !dbit c.payload (o + 4) 0 then s
    else
      let fn := dfld c.payload o 0 16
      let ok := fn ≤ 512 && (match fnDom s fn with | some d => nearBound s n d | none => false)
      if !ok then bump s (nearCnt n 7) 1
      else
        let v := dfld c.payload (o + 8) 0 64
        doorbell (bump s (nearCnt n 6) 1) fn (dfld c.payload (o + 2) 0 16) (dfld c.payload (o + 12) 0 8) (v % 2 ^ 32)) s

/-- PAGE_READY: every fault the port holds on the page is resumed (R317). -/
def pageReady (s : State) (n : Nat) (c : Cell) : State :=
  let size := match dfld c.payload 7 0 2 with | 0 => 12 | 1 => 16 | _ => 21
  let a := dfld c.payload 0 0 56 / 2 ^ size
  let due := s.xl.faults.filter fun f => !f.resolved &&
    (match f.key with
     | .near m b l => m = n && (b / 2 ^ size = a || a * 2 ^ size / 2 ^ l = b / 2 ^ l)
     | _ => false)
  settle (due.foldl (fun s f => resolveFault s f.id) s)

/-- A ZDB cell of an endpoint. -/
def zdbTake (s : State) (n : Nat) (c : Cell) : State :=
  match zOp c with
  | 0 => doorbellCell s n c
  | 2 => pageReady s n c
  | _ => nearReset s n 3 false

/-- Inbound requests of a port that wait for the host (R386). -/
def inboundBusy (s : State) (n : Nat) : Bool :=
  s.xl.accesses.any fun a => match a.who with | .inbound m _ _ _ => decide (m = n) && a.write | _ => false

/-- A ZDB cell waits behind writes that are not visible yet (Table 11.6 rule 5). -/
def zdbArrive (s : State) (n : Nat) (c : Cell) : State :=
  if ! [0, 2].contains (zOp c) then nearReset s n 3 false
  else if inboundBusy s n || !(getNear s n).heldDb.isEmpty then modNear s n fun p => { p with heldDb := p.heldDb ++ [c] }
  else zdbTake s n c

/-- NPT_WINDOW_SET commands of a window whose older requests are all answered complete; a closed window's entry goes (R315). -/
def windowDone (s : State) (n w : Nat) : State :=
  match (getNear s n).windows.lookup w with
  | none => s
  | some x =>
    let busy (e : Line × List Nat) : Bool := s.xl.accesses.any fun a => e.2.contains a.id
    let rest := x.waiting.filter busy
    if x.waiting = [] || rest.length = x.waiting.length then s
    else
      let s' := modNear s n fun p =>
        { p with windows := if x.len = 0 && rest = [] then tdel p.windows w else tput p.windows w { x with waiting := rest } }
      (x.waiting.filter fun e => !busy e).foldl (fun s e => mgrOk s e.1) s'

/-- Answers of inbound requests that waited for the host, the ZDB cells behind them and the window commands that wait for
them. -/
def inboundPump (s : State) : State :=
  let s := s.xl.accesses.foldl (fun s a =>
    match a.who, a.result with
    | .inbound n tag addr _, some (_, data, bad) =>
      let s := dropAccess s a.id
      if a.write then zWriteDone s n tag else zReadData s n tag addr (if bad then 0 else ofBytes 512 data) bad
    | _, _ => s) s
  (List.range 4).foldl (fun s n =>
    let s := (getNear s n).windows.foldl (fun s w => if w.2.waiting = [] then s else windowDone s n w.1) s
    if inboundBusy s n then s else
      ((getNear s n).heldDb).foldl (fun s c => freeBuffer (zdbTake s n c) n 2) (modNear s n fun p => { p with heldDb := [] })) s

/-! ## Answers to device requests (R309, R310, R312, R317) -/

/-- The outstanding request a tag belongs to. -/
def NearPort.owner (p : NearPort) (tag : Nat) : Option NearReq :=
  p.tags.find? fun r => r.sent && !r.done && r.tagList.contains tag

def modReq (s : State) (n id : Nat) (f : NearReq → NearReq) : State :=
  modNear s n fun p => { p with tags := (p.tags.map fun r => if r.id = id then f r else r).dropWhile (·.done) }

/-- A response whose tag is not outstanding. -/
def unknownTag (s : State) (n : Nat) : State := bump s (nearCnt n 11) 1

/-- Latest arrival of the last line of a CLASS 1 READ that is in time (R312). -/
def NearReq.bound (r : NearReq) (delay : Nat) : Gtc := r.issued + 12800 + 2 * delay + 256

/-- READ_DATA. -/
def readData (s : State) (n : Nat) (c : Cell) : State :=
  let p := getNear s n
  match p.owner (zTag c) with
  | none => unknownTag s n
  | some r =>
    let i := (zTag c + 4096 - r.tag) % 4096
    if !r.read || r.answered.contains i then unknownTag s n
    else
      let got := tput r.got i c.payload
      let bad := if zPoison c then i :: r.poisoned else r.poisoned
      let full := r.answered.length + 1 = r.lines
      let s := modReq s n r.id fun r => { r with answered := i :: r.answered, got := got, poisoned := bad, done := full }
      if !full then s
      else
        let s := if r.cls = 1 && s.now > r.bound p.delay then
            modNear s n fun p => { p with lateSc := sat 65535 (p.lateSc + 1) } else s
        match r.access.bind fun id => s.xl.accesses.find? fun a => a.id = id with
        | some a =>
          if a.result.isSome || !a.issued then s
          else
            let bytes := got.flatMap fun l => bytesOf l.2
            settle (endAccess s a.id 0 ((bytes.drop (a.addr % 64)).take a.len) (!bad.isEmpty))
        | none => s

/-- WRITE_DONE of one tag: the bytes are visible. -/
def writeDoneTag (s : State) (n tag : Nat) : State :=
  match (getNear s n).owner tag with
  | none => unknownTag s n
  | some r =>
    if r.read then unknownTag s n
    else
      let s := modReq s n r.id fun r => { r with answered := [0], done := true }
      match r.access.bind fun id => s.xl.accesses.find? fun a => a.id = id with
      | some a =>
        if a.result.isSome || !a.issued then s
        else if a.left ≤ 1 then settle (endAccess s a.id 0)
        else modAccess s a.id fun a => { a with left := a.left - 1 }
      | none => s

/-- Requests of an access stop serving it. -/
def detach (s : State) (n id : Nat) : State :=
  modNear s n fun p => { p with tags := p.tags.map fun r => if r.access = some id then { r with access := none } else r }

/-- PAGE_ABSENT: the access waits on a fault of the page; PIN_LOST where its segment is pinned (R317, R409). -/
def pageAbsent (s : State) (n : Nat) (c : Cell) : State :=
  let s := bump s (nearCnt n 9) 1
  match (getNear s n).owner (zTag c) with
  | none => unknownTag s n
  | some r =>
    let log2 := match dfld c.payload 0 0 2 with | 0 => 12 | 1 => 16 | _ => 21
    let s := modReq s n r.id fun r => { r with done := true }
    match r.access.bind fun id => s.xl.accesses.find? fun a => a.id = id with
    | some a =>
      if a.result.isSome || !a.issued then s
      else
        let pinned := (((s.xl.ctxs.lookup a.ctx).bind fun c => c.segs.lookup a.seg).map (·.pinned)).getD false
        settle (meetFault (detach s n a.id) a (if pinned then 4 else 2) log2)
    | none => s

/-- ERROR answers a whole request: its access ends as a failed range (the rules name no other end). -/
def errorAnswer (s : State) (n : Nat) (c : Cell) : State :=
  let s := bump s (nearCnt n 10) 1
  match (getNear s n).owner (zTag c) with
  | none => unknownTag s n
  | some r =>
    let s := modReq s n r.id fun r => { r with done := true }
    match r.access.bind fun id => s.xl.accesses.find? fun a => a.id = id with
    | some a => if a.result.isSome || !a.issued then s else settle (endAccess (detach s n a.id) a.id 0xC)
    | none => s

/-- A ZRSP cell whose OP is not the one its command names. -/
def rspOp (s : State) (n : Nat) (c : Cell) (op : Nat) (f : State → State) : State :=
  nearTake s n c fun s =>
    if cType c ≠ 0xB then s
    else if zOp c > 3 then nearReset s n 3 false
    else if zOp c ≠ op then s else f (bump s (nearCnt n 5) 1)

/-! ## Configuration (R301, R314, R322, R323) -/

/-- A ring lies on a near port. -/
def ringOnNear (s : State) (n : Nat) : Bool :=
  let here (r : Option Ring) : Bool := match r with | some r => r.enabled && r.place = .near n | none => false
  (s.fns.any fun e => here (some e.2.ctlSq) || (e.2.ctlSq.enabled && e.2.ctlCq.place = .near n) ||
      (match e.2.eq with | some q => decide (q.place = .near n) | none => false)) ||
    (s.qps.any fun e => here e.2.sq || here e.2.rq) ||
    (s.cqs.any fun e => e.2.any fun q => decide (q.place = .near n)) || here (some s.mgrSq)

/-! ## MACs of a port in an Ethernet mode -/

def getMac (s : State) (k : Nat) : Mac := lget s.macs k Mac.reset
def modMac (s : State) (k : Nat) (f : Mac → Mac) : State := { s with macs := lmod s.macs k f }

/-- The link of a MAC goes down: a frame in transmission is lost (R359, Table 13.11). -/
def macDown (s : State) (k sent : Nat) : State :=
  let t := (getMac s k).tx
  let s := modMac s k fun m => { m with tx := none, linkUp := false, fecLock := false, localFault := true, ctlq := [] }
  match t.bind (·.raw) with
  | some (n, idx) => doneOp (modOp s n idx fun o => { o with staged := o.staged.take sent, total := min o.total sent }) n idx 0
  | none => s

/-- A MAC's link is lost where nothing tells how much of a frame had been sent: free (Table 13.11). -/
def macLost (s : State) (k : Nat) : State :=
  if !(getMac s k).linkUp then s else
    let r := draw s 14
    macDown r.2 k (r.1.toNat % (((getMac s k).tx.map (·.bytes)).getD 0 + 1))

/-- The MACs of some lanes of a near port lose their links. -/
def macsLost (s : State) (n : Nat) (ks : List Nat) : State := ks.foldl (fun s j => macLost s (4 * n + j)) s

/-- A write of NPT_CFG[n]: ENABLE, MODE and RESET_REQ each as R301 and R323 say. -/
def nptWrite (s : State) (n : Nat) (v : W64) : State :=
  let p := getNear s n
  let mode := fld v 1 2
  let ok := !p.enable && p.state = 0 && !ringOnNear s n && p.windows.all (fun w => w.2.len = 0)
  if mode = 3 || (mode ≠ p.modeNext.getD p.mode && !ok) then
    modNear (mark s (0x160040 + 8 * n) 4) n fun p => { p with cfgReject := true }
  else
    let on := bitAt v 0
    let s := modNear s n fun p => { p with
      enable := on, modeNext := if mode = p.mode then none else some mode }
    let s := if on then s else macsLost s n [0, 1, 2, 3]
    let s := if !on && p.state ≠ 0 then nearDark s n
      else if on && !p.enable then modNear s n fun p => { p with since := 0 } else s
    if bitAt v 3 then nearReset s n 4 false else s

/-- Accesses of requests translated through a window. -/
def windowUsers (s : State) (n w : Nat) : List Nat :=
  s.xl.accesses.filterMap fun a => match a.who with
    | .inbound m _ _ v => if m = n && v = w then some a.id else none
    | _ => none

/-- NPT_WINDOW_SET (R314, R315). -/
def windowSet (s : State) (d : Line) : State :=
  let w := dfld d 16 0 8
  let n := dfld d 17 0 2
  let fn := dfld d 18 0 16
  let ctx := dfld d 20 0 12
  let base := dfld d 24 0 57
  let len := dfld d 32 0 48
  match (if fn ≤ 512 then fnDom s fn else none) with
  | none => mgrFail s d 1
  | some dom =>
    if !nearBound s n dom then mgrFail s d 2
    else
      let old := (getNear s n).windows.lookup w
      let hbm := match s.xl.ctxs.lookup ctx with
        | some c => c.dom = dom && ctxCovers s ctx base len (fun g => g.target = 1)
        | none => false
      if len ≠ 0 && (base % 4096 ≠ 0 || len % 4096 ≠ 0 || !hbm) then mgrFail s d 3
      else
        let open_ := old.isSome
        let new : Window :=
          { fn := fn, ctx := ctx, base := base, len := len, readOk := dbit d 38 0, writeOk := dbit d 38 1
            waiting := (old.map (·.waiting)).getD [] ++ (if open_ then [(d, windowUsers s n w)] else []) }
        let s := modNear s n fun p => { p with windows := tput p.windows w new }
        if open_ then windowDone s n w else mgrOk s d

/-- Near ports at a tick: accepted modes and bindings take effect (R322, R323). -/
def nearTick (s : State) : State :=
  (List.range 4).foldl (fun s n =>
    let p := getNear s n
    let opened := p.bind.written ≠ p.bind.inForce
    let s := modNear s n fun p => { p with
      mode := p.modeNext.getD p.mode, modeNext := none, bind := { p.bind with inForce := p.bind.written } }
    if opened then portBack s n else s) s

/-- Engines of a near port are fit: no laser low, no shutdown (R328, R347). -/
def nearLit (s : State) (n : Nat) : Bool :=
  [8 + 2 * n, 9 + 2 * n].all fun e =>
    match s.engs[e]? with
    | some x => !x.laserLow && !x.shutdown && x.temp ≥ 10
    | none => false

/-- Close of a state's timeout (Table 11.2a). -/
def nearTimeout (st : Nat) : Option Nat :=
  match st with
  | 1 => some 80000000 | 2 => some 16000000 | 3 => some 1600000 | _ => none

/-- A PARAM of the far end is one the device accepts (R302, R305). -/
def paramOk (p : Line) : Bool :=
  let ok (off lo : Nat) : Bool := lo ≤ dfld p off 0 16 && dfld p off 0 16 ≤ 32767
  dfld p 0 0 8 = 1 && dbit p 1 0 && ok 2 64 && ok 4 64 && ok 6 8

end Sys2Proof.Machine
end

