-- ==== Sys2Proof/Machine/Usage.lean ====
section
/-! DEFINITION. Usage.lean: what jobs, descriptors and communicators hold: key slots, check sets, slots, ranges
(R230, R249, R264, R282, R291, R427). -/

namespace Sys2Proof.Machine

/-- A descriptor whose chain has one of the stages. -/
def chainHas (d : Line) (codes : List Nat) : Bool := (chainStages d).any fun c => codes.contains c

/-- An admitted descriptor, other than those of `but`, passes a test. -/
def anyWork (s : State) (ok : Line → Bool) (but : List (Nat × Nat) := []) : Bool :=
  s.qps.any fun e => e.2.ops.any fun o =>
    (match o.phase with | .done _ => false | .fetched => false | _ => true) && ok o.desc && !but.contains (e.1, o.idx)

/-- Zeroising: the key becomes zeros and KIND, DU, FRESH and KCV 0; OWNER stands (R282; log 22). An empty slot with OWNER 0
has no entry. -/
def zeroKeys (t : Tbl KeySlot) (ok : Nat → KeySlot → Bool) : Tbl KeySlot :=
  t.filterMap fun e =>
    if !ok e.1 e.2 then some e
    else if e.2.owner = 0 then none
    else some (e.1, { kind := 0, du := 0, owner := e.2.owner, key := 0, kcv := 0, used := true })

/-- The key a slot holds, none when it is empty. -/
def heldKey (s : State) (slot : Nat) : Option KeySlot := (s.keys.lookup slot).filter fun k => k.kind ≠ 0

/-- A CPH job of a chain stage of one of the descriptors. -/
def Job.chainOf (j : Job) (ops : List (Nat × Nat)) : Bool :=
  match j.chain with | some (n, i, _) => ops.contains (n, i) | none => false

/-- Condition 2 of Table 10.2: a QP not in RESET holds the slot, or a job or descriptor names it that was admitted, other than
those of `jobs` and `ops`. -/
def keyNamed (s : State) (slot : Nat) (jobs : List Nat) (ops : List (Nat × Nat)) : Bool :=
  (s.qps.any fun e => e.2.sealed && e.2.hadPeer && e.2.state ≠ .reset && (e.2.txSlot = slot || e.2.rxSlot = slot)) ||
  (s.zoo.jobs.any fun j => j.2.kind = 3 && j.2.keySlot = slot && !jobs.contains j.1 && !j.2.chainOf ops) ||
  anyWork s (fun d => chainHas d [3, 4] && dKeySlot d = slot) ops

/-- As `keyNamed`, of all that is admitted. -/
def keyBusy (s : State) (slot : Nat) : Bool := keyNamed s slot [] []

/-- An admitted job or descriptor names the check set (R291). -/
def chkBusy (s : State) (set : Nat) : Bool :=
  (s.zoo.jobs.any fun j => j.2.kind = 4 && j.2.chkSet = set) || anyWork s fun d => chainHas d [5] && dChkSet d = set

/-- Communicators of a domain. -/
def domComms (s : State) (c : Nat) : List (Nat × Comm) := s.col.comms.filter fun e => fnDom s e.2.fn = some c

def commCount (s : State) (c : Nat) : Nat := (domComms s c).length

/-- Reduction slots a domain's communicators hold, with those on their way back to its quota (R230). -/
def slotsReserved (s : State) (c : Nat) : Nat :=
  ((domComms s c).map (·.2.slots)).sum + ((s.col.back.filter fun b => b.1 = c).map (·.2)).sum

/-- A collective stage of the domain has started and not ended (R249, R434). -/
def startedStage (s : State) (c : Nat) : Bool :=
  (domComms s c).any fun e => e.2.run.any fun r => r.tx.any fun t => t.relayOf.isNone && t.dests.any fun m => !t.acked.contains m

/-- Job contexts of a domain in use: a collective holds one from admission to completion (R256). -/
def jobsUsed (s : State) (c : Nat) : Nat :=
  (s.zoo.jobs.filter fun j => j.2.dom = c && j.2.coll.isNone).length + ((domComms s c).map (·.2.run.length)).sum

/-- A job context is free for the domain (R256). -/
def jobFree (s : State) (c : Nat) : Bool :=
  (match getDom s c with | some d => decide (jobsUsed s c < d.cfg.jobQuota) | none => false) &&
  (s.zoo.jobs.filter fun j => j.2.coll.isNone).length + (s.col.comms.map (·.2.run.length)).sum < 16384

/-- A flow map or LIST_ADDR image lies in [lo, hi) of the domain's allocation (R427). -/
def mapsIn (s : State) (c lo hi : Nat) : Bool :=
  (domComms s c).any fun e =>
    (e.2.sched && e.2.flowMap < hi && lo < e.2.flowMap + 32768) ||
    (e.2.isList && e.2.listAddr < hi && lo < e.2.listAddr + 2 * e.2.coords.length)

/-- Drop every access of a job. -/
def dropJob (s : State) (j : Nat) : State :=
  closeEmptyFaults (modXl s fun x => { x with accesses := x.accesses.filter fun a =>
    match a.who with
    | .mov k _ => k ≠ j
    | .movOut k => k ≠ j
    | _ => true })

/-- A VF's fence cancels its jobs: an ENGINE_JOB completes KEY_INVALID with reason 1 (R264). -/
def cancelFnJobs (s : State) (n : Nat) : State :=
  s.zoo.jobs.foldl (fun s j =>
    if j.2.fn ≠ n then s else
      let s := dropJob { s with zoo := { s.zoo with jobs := tdel s.zoo.jobs j.1 } } j.1
      match j.2.cmd with
      | some d => mgrFail s d 1
      | none => s) s

end Sys2Proof.Machine
end

