-- ==== Sys2Proof/Machine/Carrels.lean ====
section
/-! DEFINITION. Carrels.lean: staging and committing domains, suspension, and VF reset (R422 to R437, R441, R444). -/

namespace Sys2Proof.Machine

open Host (Outcome)

/-! ## The carrel descriptor (R425) -/

/-- Field of a descriptor held as bytes: byte offset, low bit, width. -/
def bfld (bs : List Byte) (off lo w : Nat) : Nat := (natOf ((bs.drop off).take 8) >>> lo) % 2 ^ w

/-- CARREL and configuration of a 704-byte descriptor (Table 16.3). -/
def parseCarrel (bs : List Byte) : Nat × DomCfg :=
  let n := bfld bs 2 0 9
  (bfld bs 0 0 7,
   { granules := (List.range n).map fun i => bfld bs (128 + 2 * i) 0 16
     qpBase := bfld bs 4 0 20, qpCount := bfld bs 8 0 21, regionBase := bfld bs 12 0 18, regionCount := bfld bs 16 0 19
     ctxBase := bfld bs 20 0 12, ctxCount := bfld bs 22 0 13, keyBase := bfld bs 24 0 11, keyCount := bfld bs 26 0 12
     trigBase := bfld bs 28 0 16, trigCount := bfld bs 32 0 17, jobQuota := bfld bs 36 0 15, commQuota := bfld bs 38 0 13
     slotQuota := bfld bs 40 0 12, deferredQuota := bfld bs 44 0 17, transport := bfld bs 48 0 9, stashMib := bfld bs 50 0 16
     weights := (List.range 6).map fun i => bfld bs (52 + i) 0 8
     vfs := ofBytes 512 ((bs.drop 64).take 64) })

/-- The descriptor of a configuration (Table 16.3). -/
def carrelBytes (c : Nat) (f : DomCfg) : List Byte :=
  let head : Line := layout 512 [(0, 7, c), (16, 9, f.granules.length), (32, 20, f.qpBase), (64, 21, f.qpCount),
    (96, 18, f.regionBase), (128, 19, f.regionCount), (160, 12, f.ctxBase), (176, 13, f.ctxCount), (192, 11, f.keyBase),
    (208, 12, f.keyCount), (224, 16, f.trigBase), (256, 17, f.trigCount), (288, 15, f.jobQuota), (304, 13, f.commQuota),
    (320, 12, f.slotQuota), (352, 17, f.deferredQuota), (384, 9, f.transport), (400, 16, f.stashMib),
    (416, 48, natOf (f.weights.map fun w => BitVec.ofNat 8 w))]
  bytesOf head ++ bytesOf f.vfs ++ padTo 568 (f.granules.flatMap fun g => leBytes 2 g) ++ List.replicate 8 0

/-- A hole of GRANULE_LIST. -/
def hole : Nat := 0xFFFF

/-- Every field is within the limits of Table 16.3 and the pools of Table 16.4. -/
def carrelFields (c : Nat) (f : DomCfg) (bs : List Byte) : Bool :=
  c ≤ 64 && f.granules.length ≤ 284 &&
  (f.granules.all fun g => g = hole || (4 ≤ g && g ≤ 287)) &&
  ((List.range 284).all fun i => i < f.granules.length || bfld bs (128 + 2 * i) 0 16 = 0) &&
  (f.qpCount = 0 || (1 ≤ f.qpBase && f.qpBase + f.qpCount ≤ 2 ^ 20)) && (f.regionBase + f.regionCount ≤ 262144) &&
  (f.ctxBase + f.ctxCount ≤ 4096) && (f.keyBase + f.keyCount ≤ 2048) && (f.trigBase + f.trigCount ≤ 65536) &&
  f.jobQuota ≤ 16384 && f.commQuota ≤ 4096 && f.slotQuota ≤ 3072 && f.deferredQuota ≤ 65536 &&
  (c ≠ 64 || (f.keyCount = 0 && f.vfs = 0))

/-- Configurations in force at the next tick, of every domain (R429). -/
def nextCfgs (s : State) : Tbl DomCfg :=
  let base := (s.doms.filter fun e => e.2.destroyNext.isNone).map fun e => (e.1, e.2.cfg)
  s.stages.foldl (fun t e => tput t e.1 e.2.1) base

/-- Two ranges meet. -/
def meets (a n b m : Nat) : Bool := n ≠ 0 && m ≠ 0 && a < b + m && b < a + n

/-- Check 2 of Table 16.5 against another domain. -/
def cfgMeets (f g : DomCfg) : Bool :=
  meets f.qpBase f.qpCount g.qpBase g.qpCount || meets f.regionBase f.regionCount g.regionBase g.regionCount ||
  meets f.ctxBase f.ctxCount g.ctxBase g.ctxCount || meets f.keyBase f.keyCount g.keyBase g.keyCount ||
  meets f.trigBase f.trigCount g.trigBase g.trigCount

/-- Quotas and their pools (R426). -/
def quotas : List ((DomCfg → Nat) × Nat) :=
  [(DomCfg.jobQuota, 16384), (DomCfg.commQuota, 4096), (DomCfg.slotQuota, 3072), (DomCfg.deferredQuota, 65536)]

/-- Entry i of a granule list, a hole past its end. -/
def granAt (f : DomCfg) (i : Nat) : Nat := f.granules.getD i hole

/-- Granules a stage adds to a domain. -/
def newGranules (old f : DomCfg) : List Nat :=
  ((List.range f.granules.length).filter fun i => granAt f i ≠ hole && granAt old i ≠ granAt f i).map (granAt f)

/-- Check 2 of Table 16.5: ranges, quotas and granules free of every other domain, no granule under zero fill. -/
def stageClashes (s : State) (c : Nat) (old f : DomCfg) : Bool :=
  let others := (nextCfgs s).filter fun e => e.1 ≠ c
  let fresh := newGranules old f
  (others.any fun e => cfgMeets f e.2) ||
  (quotas.any fun q => others.foldl (fun n e => n + q.1 e.2) (q.1 f) > q.2) ||
  (fresh.any fun g => !s.glb.filled.contains g || (others.any fun e => e.2.granules.contains g) ||
    (s.doms.any fun e => e.1 ≠ c && e.2.cfg.granules.contains g) ||
    (f.granules.filter (· = g)).length > 1)

/-- A function owns something that keeps its VF in its carrel (Table 16.5). -/
def fnOwns (s : State) (n : Nat) : Bool :=
  (s.qps.any fun e => e.2.fn = n) || (s.regions.any fun e => e.2.fn = n) || (s.keys.any fun e => e.2.owner = n && e.2.kind ≠ 0) ||
  (s.near.any fun p => p.windows.any fun w => w.2.fn = n) || (s.peers.any fun e => e.2.fn = n) ||
  (s.filters.any fun e => ((getQp s e.2.qp).map fun q => decide (q.fn = n)).getD false) || (s.xl.ctxs.any fun e => e.2.atsFn = n)

/-- VFs of a map. -/
def vfsOf (m : BitVec 512) : List Nat := ((List.range 512).filter fun i => bitAt m i).map (· + 1)

/-- Check 3 of Table 16.5. -/
def vfsBad (s : State) (c : Nat) (old f : DomCfg) : Bool :=
  ((vfsOf (old.vfs &&& ~~~ f.vfs)).any fun n => (getFn s n).state ≠ .disabled || fnOwns s n) ||
  ((vfsOf (f.vfs &&& ~~~ old.vfs)).any fun n => (getFn s n).state ≠ .disabled ||
    ((nextCfgs s).any fun e => e.1 ≠ c && bitAt e.2.vfs (n - 1)))

/-- A range [lo, hi) of a domain's allocation holds something named (R427). -/
def rangeUsed (s : State) (c lo hi : Nat) : Bool :=
  let covers (a n : Nat) : Bool := a < hi && lo < a + n && n ≠ 0
  let ringIn (r : Ring) : Bool := r.place = .hbm && r.dom = c && covers r.addr (64 * 2 ^ r.log2)
  let cqIn (q : CqRing) : Bool := q.place = .hbm && q.dom = c && covers q.addr (q.entry * 2 ^ q.log2)
  (s.xl.ctxs.any fun e => e.2.dom = c && e.2.segs.any fun g => g.2.target = 1 && covers g.2.tbase g.2.len) ||
  (s.qps.any fun e => (e.2.sq.map ringIn).getD false || (e.2.rq.map ringIn).getD false) ||
  (s.cqs.any fun e => e.2.any cqIn) ||
  (s.fns.any fun e => (bitAt e.2.ctlCfg 4 && ringIn e.2.ctlSq) || (bitAt e.2.ctlCfg 4 && cqIn e.2.ctlCq) ||
    (e.2.eq.map cqIn).getD false) ||
  (bitAt s.mgrCfg 4 && (ringIn s.mgrSq || cqIn s.mgrCq)) ||
  (c = 64 && bitAt s.xl.logCfg 5 && covers (fld s.xl.logBase 6 33 * 64) (64 * 2 ^ fld s.xl.logCfg 0 5)) ||
  (c = 64 && journalCap s ≠ 0 && covers (journalBase s) (128 + 128 * journalCap s)) ||
  (c = 64 && s.sched.sets.any fun g => covers g.imgBase g.imgLen) ||
  ((s.cnt.carrelRings ++ s.cnt.carrelNext).any fun e => e.1 = c && e.2.enable && covers e.2.offset (2304 * 2 ^ e.2.log2)) ||
  mapsIn s c lo hi

/-- Check 4 of Table 16.5: the reason a shrink or removal is refused with, 0 when it is allowed (Table 16.4, R427). -/
def shrinkReason (s : State) (c : Nat) (old f : DomCfg) : Nat :=
  let gone (b n b' n' x : Nat) : Bool := b ≤ x && x < b + n && !(b' ≤ x && x < b' + n')
  if (s.qps.any fun e => gone old.qpBase old.qpCount f.qpBase f.qpCount e.1) ||
     (s.regions.any fun e => gone old.regionBase old.regionCount f.regionBase f.regionCount e.1) ||
     (s.xl.ctxs.any fun e => gone old.ctxBase old.ctxCount f.ctxBase f.ctxCount e.1) ||
     (s.keys.any fun e => gone old.keyBase old.keyCount f.keyBase f.keyCount e.1 && keyBusy s e.1) ||
     (s.qps.any fun e => qpDom s e.2 = c && e.2.pairs.any fun p =>
        gone old.trigBase old.trigCount f.trigBase f.trigCount (dfld p.slot 16 0 16)) ||
     f.commQuota < commCount s c || f.slotQuota < slotsReserved s c then 2
  else if (List.range old.granules.length).any fun i =>
      granAt old i ≠ hole && i < f.granules.length && granAt f i ≠ hole && granAt f i ≠ granAt old i then 3
  else if (List.range old.granules.length).any fun i =>
      (i ≥ f.granules.length || (granAt old i ≠ hole && granAt f i = hole)) &&
      rangeUsed s c (i * granuleSize) ((i + 1) * granuleSize) then 2
  else 0

/-- The first check of Table 16.5 that fails, as its reason; 0 when none does. -/
def stageReason (s : State) (c : Nat) (f : DomCfg) (bs : List Byte) : Nat :=
  let cur := getDom s c
  let old := (cur.map (·.cfg)).getD DomCfg.empty
  if !carrelFields c f bs then 3
  else if stageClashes s c old f then 4
  else if vfsBad s c old f || ((cur.bind (·.destroyNext)).isSome) then 2
  else if shrinkReason s c old f ≠ 0 then shrinkReason s c old f
  else if f.transport = 0 || f.transport > f.granules.length || (f.granules.take f.transport).contains hole ||
      f.stashMib > f.transport * 1024 then 3
  else if cur.isSome && f.transport ≠ old.transport &&
      (!((cur.map (·.quiesced)).getD false) || rangeUsed s c 0 (f.transport * granuleSize)) then 2
  else 0

/-- CARREL_STAGE (R429, R430). -/
def carrelStage (s : State) (d : Line) : State :=
  let off := dfld d 16 0 39
  match (if off % 64 = 0 && domNamed s 64 off 704 && !allocPoison s 64 off 704 then rdAlloc s 64 off 704 else none) with
  | none => mgrFail s d 3
  | some bs =>
    let p := parseCarrel bs
    let r := stageReason s p.1 p.2 bs
    if r ≠ 0 then mgrFail s d r else
      let disp := match s.stages.lookup p.1 with | some x => x.2.2 ++ [x.2.1] | none => []
      { s with stages := tput s.stages p.1 (p.2, d, disp) }

/-- CARREL_DESTROY (R431). -/
def carrelDestroy (s : State) (d : Line) : State :=
  let c := dfld d 16 0 6
  match getDom s c with
  | none => mgrFail s d 1
  | some dom =>
    let vfs := vfsOf dom.cfg.vfs
    if !vfs.isEmpty || (s.qps.any fun e => dom.cfg.qpBase ≤ e.1 && e.1 < dom.cfg.qpBase + dom.cfg.qpCount) ||
       (s.regions.any fun e => dom.cfg.regionBase ≤ e.1 && e.1 < dom.cfg.regionBase + dom.cfg.regionCount) ||
       (s.xl.ctxs.any fun e => e.2.dom = c) || commCount s c ≠ 0 || dom.allocLog.isSome ||
       (s.stages.lookup c).isSome || dom.destroyNext.isSome then mgrFail s d 2
    else modDom s c fun x => { x with destroyNext := some d }

/-- CARREL_SUSPEND and CARREL_RESUME (R433). -/
def carrelSuspend (s : State) (d : Line) (suspend : Bool) : State :=
  let c := dfld d 16 0 7
  if c ≥ 64 then mgrFail s d 3 else
    match getDom s c with
    | none => mgrFail s d 1
    | some dom =>
      let disp := match dom.suspendNext with | some x => x.2.2 ++ [x.2.1] | none => []
      modDom s c fun x => { x with suspendNext := some (suspend, d, disp) }

/-! ## Commit at a tick (R430, R431, R433, R434) -/

/-- A granule is released: it is under zero fill from now on (R275, R427). -/
def releaseGranule (s : State) (g : Nat) : State :=
  if g = hole then s else modGlb s fun b => { b with filled := b.filled.filter (· ≠ g) }

/-- Key slots are zeroised (R283). -/
def zeroiseSlots (s : State) (ok : Nat → KeySlot → Bool) : State := { s with keys := zeroKeys s.keys ok }

/-- Trigger counters go to 0. -/
def clearTrigs (s : State) (ok : Nat → Bool) : State := { s with trig := s.trig.filter fun e => ¬ ok e.1 }

/-- A new carrel starts with V, F and F_last 0 at every output (R448), and nothing counted by its policer. -/
def newTags (s : State) (c : Nat) : State :=
  let zero (o : Output) : Output := { o with carrelTags := tdel o.carrelTags c, carrelV := tdel o.carrelV c }
  { s with latOut := zero s.latOut, macOut := tmap s.macOut fun _ o => zero o, police := tupd s.police c fun p => { p with count := 0 } }

/-- A stage commits. -/
def commitStage (s : State) (c : Nat) (f : DomCfg) : State :=
  let old := ((getDom s c).map (·.cfg)).getD DomCfg.empty
  let s := (List.range old.granules.length).foldl (fun s i =>
    if granAt f i = granAt old i then s else releaseGranule s (granAt old i)) s
  let out (b n b' n' x : Nat) : Bool := b ≤ x && x < b + n && !(b' ≤ x && x < b' + n')
  let s := zeroiseSlots s fun k _ => out old.keyBase old.keyCount f.keyBase f.keyCount k
  let s := clearTrigs s fun t => out old.trigBase old.trigCount f.trigBase f.trigCount t
  let s := (vfsOf (old.vfs &&& ~~~ f.vfs)).foldl (fun s n => modFn s n fun x => { x with enableNext := false, enable := false }) s
  let s := if (getDom s c).isSome then s else modCnt (newTags s c) fun x => { x with
    fixed := x.fixed.filter fun e => ¬ (domCnt c 0 ≤ e.1 && e.1 < domCnt c 16) }
  let s := { s with doms := tput s.doms c (match getDom s c with | some x => { x with cfg := f } | none => Domain.new f) }
  modCnt s fun x => { x with commit := true }

/-- Stages, destructions and suspensions of the folio just ended commit (R430, R431, R433, R444). -/
def commitCarrels (s : State) : State :=
  let s := s.stages.foldl (fun s e =>
    let s := commitStage s e.1 e.2.1
    mgrOk (e.2.2.2.foldl (fun s d => mgrOk s d 1) s) e.2.2.1) { s with stages := [] }
  let s := s.doms.foldl (fun s e =>
    match e.2.destroyNext with
    | none => s
    | some d =>
      let f := e.2.cfg
      let s := f.granules.foldl releaseGranule s
      let s := zeroiseSlots s fun k _ => f.keyBase ≤ k && k < f.keyBase + f.keyCount
      let s := clearTrigs s fun t => f.trigBase ≤ t && t < f.trigBase + f.trigCount
      let waits := e.2.schedNext ++ match e.2.suspendNext with | some (_, x, disp) => disp ++ [x] | none => []
      let s := waits.foldl (fun s x => mgrFail s x 1) s
      mgrOk (modCnt { s with doms := tdel s.doms e.1 } fun x => { x with
        carrelRings := tdel x.carrelRings e.1, carrelNext := tdel x.carrelNext e.1 }) d) s
  s.doms.foldl (fun s e =>
    match e.2.suspendNext with
    | none => s
    | some (susp, d, disp) =>
      let s := modDom s e.1 fun x =>
        if susp then (if x.suspended then { x with suspendNext := none }
                      else { x with suspended := true, suspendedAt := s.folio, suspendNext := none })
        else { x with suspended := false, quiesced := false, suspendNext := none }
      mgrOk (disp.foldl (fun s d => mgrOk s d 1) s) d) s

/-- A carrel holds none of what keeps it from QUIESCED (R434). -/
def carrelIdle (s : State) (c : Nat) : Bool :=
  (s.qps.all fun e => qpDom s e.2 ≠ c ||
    ((e.2.tx.all fun t => t.acked || t.next = 0) && (e.2.rx.all (·.delivered)) && e.2.stash.isEmpty)) &&
  stalledUse s c = 0 && !startedStage s c && (s.zoo.jobs.all fun e => e.2.dom ≠ c || e.2.coll.isNone || e.2.work = []) && (domComms s c).all fun e => e.2.stash.isEmpty

/-- QUIESCED at a tick (R434). -/
def quiesceTick (s : State) : State :=
  { s with doms := s.doms.map fun e =>
    (e.1, if e.2.suspended && e.2.suspendedAt < s.folio && carrelIdle s e.1 then { e.2 with quiesced := true } else e.2) }

/-! ## VF reset (R435 to R437) -/

/-- A VF's TRN_CTL_CFG as it was before the writes of this cycle, its ring's indices kept: they come too late in the cycle of
a reset trigger (Table 22.10). -/
def ctlUndo (s : State) (n : Nat) : State :=
  match s.cyc.ctlWas.lookup n with
  | none => s
  | some f => modFn (dropFetches s (.ctlSq n)) n fun g => { g with
      ctlCfg := f.ctlCfg, ctlErr := f.ctlErr, ctlSq := f.ctlSq
      ctlCq := { f.ctlCq with pIdx := g.ctlCq.pIdx, cIdx := g.ctlCq.cIdx } }

/-- A reset trigger of a VF: a new reset starts, or it joins the running one and sets its end state. -/
def vfTrigger (s : State) (n : Nat) (endEnabled : Bool) (cmd : Option Line) : State :=
  modFn (if (getFn s n).state = .quiescing then s else ctlUndo s n) n fun f =>
    let f := { f with waiters := f.waiters ++ cmd.toList, endEnabled := endEnabled }
    if f.state = .quiescing then f
    else { f with state := .quiescing, fence := some (s.folio + 1), fenced := false, cleaned := false, enableNext := false }

/-- VF_RESET (R435). -/
def vfReset (s : State) (d : Line) : State :=
  let n := dfld d 16 0 10
  if n = 0 || n > 512 then mgrFail s d 3
  else if (fnDom s n).isNone then mgrFail s d 1
  else vfTrigger s n true (some d)

/-- A write of CAR_VF[n] (Table 16.11, R423, R435, R437). -/
def vfWrite (s : State) (n : Nat) (v : W64) : State :=
  let s := if bitAt v 4 then modFn s n fun f => { f with resetSeen := false } else s
  if (fnDom s n).isNone then s
  else
    let s := modFn s n fun f => { f with enable := bitAt v 0 }
    match (getFn s n).state with
    | .enabled => if bitAt v 0 then s else vfTrigger s n false none
    | .quiescing => modFn s n fun f => { f with endEnabled := bitAt v 0 }
    | .disabled => modFn s n fun f => { f with enableNext := bitAt v 0 }

/-- An access made for a function: through its rings, QPs, jobs and collectives, or through its inbound windows. -/
def madeFor (s : State) (n : Nat) (a : Access) : Bool :=
  match a.who with
  | .inbound p _ _ w => ((getNear s p).windows.lookup w).map (·.fn) = some n
  | _ => accessFn s a = n

/-- Requests of a function that are out. -/
def awaitedBy (s : State) (n : Nat) : List Awaited :=
  (s.xl.accesses.filter fun a => a.result.isNone && madeFor s n a).flatMap (fun a =>
    (if a.issued then [Awaited.access a.id] else []) ++
    if a.xlatReq then [Awaited.xlat a.fn (a.pasid.getD 0) (a.addr / 4096)] else []) ++
  (s.zoo.jobs.filter fun j => j.2.fn = n).map fun j => .job j.1

/-- The fence of a VF reset takes effect at its tick: fetch, admission and every write on its behalf stop, what is not issued
never is, its QPs enter ERROR (Table 16.8, R436, R146). A write an endpoint sent through its windows is answered as one
through a closed window (log 127). -/
def fenceVf (s : State) (n : Nat) : State :=
  let s := modFn s n fun f => { f with fenced := true, awaits := awaitedBy s n }
  let stops (a : Access) : Bool := a.result.isNone && madeFor s n a &&
    (match a.who with
     | .inbound _ _ _ _ => a.write
     | _ => a.fault.isSome || !a.issued || (a.write && a.place = .hbm))
  let writes := s.xl.accesses.filter stops
  let s := closeEmptyFaults (modXl s fun x => { x with accesses := x.accesses.filter fun a => !stops a })
  let s := writes.foldl (fun s a => match a.who with
    | .inbound p tag addr _ => zError s p tag addr 1
    | _ => s) s
  let s := cancelFnJobs s n
  s.qps.foldl (fun s e => if e.2.fn = n && e.2.state ≠ .reset then enterError s e.1 none 8 0 true else s) s

/-- The clean-up of a VF reset (Table 16.8). -/
def cleanVf (s : State) (n : Nat) : State :=
  let s := zeroiseSlots s fun _ k => k.owner = n
  let s := s.regions.foldl (fun s e =>
    if e.2.fn ≠ n then s else
      let s := match s.xl.ctxs.lookup e.2.ctx with
        | some c => if e.2.pinned then unpinRange s c (segSpans c 17 e.2.base e.2.len) else s
        | none => s
      let s := { s with regions := tdel s.regions e.1 }
      match e.2.waiting with | some d => mgrOk s d | none => s) s
  let waits := s.near.flatMap fun p => (p.windows.filter fun w => w.2.fn = n).flatMap fun w => w.2.waiting.map (·.1)
  let s := waits.foldl (fun s d => mgrOk s d) { s with
    near := s.near.map fun p => { p with windows := p.windows.filter fun w => w.2.fn ≠ n } }
  let qps := tmap s.qps fun _ q => if q.fn = n then { q with sq := none, rq := none } else q
  let s := modXl { s with qps := qps, cqs := tdel s.cqs n } fun x => { x with accesses := x.accesses.filter fun a =>
    match a.who with
    | .fetch _ => a.fn ≠ n
    | .record _ _ => a.fn ≠ n
    | _ => true }
  modFn s n fun f => { f with
    eq := none, ctlBase := 0, ctlCfg := 4, ctlErr := false, ctlSq := Ring.none_ n, ctlCq := CqRing.none_ n 0 false
    msix := [], cleaned := true }

/-- VF fences, clean-ups and enables due at a tick (Table 16.8, R437). -/
def vfTick (s : State) : State :=
  let s := s.fns.foldl (fun s e => if e.2.enableNext then
      modFn s e.1 fun f => { f with state := .enabled, enableNext := false } else s) s
  let s := s.fns.foldl (fun s e => if e.2.state = .quiescing && e.2.fenced && !e.2.cleaned then cleanVf s e.1 else s) s
  s.fns.foldl (fun s e =>
    if e.2.state = .quiescing && !e.2.fenced && (match e.2.fence with | some k => decide (k ≤ s.folio) | none => false)
    then fenceVf s e.1 else s) s

/-- A request is still out. -/
def unanswered (s : State) : Awaited → Bool
  | .access i => (s.cxl.reads.any fun e => e.2.access = i) || (s.cxl.cacheReqs.any fun e => e.2.access = some i) ||
      s.near.any fun p => p.tags.any fun r => r.sent && !r.done && r.access = some i
  | .job j => s.cxl.cacheReqs.any fun e => e.2.job = some j
  | .xlat _ _ _ => !s.cxl.lost

/-- Every request of a VF issued before its fence has been answered (R436). -/
def vfAnswered (s : State) (n : Nat) : Bool := (getFn s n).awaits.all fun a => !unanswered s a

/-- The end of a VF reset (R436, R437). -/
def vfResetDone (s : State) (n : Nat) : State :=
  let f := getFn s n
  match f.fence with
  | none => s
  | some k =>
    if f.state ≠ .quiescing || !f.cleaned || !(vfAnswered s n || k * s.F + 14400000 ≤ s.now) then s else
      let s := modFn (mark s (0x1A1000 + 8 * (n - 1)) 4) n fun f => { f with
        state := .disabled, fence := none, fenced := false, cleaned := false, waiters := [], awaits := [], enableNext := f.endEnabled
        resetSeen := true, resets := sat 65535 (f.resets + 1) }
      let s := codexHand s 0x70 (fnSource n) (carrelField ((fnDom s n).getD 64)) (codexCause 0 n)
      f.waiters.foldl (fun s d => mgrOk s d) s

/-- Resets that have come to their end: cleaned up, and every request answered (R436). -/
def resetPump (s : State) : State := s.fns.foldl (fun s e => if e.2.cleaned then vfResetDone s e.1 else s) s


end Sys2Proof.Machine
end

