-- ==== Sys2Proof/Machine/Check.lean ====
section
/-! DEFINITION. Check.lean: CRC parameter sets and their run (R289 to R293), key slots and their registers (R280 to
R284). -/

namespace Sys2Proof.Machine

open Host (Outcome)

/-! ## CRC (R289, R290) -/

/-- The low `w` bits of `v` in reverse order. -/
def reflect (w v : Nat) : Nat := (List.range w).foldl (fun r i => r * 2 + v / 2 ^ i % 2) 0

/-- One byte of R289. -/
def chkByte (c : ChkSet) (v : Nat) (b : Byte) : Nat :=
  let x := if c.refIn then reflect 8 b.toNat else b.toNat
  (List.range 8).foldl (fun v _ =>
    if v / 2 ^ (c.width - 1) % 2 = 1 then ((v * 2) ^^^ c.poly) % 2 ^ c.width else v * 2 % 2 ^ c.width)
    (v ^^^ (x * 2 ^ (c.width - 8)))

/-- V after a string of bytes. -/
def crcRun (c : ChkSet) (v : Nat) (bs : List Byte) : Nat := bs.foldl (chkByte c) v

/-- The result of R289 for a running value. -/
def crcResult (c : ChkSet) (v : Nat) : Nat := (if c.refOut then reflect c.width v else v) ^^^ c.xorOut

/-- The fixed sets (Table 10.4). -/
def fixedSet (n : Nat) : Option ChkSet :=
  let mk (w poly init : Nat) (r : Bool) (x : Nat) : Option ChkSet := some ⟨0, w, poly, init, r, r, x, false⟩
  match n with
  | 0x0 => mk 32 0x1EDC6F41 0xFFFFFFFF true 0xFFFFFFFF
  | 0x1 => mk 32 0x04C11DB7 0xFFFFFFFF true 0xFFFFFFFF
  | 0x2 => mk 32 0x04C11DB7 0xFFFFFFFF false 0xFFFFFFFF
  | 0x3 => mk 32 0x04C11DB7 0xFFFFFFFF false 0
  | 0x4 => mk 64 0x42F0E1EBA9EA3693 0xFFFFFFFFFFFFFFFF true 0xFFFFFFFFFFFFFFFF
  | 0x5 => mk 64 0x42F0E1EBA9EA3693 0 false 0
  | 0x6 => mk 16 0x8005 0 true 0
  | 0x7 => mk 16 0x1021 0xFFFF false 0
  | 0x8 => mk 16 0x1021 0 true 0
  | 0x9 => mk 16 0x8BB7 0 false 0
  | 0xA => mk 8 0x07 0 false 0
  | 0xB => mk 24 0x864CFB 0xB704CE false 0
  | _ => none

/-- A set a function may use (R290, R291). -/
def chkSetFor (s : State) (fn set : Nat) : Option ChkSet :=
  match fixedSet set with
  | some c => some c
  | none =>
    match s.zoo.chkSets.lookup set with
    | some c => if fn = 0 || (fnDom s c.fn).isSome && fnDom s c.fn = fnDom s fn then some c else none
    | none => none

/-- CHK_SET_DEFINE (R291): reason 1 before 3, 3 before 2. It follows the admissions of its cycle (Table 10.9). -/
def chkDefine (s : State) (d : Line) : State :=
  let set := dfld d 16 0 16
  let fn := dfld d 18 0 16
  let w := dfld d 20 0 7
  let c : ChkSet := ⟨fn, w, dfld d 24 0 64, dfld d 32 0 64, dbit d 20 7, dbit d 21 0, dfld d 40 0 64, dbit d 21 1⟩
  if fn > 512 || (fnDom s fn).isNone then mgrFail s d 1
  else if set < 0x10 || set > 0x40F || w < 8 || w > 64 || c.poly ≥ 2 ^ w || c.init ≥ 2 ^ w || c.xorOut ≥ 2 ^ w then mgrFail s d 3
  else if chkBusy s set then mgrFail s d 2
  else mgrOk { s with zoo := { s.zoo with chkSets := tput s.zoo.chkSets set c } } d

/-! ## Key slots (R280 to R283) -/

/-- The carrel whose pool holds a slot. -/
def slotCarrel (s : State) (slot : Nat) : Option Nat :=
  (s.doms.find? fun e => e.1 < 64 && e.2.cfg.keyBase ≤ slot && slot < e.2.cfg.keyBase + e.2.cfg.keyCount).map (·.1)

/-- KEY_LOAD_DATA[i] (R281). -/
def keyData (s : State) (i : Nat) (v : W64) : State :=
  { s with keyLoad := { s.keyLoad with
    data := lmod s.keyLoad.data i fun _ => v, mask := s.keyLoad.mask ||| 2 ^ i } }

/-- The staging buffer and DATA_MASK are cleared (R534). -/
def clearStaging (s : State) : State := { s with keyLoad := { s.keyLoad with data := List.replicate 8 0, mask := 0 } }

/-- A write of KEY_LOAD_DATA[i] lands at the end of its cycle, behind a GO (Table 22.10). -/
def keyStage (s : State) (i : Nat) (v : W64) : State := modCyc s fun c => { c with staged := c.staged ++ [(i, v)] }

/-- The staging buffer at the end of a cycle: the writes of the cycle land behind its GO, and a link loss clears the buffer
behind both (R394, Table 22.10). -/
def stageCycle (s : State) : State :=
  let c := s.cyc
  let s := c.staged.foldl (fun s x => keyData s x.1 x.2) (modCyc s fun c => { c with staged := [], unstage := false })
  if c.unstage then clearStaging s else s

/-- The 512 bits staged. -/
def stagedKey (s : State) : BitVec 512 := layout 512 (s.keyLoad.data.zipIdx.map fun x => (64 * x.2, 64, x.1.toNat))

/-- The first condition of Table 10.2 that holds, 0 when none does. A zeroise comes before the admissions of its cycle
(Table 10.9). -/
def goRefusal (s : State) (v : W64) (load : Bool) : Nat :=
  let slot := fld v 0 11
  let kind := fld v 16 2
  let owner := fld v 24 10
  let key := stagedKey s
  match slotCarrel s slot with
  | none => 1
  | some c =>
    if owner ≠ 0 && fnDom s owner ≠ some c then 1
    else if (if load then keyBusy s slot else keyNamed s slot s.cyc.newJobs s.cyc.newOps) then 2
    else if load && (kind = 0 || kind = 3 || (kind = 1 && fld key 0 256 = fld key 256 256)) then 3
    else if load && ((kind = 1 && s.keyLoad.mask ≠ 0xFF) || (kind = 2 && s.keyLoad.mask % 16 ≠ 15)) then 4
    else 0

/-- KCV: three bytes of the encryption of sixteen 0x5A under the key, Key1 for XTS (R282). -/
def kcvOf (key : BitVec 512) : Nat := natOf ((aesEnc (aesKeys ((bytesOf key).take 32)) (List.replicate 16 0x5A)).take 3)

/-- An ENGINE_JOB admitted in the cycle of the zeroise is refused after all: its slot is empty (Table 10.9, R284). A chain
stage finds that itself. -/
def refuseNew (s : State) (slot : Nat) : State :=
  s.cyc.newJobs.foldl (fun s i => match s.zoo.jobs.lookup i with
    | some j =>
      if j.kind ≠ 3 || j.keySlot ≠ slot then s else
        let s := { s with zoo := { s.zoo with jobs := tdel s.zoo.jobs i } }
        match j.cmd with
        | some d => mgrFail s d 3
        | none => s
    | none => s) s

/-- A GO (R281, R282): the buffer and DATA_MASK are cleared whatever comes of it; LOAD_ERROR and ERROR_CODE stand until
LOAD_ERROR is written 1 or another GO is refused (log 124). -/
def keyGo (s : State) (v : W64) (load : Bool) : State :=
  let slot := fld v 0 11
  let r := goRefusal s v load
  let kind := fld v 16 2
  let key : BitVec 512 := if kind = 1 then stagedKey s else (stagedKey s).extractLsb' 0 256 |>.setWidth 512
  let kl := { s.keyLoad with ctl := v &&& 0x3FF1F07FF, data := List.replicate 8 0, mask := 0 }
  if r ≠ 0 then mark { s with keyLoad := { kl with error := true, code := r } } 0x1E0008 0
  else if load then
    let k : KeySlot :=
      { kind := kind, du := if kind = 1 then fld v 18 3 else 0, owner := fld v 24 10, key := key, kcv := kcvOf key, used := false }
    { s with keys := tput s.keys slot k, keyLoad := { kl with kcv := k.kcv } }
  else refuseNew { s with keys := zeroKeys s.keys fun n _ => n = slot, keyLoad := kl } slot

end Sys2Proof.Machine
end

