-- ==== Sys2Proof/Machine/Jobs.lean ====
section
/-! DEFINITION. Jobs.lean: what the operations of the engine zoo compute, their steps and cycles (R254 to R270, R285 to
R295). -/

namespace Sys2Proof.Machine

/-! ## Engines (Table 2.3, Table 9.8) -/

/-- First bit of ENG_FENCED, first source number and number of engines of a kind. -/
def engBase (k : Nat) : Nat := [0, 16, 24, 28, 36, 40].getD k 56
def engFirst (k : Nat) : Source := [0x40, 0x50, 0x58, 0x60, 0x68, 0x70].getD k 0x80
def engCount (k : Nat) : Nat := [16, 8, 4, 8, 4, 16].getD k 0

/-- Kind of a bit of ENG_FENCED. -/
def bitKind (b : Nat) : Nat := if b < 16 then 0 else if b < 24 then 1 else if b < 28 then 2 else if b < 36 then 3 else if b < 40 then 4 else 5

/-- Source number of a bit of ENG_FENCED. -/
def bitSource (b : Nat) : Source := engFirst (bitKind b) + (b - engBase (bitKind b))

/-- Working engines of a kind, ascending (R272). -/
def working (s : State) (k : Nat) : List Nat := (List.range (engCount k)).filter fun n => !s.zoo.fenced.contains (engBase k + n)

/-- The quantum bound in cycles (R11). -/
def quantumBound (s : State) : Nat := [3161, 6387, 12838].getD s.time.fsize 6387

/-! ## Results -/

/-- What an operation writes: its bytes, the ranges of them that are marked poisoned, its status. -/
structure JobOut where
  bytes : List Byte
  bad : List (Nat × Nat)
  status : Nat

def JobOut.fail : JobOut := ⟨[], [], 0xC⟩

/-- Status of a conversion (R212). -/
def convStatus (bs : List OutBlock) : Nat := if bs.any (·.poison) then 0xA else if bs.any (·.ovf) then 0xB else 0

/-- CONVERT (R208, R211): equal formats copy; a block that touches a poisoned line takes scale 0xFF (R514). -/
def convertOp (fs fd : Fmt) (count : Nat) (bs : List Byte) (bad : List (Nat × Nat)) : JobOut :=
  if fs = fd then
    if bad = [] then ⟨bs, [], 0⟩
    else
      let m := readImage fs count bs bad
      if fs.scaled then ⟨bs.take (fs.lenE count) ++ m.scales.map (BitVec.ofNat 8 ·), [], 0xA⟩
      else ⟨bs.zipIdx.map fun x => if touches bad (x.2 / 4 * 4) 4 then 0 else x.1, [], 0xA⟩
  else
    let out := convert fd ((readImage fs count bs bad).vals)
    ⟨imageBytes fd out, [], convStatus out⟩

/-- REQUANTISE (R266). -/
def requantiseOp (fs fd : Fmt) (count e8 : Nat) (bs : List Byte) (bad : List (Nat × Nat)) : JobOut :=
  let out := convert fd ((readImage fs count bs bad).vals) (some e8)
  ⟨imageBytes fd out, [], convStatus out⟩

/-- EXPONENT_SCAN (R266). -/
def scanOp (fs fd : Fmt) (count : Nat) (bs : List Byte) (bad : List (Nat × Nat)) : JobOut :=
  let out := convert fd ((readImage fs count bs bad).vals)
  ⟨scanBytes fd out, [], convStatus out⟩

/-- TILE_TRANSPOSE (R266). -/
def transposeOp (f : Fmt) (rows cols : Nat) (bs : List Byte) (bad : List (Nat × Nat)) : JobOut :=
  let m := readImage f (rows * cols) bs bad
  let q := transpose rows cols m.elems
  ⟨packElems f.width q ++ (if f.scaled then m.scales.map (BitVec.ofNat 8 ·) else []), [],
   if bad ≠ [] || m.scales.contains 0xFF then 0xA else 0⟩

/-- PACK and TOPK (R268); `k` none is PACK. -/
def packOp (f : Fmt) (code count : Nat) (k : Option Nat) (bs : List Byte) (bad : List (Nat × Nat)) : JobOut :=
  let m := readImage f count bs bad
  let q := cleanUnits f m.elems m.scales
  let q := match k with
    | some k => topkUnits f k q
    | none => q
  ⟨sparseBytes f code count q m.scales, [], if anyPoison m.scales then 0xA else 0⟩

/-- UNPACK (R268): elements beyond COUNT are written as zero (R204). -/
def unpackOp (bs : List Byte) (bad : List (Nat × Nat)) : JobOut :=
  match readSparse bs bad with
  | none => .fail
  | some (count, f, _, elems, scales) =>
    let q := (cleanUnits f elems scales).zipIdx.map fun x => if x.2 < count then x.1 else 0
    ⟨packElems f.width q ++ (if f.scaled then scales.map (BitVec.ofNat 8 ·) else []), [],
     if anyPoison scales then 0xA else 0⟩

/-- LOCAL_SUM and LOCAL_MAX (R269). -/
def localOp (fs fd : Fmt) (isMax : Bool) (count : Nat) (imgs : List (List Byte × List (Nat × Nat))) : JobOut :=
  let ms := imgs.map fun i => redImage fs count i.1 i.2
  let out := convert fd (reduceVals fs isMax ms (fs.slots count))
  ⟨imageBytes fd out, [], convStatus out⟩

/-- Bytes of a data unit (R285). -/
def dataUnit (du : Nat) : Nat := 512 * 2 ^ du

/-- XTS over whole data units from tweak `t0` (R285, R286); data units that touch a poisoned line leave their output
poisoned (R514). -/
def xtsOp (enc : Bool) (key : List Byte) (du t0 : Nat) (bs : List Byte) (bad : List (Nat × Nat)) : JobOut :=
  let n := dataUnit du
  let us := pieces n bs
  let hit := (List.range us.length).filter fun j => touches bad (j * n) n
  ⟨us.zipIdx.flatMap fun u => xtsUnit enc key (leBytes 16 ((t0 + u.2) % 2 ^ 128)) u.1,
   hit.map fun j => (j * n, n), if hit = [] then 0 else 0xA⟩

/-- The 32-byte result record of a CRC (Table 10.5). -/
def crcRecord (c : ChkSet) (set v bytes : Nat) : List Byte :=
  leBytes 8 v ++ leBytes 8 (crcResult c v) ++ leBytes 8 (bytes % 2 ^ 64) ++ leBytes 2 set ++ leBytes 1 c.width ++ leBytes 5 0

/-- CRC (R292): a poisoned line leaves no record (R514). -/
def crcOp (c : ChkSet) (set v0 bytes0 : Nat) (bs : List Byte) (bad : List (Nat × Nat)) : JobOut :=
  if bad ≠ [] then ⟨[], [], 0xA⟩ else ⟨crcRecord c set (crcRun c v0 bs) (bytes0 + bs.length), [], 0⟩

/-- The CHK chain stage (R293). -/
def appendOp (c : ChkSet) (bs : List Byte) (bad : List (Nat × Nat)) : JobOut :=
  if bad ≠ [] then ⟨bs, bad, 0xA⟩ else ⟨bs ++ leBytes (cdiv c.width 8) (crcResult c (crcRun c c.init bs)), [], 0⟩

/-- Bytes of a slot's key. -/
def keyBytes (s : State) (slot : Nat) : List Byte :=
  match s.keys.lookup slot with
  | some k => bytesOf k.key
  | none => List.replicate 64 0

/-- Format errors a job counts: T2 codes 0b10 in what it reads as elements; equal formats are copied, not read (R202, R211). -/
def formatErrors (j : Job) (imgs : List (List Byte × List (Nat × Nat))) : Nat :=
  match fmtOf j.srcFmt with
  | none => 0
  | some f =>
    if ! [0, 1, 2].contains j.kind || (j.kind = 1 && j.op = 1 && j.srcFmt = j.dstFmt) then 0
    else if j.kind = 2 && j.op = 3 then
      let bs := (imgs.headD ([], [])).1
      badCodes f (bs.drop (16 + cdiv (f.slots j.p0) 8)) (natOf ((bs.drop 4).take 4))
    else (imgs.map fun i => badCodes f i.1 (f.slots ((f.countOf i.1.length).getD 0))).sum

/-- Result of a job other than MOV over its source images. -/
def jobResult (s : State) (j : Job) (imgs : List (List Byte × List (Nat × Nat))) : JobOut :=
  let bs := (imgs.headD ([], [])).1
  let bad := (imgs.headD ([], [])).2
  let count := ((fmtOf j.srcFmt).bind fun f => f.countOf bs.length).getD 0
  match j.kind, j.op, fmtOf j.srcFmt, fmtOf j.dstFmt with
  | 0, op, some fs, some fd => localOp fs fd (op = 2) count imgs
  | 1, 1, some fs, some fd => convertOp fs fd count bs bad
  | 1, 2, some fs, some fd => requantiseOp fs fd count (j.p0 % 256) bs bad
  | 1, 3, some fs, some fd => scanOp fs fd count bs bad
  | 1, 4, some fs, _ => transposeOp fs j.p0 j.p1 bs bad
  | 2, 1, some fs, _ => packOp fs j.srcFmt count (some j.p0) bs bad
  | 2, 2, some fs, _ => packOp fs j.srcFmt count none bs bad
  | 2, 3, _, _ => unpackOp bs bad
  | 3, op, _, _ =>
    match s.keys.lookup j.keySlot with
    | some k => if k.kind = 1 then xtsOp (op = 1) (bytesOf k.key) k.du (j.p1 * 2 ^ 32 + j.p0) bs bad else .fail
    | none => .fail
  | 4, _, _, _ =>
    match chkSetFor s j.fn j.chkSet with
    | some c => if j.chain.isSome then appendOp c bs bad else crcOp c j.chkSet j.v0 j.bytes0 bs bad
    | none => .fail
  | _, _, _, _ => .fail

/-! ## Steps (Tables 9.6, 9.7, 10.6) -/

/-- RDX lanes of an element (R269). -/
def lanes (w : Nat) : Nat := if w ≤ 8 then 1 else if w ≤ 16 then 2 else if w ≤ 32 then 4 else 8

/-- Columns of a transpose tile. -/
def tileCols (w : Nat) : Nat := 512 / w

/-- Elements of a source format whose image has `len` bytes. -/
def elemsOf (code len : Nat) : Nat := ((fmtOf code).bind fun f => f.countOf len).getD 0

/-- Output elements of a step of FMT: a block, or 64 (Table 9.7). -/
def stepElems (f : Fmt) : Nat := if f.block = 0 then 64 else f.block

/-- CONVERT and EXPONENT_SCAN to a per-tensor format of another code scan first (R266). -/
def twoPass (j : Job) : Bool :=
  j.kind = 1 && j.op = 1 && j.srcFmt ≠ j.dstFmt && ((fmtOf j.dstFmt).map Fmt.tensor).getD false

/-- Entry lengths of one side in 64-byte lines: (offset in the job's stream, address, length) of line `u`. -/
def lineAt : List (Nat × Nat) → Nat → Nat → Option (Nat × Nat × Nat)
  | [], _, _ => none
  | (a, n) :: rest, off, u =>
    let k := if n = 0 then 0 else (a + n - 1) / 64 + 1 - a / 64
    if u < k then
      let l := a / 64 + u
      let lo := max a (64 * l)
      some (off + (lo - a), lo, min (a + n) (64 * l + 64) - lo)
    else lineAt rest (off + n) (u - k)

/-- 64-byte lines of the entries of one side. -/
def lineCount (es : List (Nat × Nat)) : Nat :=
  (es.map fun e => if e.2 = 0 then 0 else (e.1 + e.2 - 1) / 64 + 1 - e.1 / 64).sum

/-- Pieces of the entries of one side that hold [o, o + n) of the job's stream: offset in it, address, length. -/
def spanAt : List (Nat × Nat) → Nat → Nat → Nat → List (Nat × Nat × Nat)
  | [], _, _, _ => []
  | (a, m) :: rest, base, o, n =>
    let lo := max o base
    let hi := min (o + n) (base + m)
    (if lo < hi then [(lo - o, a + (lo - base), hi - lo)] else []) ++ spanAt rest (base + m) o n

/-- Steps of a job; a GCM job ends with that of the tag (Table 10.6), a collective's are those that wait (R253). -/
def stepCount (j : Job) : Nat :=
  if j.coll.isSome then j.work.length else
  match j.kind with
  | 0 => ((fmtOf j.srcFmt).map fun f => cdiv (f.slots (elemsOf j.srcFmt j.len)) f.unit).getD 0
  | 1 =>
    match fmtOf j.srcFmt, fmtOf j.dstFmt with
    | some fs, some fd =>
      if j.op = 4 then cdiv j.p0 64 * cdiv j.p1 (tileCols fs.width)
      else (if twoPass j then 2 else 1) * cdiv (fd.slots (elemsOf j.srcFmt j.len)) (stepElems fd)
    | some fs, none => if j.op = 4 then cdiv j.p0 64 * cdiv j.p1 (tileCols fs.width) else 0
    | none, _ => 0
  | 2 =>
    if j.op = 3 then 2 * ((fmtOf j.srcFmt).map fun f => cdiv (f.slots j.p0) f.unit).getD 0
    else ((fmtOf j.srcFmt).map fun f => cdiv (f.slots (elemsOf j.srcFmt j.len)) f.unit).getD 0
  | 3 => cdiv j.len 512 + (if j.gcm.isSome then 1 else 0)
  | 4 => max 1 (cdiv j.len 64)
  | _ => lineCount j.dst

/-- Input bytes of step `u` of a conversion (Table 9.7). -/
def convBytes (fs fd : Fmt) (count u : Nat) : Nat :=
  let lo := u * stepElems fd
  let n := min (stepElems fd) (fs.slots count - lo)
  cdiv (n * fs.width) 8 +
    (if !fs.scaled || n = 0 then 0 else if fs.block = 0 then 1 else (lo + n - 1) / fs.block + 1 - lo / fs.block)

/-- Cycles of step `u` of a job. -/
def stepCost (j : Job) (u : Nat) : Nat :=
  if j.coll.isSome then ((j.work[u]?).map (·.cost)).getD 1 else
  match j.kind with
  | 0 => ((fmtOf j.srcFmt).map fun f => j.p0 * cdiv (f.unit * lanes f.width) 128 + 2).getD 1
  | 1 =>
    if j.op = 4 then 64
    else match fmtOf j.srcFmt, fmtOf j.dstFmt with
      | some fs, some fd =>
        let n := cdiv (fd.slots (elemsOf j.srcFmt j.len)) (stepElems fd)
        max 1 (cdiv (convBytes fs fd (elemsOf j.srcFmt j.len) (u % max 1 n)) 64)
      | _, _ => 1
  | 2 => ((fmtOf j.srcFmt).map fun f => max 1 (cdiv (f.unit * f.width) 512) + (if j.op = 1 then 2 else 0)).getD 1
  | 3 => if j.gcm.isSome && u + 1 = stepCount j then 4 else 43
  | 4 => if u + 1 = stepCount j then 3 else 1
  | _ =>
    match lineAt j.dst 0 u with
    | none => 1
    | some (o, a, n) =>
      if j.op = 2 then 1
      else if (spanAt j.src 0 o n).any fun p => (p.2.1 + 64 - p.1 % 64) % 64 ≠ a % 64 then 2 else 1

/-- The step reached from `i` with `c` cycles. -/
def fitSteps (cost : Nat → Nat) (total : Nat) : Nat → Nat → Nat → Nat
  | 0, i, _ => i
  | fuel + 1, i, c => if i < total && cost i ≤ c then fitSteps cost total fuel (i + 1) (c - cost i) else i

/-- Cycles of the steps from `i` on, held at `cap` (R260, R261). -/
def leftCycles (cost : Nat → Nat) (total cap : Nat) : Nat → Nat → Nat → Nat
  | 0, _, acc => min cap acc
  | fuel + 1, i, acc => if i < total && acc < cap then leftCycles cost total cap fuel (i + 1) (acc + cost i) else min cap acc

/-! ## What a step writes -/

/-- Bytes [⌊lo w / 8⌋, ⌊hi w / 8⌋) of an element plane for elements lo to hi - 1. -/
def elemRange (w lo hi : Nat) : Nat × Nat := (lo * w / 8, hi * w / 8 - lo * w / 8)

/-- Ranges of the output that step `u` of `total` writes; `len` is the output's length. A sparse output's value plane
starts at `16 + bitmap`; its values are written with the last step. -/
def stepRanges (j : Job) (total u len : Nat) : List (Nat × Nat) :=
  let final := u + 1 = total
  let dense (f : Fmt) (count v : Nat) : List (Nat × Nat) :=
    let k := stepElems f
    [elemRange f.width (v * k) (min ((v + 1) * k) (f.slots count))] ++
      (if f.block ≠ 0 then [(f.lenE count + v, 1)] else []) ++
      (if final then [(f.lenE count, f.lenS count)] else [])
  match j.kind with
  | 0 => ((fmtOf j.dstFmt).map fun fd =>
      -- source blocks need not be output blocks: the output blocks that end in this step
      let n := ((fmtOf j.srcFmt).map Fmt.unit).getD 64
      let k := stepElems fd
      let lo := u * n / k
      let hi := if final then cdiv (fd.slots (elemsOf j.srcFmt j.len)) k else (u + 1) * n / k
      (List.range (hi - lo)).flatMap fun i => dense fd (elemsOf j.srcFmt j.len) (lo + i)).getD []
  | 1 =>
    match fmtOf j.srcFmt, fmtOf j.dstFmt with
    | some fs, fd? =>
      if j.op = 4 then
        let w := fs.width
        let c := tileCols w
        let nc := cdiv j.p1 c
        let r0 := u / nc * 64
        let c0 := u % nc * c
        ((List.range (min c (j.p1 - c0))).map fun i =>
          (((c0 + i) * j.p0 + r0) * w / 8, min 64 (j.p0 - r0) * w / 8)) ++
          (if final then [(fs.lenE (j.p0 * j.p1), fs.lenS (j.p0 * j.p1))] else [])
      else match fd? with
        | none => []
        | some fd =>
          let n := cdiv (fd.slots (elemsOf j.srcFmt j.len)) (stepElems fd)
          if j.op = 3 then (if final then [(0, len)] else if fd.block ≠ 0 then [(u, 1)] else [])
          else if twoPass j then (if u < n then [] else dense fd (elemsOf j.srcFmt j.len) (u - n))
          else dense fd (elemsOf j.srcFmt j.len) u
    | none, _ => []
  | 2 =>
    match fmtOf j.srcFmt with
    | none => []
    | some f =>
      if j.op = 3 then
        if u < total / 2 then [] else
          let v := u - total / 2
          [elemRange f.width (v * f.unit) (min ((v + 1) * f.unit) (f.slots j.p0))] ++
            (if f.block ≠ 0 then [(f.lenE j.p0 + v, 1)] else []) ++ (if final then [(f.lenE j.p0, f.lenS j.p0)] else [])
      else if final then [(0, len)] else [(16 + u * f.unit / 8, f.unit / 8)]
  | 3 => [(512 * u, min 512 (len - 512 * u))]
  | 4 => if final then [(0, len)] else []
  | _ => []

end Sys2Proof.Machine
end

