-- ==== Sys2Proof/Machine/Engines.lean ====
section
/-! DEFINITION. Engines.lean: admission of jobs, quanta, steps, MOV, fencing and the scrubber (R253 to R279, R284 to
R293). -/

namespace Sys2Proof.Machine

open Host (Outcome)

def getJob (s : State) (j : Nat) : Option Job := s.zoo.jobs.lookup j
def modJob (s : State) (j : Nat) (f : Job → Job) : State := { s with zoo := { s.zoo with jobs := tupd s.zoo.jobs j f } }

/-- A job with nothing in it. -/
def Job.blank : Job :=
  { kind := 0, op := 0, cmd := none, chain := none, gcm := none, coll := none, work := [], fn := 0, dom := 64, urgent := false, sc := false, srcCtx := 0, dstCtx := 0,
    len := 0, p0 := 0, p1 := 0, srcFmt := 0, dstFmt := 0, keySlot := 0, chkSet := 0, src := [], dst := [], v0 := 0, bytes0 := 0,
    done := 0, written := 0, poison := false, overflow := false, engine := none, pieces := [], hits := [], buffer := [], writes := 0,
    fin := false, asked := false, hostLines := [], ended := none }

/-! ## ENGINE_JOB: fields and checks (Table 9.1, R254 to R258) -/

/-- Entries of a scatter-gather list, none where it is unreadable, has no END, or a zero length (R258). -/
def readSgl (s : State) (dom : Nat) : Nat → Nat → Option (List (Nat × Nat))
  | 0, _ => none
  | fuel + 1, off =>
    if !domNamed s dom off 16 || allocPoison s dom off 16 then none else
      match rdAlloc s dom off 16 with
      | none => none
      | some bs =>
        let e : Nat × Nat := (natOf (bs.take 8) % 2 ^ 57, natOf ((bs.drop 8).take 4))
        if e.2 = 0 then none
        else if natOf ((bs.drop 12).take 1) % 2 = 1 then some [e]
        else (readSgl s dom fuel (off + 16)).map (e :: ·)

/-- Target ranges of a segment range: 0 HOST, 1 HBM or 2 + n with addresses there; none where a byte lies in no segment
(R257). -/
def targetRanges (s : State) (ctx va len : Nat) : Option (List (Nat × Nat × Nat)) :=
  if len = 0 then some []
  else if !ctxCovers s ctx va len then none
  else (s.xl.ctxs.lookup ctx).map fun c => (segSpans c 20 va len).flatMap fun p =>
    let a := p.2.1.tbase + (p.2.2.1 - p.2.1.base)
    if p.2.1.target = 1 then
      match getDom s c.dom with
      | some d => (allocPieces d.cfg 300 a p.2.2.2).filterMap fun x => x.1.map fun ph => (1, ph, x.2)
      | none => []
    else [(p.2.1.target, a, p.2.2.2)]

/-- Two target ranges share a byte. -/
def rangesMeet (xs ys : List (Nat × Nat × Nat)) : Bool :=
  xs.any fun x => ys.any fun y => x.1 = y.1 && x.2.1 < y.2.1 + y.2.2 && y.2.1 < x.2.1 + x.2.2

/-- The entries of one side of a MOV job: the range itself, or its list (R258). -/
def movSide (s : State) (dom : Nat) (sgl : Bool) (addr len : Nat) : Option (List (Nat × Nat)) :=
  if !sgl then some [(addr, len)]
  else match readSgl s dom 65536 addr with
    | some es => if (es.map (·.2)).sum = len then some es else none
    | none => none

/-- Range checks of a MOV job: every entry in segments, no overlap (R257). -/
def movRangesOk (s : State) (j : Job) : Bool :=
  let dst := j.dst.map fun e => targetRanges s j.dstCtx e.1 e.2
  let src := if j.op = 2 then [] else j.src.map fun e => targetRanges s j.srcCtx e.1 e.2
  (dst ++ src).all (·.isSome) && !rangesMeet (src.flatMap (·.getD [])) (dst.flatMap (·.getD []))

/-- Longest output an operation can write (R257, R267). -/
def maxOut (j : Job) : Nat :=
  let count := elemsOf j.srcFmt j.len
  match j.kind, j.op, fmtOf j.srcFmt, fmtOf j.dstFmt with
  | 0, _, _, some fd => fd.lenImage count
  | 1, 1, _, some fd => if j.srcFmt = j.dstFmt then j.len else fd.lenImage count
  | 1, 2, _, some fd => fd.lenImage count
  | 1, 3, _, some fd => (if fd.block ≠ 0 || fd.scaled then fd.lenS count else count) + 1
  | 1, 4, _, _ => j.len
  | 2, 1, some fs, _ => sparseLen fs count (min (fs.slots count) (cdiv (fs.slots count) fs.unit * j.p0))
  | 2, 2, some fs, _ => sparseLen fs count (fs.slots count)
  | 2, 3, some fs, _ => fs.lenImage j.p0
  | 3, _, _, _ => j.len
  | 4, _, _, _ => 32
  | _, _, _, _ => 0

/-- Source ranges of a job on HBM: the image, or M images a stride apart. -/
def hbmSources (j : Job) : List (Nat × Nat) :=
  if j.kind = 0 then (List.range j.p0).map fun i => ((j.src.headD (0, 0)).1 + i * j.p1, j.len) else j.src

/-- Range checks of a job on HBM (R257). -/
def hbmRangesOk (s : State) (j : Job) : Bool :=
  let d := (j.dst.headD (0, 0)).1
  let n := maxOut j
  ((hbmSources j).all fun e => e.2 = 0 || domNamed s j.dom e.1 e.2) && (n = 0 || domNamed s j.dom d n) &&
  (hbmSources j).all fun e => e.2 = 0 || n = 0 || !(e.1 < d + n && d < e.1 + e.2)

/-- Fields of the operation (Table 9.2, R255, R266, R268, R269, R284, R286, R290, R292). -/
def opFieldsOk (s : State) (j : Job) : Bool :=
  let fs := fmtOf j.srcFmt
  let fd := fmtOf j.dstFmt
  let count := (fs.bind fun f => f.countOf j.len)
  match j.kind, j.op with
  | 0, 1 | 0, 2 =>
    count.isSome && (match fd with | some f => !f.tensor | none => false) && 1 ≤ j.p0 && j.p0 ≤ 64 && j.p1 % 64 = 0 && j.len ≤ j.p1
  | 1, 1 | 1, 3 => count.isSome && fd.isSome
  | 1, 2 => count.isSome && (match fd with | some f => f.scaled | none => false) && 1 ≤ j.p0 % 256 && j.p0 % 256 ≤ 0xFE
  | 1, 4 => j.srcFmt = j.dstFmt && (match fs with | some f => f.block = 0 | none => false) && 1 ≤ j.p0 && j.p0 ≤ 65536 &&
      1 ≤ j.p1 && j.p1 ≤ 65536 && count = some (j.p0 * j.p1)
  | 2, 1 => count.isSome && 1 ≤ j.p0 && j.p0 ≤ 128
  | 2, 2 => count.isSome
  | 2, 3 => true
  | 3, 1 | 3, 2 =>
    (match s.keys.lookup j.keySlot with
     | some k => k.kind = 1 && (k.owner = j.fn || k.owner = 0) && j.len ≠ 0 && j.len % dataUnit k.du = 0
     | none => false)
  | 4, 1 => (chkSetFor s j.fn j.chkSet).isSome
  | 5, 1 | 5, 2 => true
  | _, _ => false

/-- The job an ENGINE_JOB describes; UNPACK takes its format and count from the header of its source. -/
def jobOf (s : State) (d : Line) (dom : Nat) : Option Job :=
  let kind := dfld d 16 0 8
  let op := dfld d 17 0 8
  let len := dfld d 40 0 32
  let src := dfld d 24 0 57
  let base : Job :=
    { Job.blank with
      kind := kind, op := op, cmd := some d, fn := dfld d 20 0 16, dom := dom, urgent := dbit d 18 0,
      srcCtx := dfld d 22 0 12, dstCtx := dfld d 56 0 12, len := len, p0 := dfld d 44 0 32, p1 := dfld d 48 0 32,
      srcFmt := dSrcFmt d, dstFmt := dDstFmt d, keySlot := dfld d 52 0 11, chkSet := dfld d 54 0 16,
      src := [(src, len)], dst := [(dfld d 32 0 57, len)] }
  if kind = 5 then
    match movSide s dom (dbit d 18 1) src len, movSide s dom (dbit d 18 2) (dfld d 32 0 57) len with
    | some a, some b => some { base with src := a, dst := b }
    | none, some b => if op = 2 then some { base with dst := b } else none
    | _, none => none
  else if kind = 2 && op = 3 then
    match rdAlloc s dom src (min len 16) with
    | some h => some { base with p0 := natOf (h.take 4), srcFmt := natOf ((h.drop 8).take 1) % 16 }
    | none => some base
  else some base

/-- RESUME of a CRC: V and BYTES of the record at DST, none where it is refused (R292). -/
def crcResume (s : State) (j : Job) : Option (Nat × Nat) :=
  match chkSetFor s j.fn j.chkSet with
  | none => none
  | some c =>
    if j.p0 % 2 = 0 then some (c.init, 0)
    else
      let d := (j.dst.headD (0, 0)).1
      match rdAlloc s j.dom d 32 with
      | none => none
      | some bs =>
        let v := natOf (bs.take 8)
        if allocPoison s j.dom d 32 || natOf ((bs.drop 24).take 2) ≠ j.chkSet || natOf ((bs.drop 26).take 1) % 128 ≠ c.width ||
           v ≥ 2 ^ c.width then none
        else some (v, natOf ((bs.drop 16).take 8))

/-- Weight of a domain for an engine kind. -/
def weightOf (s : State) (dom kind : Nat) : Nat := ((getDom s dom).map fun d => d.cfg.weights.getD kind 0).getD 0

/-- Put a job in its context. -/
def addJob (s : State) (j : Job) : State :=
  let s := if j.cmd.isSome then modCyc s fun c => { c with newJobs := c.newJobs ++ [s.zoo.nextJob] } else s
  { s with zoo := { s.zoo with jobs := tput s.zoo.jobs s.zoo.nextJob j, nextJob := s.zoo.nextJob + 1 } }

/-- ENGINE_JOB at admission (R254, R256, R257). -/
def engineJob (s : State) (d : Line) : State :=
  let kind := dfld d 16 0 8
  let fn := dfld d 20 0 16
  match (if fn > 512 then none else fnDom s fn) with
  | none => mgrFail s d 1
  | some dom =>
    if kind = 5 && ((s.xl.ctxs.lookup (dfld d 56 0 12)).isNone ||
        (dfld d 17 0 8 ≠ 2 && (s.xl.ctxs.lookup (dfld d 22 0 12)).isNone)) then mgrFail s d 1
    else if kind > 5 then mgrFail s d 3
    else if working s kind = [] || weightOf s dom kind = 0 then mgrFail s d 2
    else
      match jobOf s d dom with
      | none => mgrFail s d 3
      | some j =>
        if !opFieldsOk s j || !(if kind = 5 then movRangesOk s j else hbmRangesOk s j) then mgrFail s d 3
        else if kind = 4 then
          match crcResume s j with
          | none => mgrFail s d 3
          | some (v, b) => if jobFree s dom then addJob s { j with v0 := v, bytes0 := b } else mgrFail s d 4
        else if jobFree s dom then addJob s j else mgrFail s d 4

/-! ## Source and destination of a job on HBM -/

/-- Lines of host-bias pages inside an allocation range (R386). -/
def biasedLines (s : State) (dom off len : Nat) : List Nat :=
  match getDom s dom with
  | none => []
  | some d => (allocPieces d.cfg 300 off len).flatMap fun p =>
      match p.1 with
      | none => []
      | some a => s.cxl.hostBias.flatMap fun pg =>
          let lo := max a (pg * 4096)
          let hi := min (a + p.2) (pg * 4096 + 4096)
          if lo < hi then linesOf lo (hi - lo) else []

/-- Bytes and poisoned ranges of an allocation range, with the lines the host answered in their place. -/
def gatherAlloc (s : State) (j : Job) (off len : Nat) : Option (List Byte × List (Nat × Nat)) :=
  (getDom s j.dom).bind fun d =>
    ((allocPieces d.cfg 300 off len).foldl (fun acc p =>
      match acc, p.1 with
      | some (bs, bad), some a =>
        let own := readPhys s a p.2
        let bytes := j.hostLines.foldl (fun (b : List Byte) l =>
          let lo := max a (64 * l.1)
          let hi := min (a + p.2) (64 * l.1 + 64)
          if lo < hi then splice b (lo - a) (((bytesOf l.2).drop (lo - 64 * l.1)).take (hi - lo)) else b) own
        let poison := (badRanges s a p.2 bs.length).filter fun r =>
          !(j.hostLines.any fun l => l.1 = (a + (r.1 - bs.length)) / 64)
        some (bs ++ bytes, bad ++ poison)
      | _, _ => none) (some (([] : List Byte), ([] : List (Nat × Nat)))))

/-- Source images of a job: allocation ranges, or the staged copy of its descriptor. -/
def jobImages (s : State) (j : Job) : Option (List (List Byte × List (Nat × Nat))) :=
  if j.gcm.isSome then some [] else
  match j.chain with
  | some (n, idx, _) =>
    (getQp s n).bind fun q => (q.ops.find? fun o => o.idx = idx).map fun o => [(o.staged, (o.staging s n q).bad)]
  | none => (hbmSources j).foldr (fun e acc =>
      match gatherAlloc s j e.1 e.2, acc with
      | some x, some xs => some (x :: xs)
      | _, _ => none) (some [])

/-- The range of DST clipped to the output. -/
def JobOut.clip (out : JobOut) (r : Nat × Nat) : Nat × Nat := (r.1, min r.2 (out.bytes.length - r.1))

/-- Every byte a step writes lies in a granule that is still granted (R275). -/
def stepGranted (s : State) (j : Job) (out : JobOut) (rs : List (Nat × Nat)) : Bool :=
  (rs.map out.clip).all fun r => r.2 = 0 ||
    ((getDom s j.dom).map fun x => allocCovers x.cfg ((j.dst.headD (0, 0)).1 + r.1) r.2).getD false

/-- Mark poisoned a range of a domain's allocation. -/
def poisonAlloc (s : State) (dom off len : Nat) : State :=
  match getDom s dom with
  | some x => (allocPieces x.cfg 300 off len).foldl (fun s p =>
      match p.1 with
      | some a => (linesOf a p.2).foldl markPoison s
      | none => s) s
  | none => s

/-- Write a range of a job's output at its destination, and mark what is poisoned of it. -/
def writeRange (s : State) (id : Nat) (j : Job) (out : JobOut) (r0 : Nat × Nat) : State :=
  let d := (j.dst.headD (0, 0)).1
  let r := out.clip r0
  if r.2 = 0 then s else
    let s := wrAlloc s j.dom (d + r.1) ((out.bytes.drop r.1).take r.2) (engFirst j.kind + j.engine.getD 0)
    let bad := out.bad.filter fun b => b.1 < r.1 + r.2 && r.1 < b.1 + b.2
    let s := bad.foldl (fun s b => poisonAlloc s j.dom (d + max r.1 b.1) (min (r.1 + r.2) (b.1 + b.2) - max r.1 b.1)) s
    modJob s id fun j => { j with written := j.written + r.2 }

/-- The steps of a job write their ranges, one after the other, up to one that meets a byte no longer granted, which commits
nothing: whether all did (R259, R275). -/
def writeSteps (s : State) (id : Nat) (j : Job) (out : JobOut) (steps : List (List (Nat × Nat))) : State × Bool :=
  steps.foldl (fun (acc : State × Bool) rs =>
    if acc.2 && stepGranted acc.1 j out rs then (rs.foldl (fun s r => writeRange s id j out r) acc.1, true) else (acc.1, false)) (s, true)

/-! ## End of a job -/

/-- A chain stage has ended: the staged copy is replaced and the next stage or the sending follows; a status other than
SUCCESS, FORMAT_OVERFLOW and POISON fails the descriptor (R253). -/
def stageDone (s : State) (n idx st : Nat) (out : JobOut) : State :=
  match (getQp s n).bind fun q => q.ops.find? fun o => o.idx = idx with
  | none => s
  | some o =>
    if ! [0, 0xA, 0xB].contains out.status then failOp s n idx out.status
    else
      let more := st + 1 < (chainStages o.desc).length
      let s := bytesStored s (domOf s n) (sendCopy n idx) 0 out.bytes.length
      let s := modOp s n idx fun o => { o with
        staged := out.bytes, bad := out.bad, poisoned := o.poisoned || out.status = 0xA, overflow := o.overflow || out.status = 0xB
        phase := if more then .chain (st + 1) else o.phase }
      if more then s else sendPump 70000 (stageEnd s n idx) n

/-- Take a job away. -/
def dropEngineJob (s : State) (id : Nat) : State :=
  dropJob { s with zoo := { s.zoo with jobs := tdel s.zoo.jobs id } } id

/-- The staging an opening job reads is poisoned (Table 21.4, CPH). -/
def sealedBad (s : State) (g : Nat × Nat × Bool) : Bool :=
  g.2.2 && match (getQp s g.1).bind fun q => q.rx.find? fun r => r.seq = g.2.1 with
    | some r => (badParts s (domOf s g.1) (sealedCopy g.1 g.2.1)).any fun i => i < cdiv (hSegLen r.head) 64
    | none => false

/-- A sealing or opening job has ended (R288). One that could not run to its end fails what it worked for: the descriptor that owns
the segment, or the QP (log 115). -/
def gcmEnd (s : State) (g : Nat × Nat × Bool) (st : Nat) : State :=
  match (if st = 0 && sealedBad s g then 0xA else st), g with
  | 0, (n, seq, true) => settle (sealOpened s n seq)
  | 0, (n, seq, false) => sealDone s n seq
  | st, (n, _, true) => enterError s n none st 3 true
  | st, (n, seq, false) =>
    enterError s n ((getQp s n).bind fun q => (q.tx.find? fun t => t.seq = seq && t.sealing).bind (·.op)) st 3 true

/-- A job ends with a status and what it wrote (R254). -/
def endJob (s : State) (id : Nat) (j : Job) (out : JobOut) (bc : Nat) : State :=
  let s := dropEngineJob s id
  match j.cmd, j.chain, j.gcm with
  | some d, _, _ => mgrDone s d out.status bc
  | none, some (n, idx, st), _ => stageDone s n idx st out
  | none, none, some g => gcmEnd s g out.status
  | none, none, none => s

/-- A job ends whatever steps are left (R265, R272, R275): BYTE_COUNT counts what its steps have written, or is reason 3 for
KEY_INVALID (log 123); a collective's ends with its collective. -/
def killJob (s : State) (id st : Nat) : State :=
  match getJob s id with
  | none => s
  | some j => if j.coll.isSome then modJob s id fun j => { j with ended := some st } else endJob s id j { JobOut.fail with status := st } (if st = 0xC then 3 else j.written)

/-! ## MOV (R265) -/

/-- Collect the reads and writes of MOV jobs that have ended. -/
def movSettle : Nat → State → State
  | 0, s => s
  | fuel + 1, s =>
    match s.xl.accesses.find? fun a => a.result.isSome && (match a.who with | .mov _ _ => true | .movOut _ => true | _ => false) with
    | none => s
    | some a =>
      let st := (a.result.map (·.1)).getD 0
      let data := (a.result.map (·.2.1)).getD []
      let bad := (a.result.map (·.2.2)).getD false
      let s := dropAccess s a.id
      match a.who with
      | .mov id step =>
        movSettle fuel (modJob s id fun j =>
          if st ≠ 0 then { j with ended := j.ended <|> some st }
          else
            let off := match lineAt j.dst 0 step with
              | some (o, _, n) => ((spanAt j.src 0 o n).findSome? fun p =>
                  if p.2.1 ≤ a.va && a.va < p.2.1 + p.2.2 then some (p.1 + (a.va - p.2.1)) else none).getD 0
              | none => 0
            { j with buffer := tupd j.buffer step fun b => (splice b.1 off data, b.2.1 - 1, b.2.2 || bad) })
      | .movOut id =>
        movSettle fuel (modJob s id fun j => { j with writes := j.writes - 1, ended := if st ≠ 0 then j.ended <|> some st else j.ended })
      | _ => movSettle fuel s

def movCollect (s : State) : State := movSettle (4 * s.xl.accesses.length + 4) s

/-- Issue the reads of a destination line (R265). -/
def movRead (s : State) (id step : Nat) : State :=
  match getJob s id with
  | none => s
  | some j =>
    if j.op = 2 || (j.buffer.lookup step).isSome then s else
    match lineAt j.dst 0 step with
    | none => s
    | some (o, _, n) =>
      let src := engFirst 5 + j.engine.getD 0
      let s := modJob s id fun j => { j with buffer := tput j.buffer step (List.replicate n 0, 0, false) }
      (spanAt j.src 0 o n).foldl (fun s p =>
        let r := startRead s (.mov id step) src j.srcCtx p.2.1 p.2.2
        modJob r.st id fun j => { j with buffer := tupd j.buffer step fun b =>
          (if r.left = 0 then splice b.1 p.1 r.buf else
             -- bytes read at once, zero where an access is outstanding
             splice b.1 p.1 r.buf, b.2.1 + r.left, b.2.2 || !r.bad.isEmpty) }) s

/-- Bytes of FILL at [o, o + n) of the destination stream. -/
def fillBytes (p0 o n : Nat) : List Byte := (List.range n).map fun i => (leBytes 4 p0).getD ((o + i) % 4) 0

/-- Commit the next line: none when its data has not arrived. -/
def movCommit (s : State) (id : Nat) : Option State :=
  match getJob s id with
  | none => none
  | some j =>
    match lineAt j.dst 0 j.done with
    | none => none
    | some (o, a, n) =>
      let line := if j.op = 2 then some (fillBytes j.p0 o n, false)
        else match j.buffer.lookup j.done with
          | some (bs, 0, p) => some (bs, p)
          | _ => none
      line.map fun x =>
        let w := startWrite s (.movOut id) (engFirst 5 + j.engine.getD 0) j.dstCtx a x.1 x.2
        modJob w.1 id fun j => { j with
          done := j.done + 1, written := j.written + n, writes := j.writes + w.2, poison := j.poison || x.2, buffer := tdel j.buffer j.done }

/-- Run a MOV job for `c` cycles with `upto` steps in all: lines whose data is there are written, reads go 64 KiB
ahead. -/
def movRun : Nat → State → Nat → Nat → Nat → State
  | 0, s, _, _, _ => s
  | fuel + 1, s, id, c, upto =>
    match getJob s id with
    | none => s
    | some j =>
      if j.ended.isSome || j.done ≥ upto || stepCost j j.done > c then s else
        let s := movRead s id j.done
        match movCommit s id with
        | some s' => movRun fuel s' id (c - stepCost j j.done) upto
        | none => s

/-- Read-ahead of 64 KiB from the last committed line. -/
def movAhead (s : State) (id : Nat) : State :=
  match getJob s id with
  | none => s
  | some j => (List.range (min 1024 (stepCount j - j.done))).foldl (fun s i => movRead s id (j.done + i)) s

/-- A page a job reads or writes is changing its bias: the job waits (R388). A MOV job's accesses wait each for itself. -/
def jobOnChange (s : State) (id : Nat) : Bool :=
  match s.cxl.biasJob, getJob s id with
  | (_, page, _, _) :: _, some j =>
    j.kind ≠ 5 && j.chain.isNone && j.coll.isNone && (match getDom s j.dom with
      | none => false
      | some d => (hbmSources j ++ [((j.dst.headD (0, 0)).1, maxOut j)]).any fun e =>
          (allocPieces d.cfg 300 e.1 e.2).any fun p => match p.1 with
            | some a => a < page * 4096 + 4096 && page * 4096 < a + p.2
            | none => false)
  | _, _ => false

/-- A job that cannot run on: one of its accesses waits on a fault (R264, R265). -/
def jobStalled (s : State) (id : Nat) : Bool := jobOnChange s id ||
  s.xl.accesses.any fun a => a.fault.isSome && (match a.who with | .mov k _ => k = id | .movOut k => k = id | _ => false)

/-! ## Progress -/

/-- Requests to the host for a job's host-bias lines are outstanding (R386). -/
def jobAsks (s : State) (id : Nat) : Bool := s.cxl.cacheReqs.any fun r => r.2.job = some id

/-- Ask the host for the host-bias lines of a job, once (R386). -/
def askJob (s : State) (id : Nat) : State :=
  match getJob s id with
  | none => s
  | some j =>
    if j.asked || j.kind = 5 || j.chain.isSome || j.coll.isSome || !cacheUp s then s else
      let s := modJob s id fun j => { j with asked := true }
      let rd := (hbmSources j).flatMap fun e => biasedLines s j.dom e.1 e.2
      let wr := biasedLines s j.dom (j.dst.headD (0, 0)).1 (maxOut j)
      askHost (askHost s rd false none (some id)) wr true none (some id)

/-- Cycles of a piece left for steps. -/
def pieceSteps (p : Nat × Nat × Nat) : Nat := p.2.2 - p.2.1 - 32

/-- Step reached by the pieces of the folio. -/
def reached (s : State) (j : Job) : Nat :=
  j.pieces.foldl (fun i p => fitSteps (stepCost j) (stepCount j) (quantumBound s + 1) i (pieceSteps p)) j.done

/-- Bytes that CPH steps `a` to `b - 1` work on. -/
def cphBytes (j : Job) (a b : Nat) : Nat := min j.len (512 * b) - min j.len (512 * a)

/-- Count the committed steps `a` to `b - 1` of a job on an engine (Table 18.3). -/
def countSteps (s : State) (j : Job) (e a b : Nat) : State :=
  let src := engFirst j.kind + e
  let cyc := ((List.range (b - a)).map fun i => stepCost j (a + i)).sum
  let s := bump (bump s (engCnt src 1) cyc) (engCnt src 2) (b - a)
  if j.kind = 3 then bumpDom s j.dom 13 (cphBytes j a b) else s

/-- A step of a job on HBM or of a chain stage stands committed up to `b`; the writes of the steps land. -/
def commitSteps (s : State) (id b : Nat) : State :=
  match getJob s id with
  | none => s
  | some j =>
    let s := countSteps s j (((j.pieces.getLast?).map (·.1)).getD 0) j.done b
    let next := modJob s id fun j => { j with done := b }
    if j.chain.isSome || j.gcm.isSome || b ≤ j.done then next else
      match jobImages s j with
      | none => killJob s id 0xC
      | some imgs =>
        let out := jobResult s j imgs
        let total := stepCount j
        let w := writeSteps next id j out ((List.range (b - j.done)).map fun i => stepRanges j total (j.done + i) out.bytes.length)
        if w.2 then w.1 else killJob w.1 id 0xC

/-- The pieces of the folio have ended (a collective's steps are carried out with it): their steps are committed, but for the last one of a job that waits for lines of the host
(R259, R260, R386). -/
def commitPieces (s : State) (id : Nat) : State :=
  match getJob s id with
  | none => s
  | some j =>
    if j.pieces = [] || j.coll.isSome then s else
    let total := stepCount j
    let s :=
      if j.kind = 5 then
        let s := j.pieces.foldl (fun s p => movRun (quantumBound s + 1) s id (pieceSteps p) total) s
        match getJob s id with
        | some k => countSteps s j (((j.pieces.getLast?).map (·.1)).getD 0) j.done k.done
        | none => s
      else if jobAsks s id then s
      else
        let b := reached s j
        commitSteps (if b ≥ total then modJob s id fun j => { j with fin := true } else s) id (min b (total - 1))
    modJob s id fun j => { j with pieces := [] }

/-- The engine counts the format errors of a job it has completed (R202). -/
def countErrors (s : State) (j : Job) (e : Nat) (imgs : List (List Byte × List (Nat × Nat))) : State :=
  let n := formatErrors j imgs
  if n = 0 then s else { s with zoo := { s.zoo with fmtErrors := tmod s.zoo.fmtErrors (engFirst j.kind + e) 0 (· + n) } }

/-- The last step commits and the job completes (R254, R259). -/
def completeJob (s : State) (id : Nat) : State :=
  match getJob s id with
  | none => s
  | some j =>
    let total := stepCount j
    if j.coll.isSome then s
    else if j.kind = 5 then
      let s0 := s
      if !(j.pieces ≠ [] || j.done = total) then s else
      let s := movCollect (j.pieces.foldl (fun s p => movRun (quantumBound s + 1) s id (pieceSteps p) total) s)
      match getJob s id with
      | none => s
      | some k =>
        let s := countSteps s j (k.engine.getD 0) j.done k.done
        if k.done = total && k.writes = 0 && k.ended.isNone then
          endJob s id k ⟨[], [], if k.poison then 0xA else 0⟩ k.len
        else s0
    else if !(j.fin || total = 0 || reached s j = total) || jobAsks s id then s
    else
      match jobImages s j with
      | none => killJob s id 0xC
      | some imgs =>
        let out := jobResult s j imgs
        let eng := ((j.pieces.getLast?).map (·.1)).getD (j.engine.getD 0)
        let s := countErrors (countSteps s j eng j.done total) j eng imgs
        if j.gcm.isSome then endJob s id j ⟨[], [], 0⟩ 0
        else if j.chain.isSome then endJob s id j out 0
        else
          let steps := (List.range (total - j.done)).map fun i => stepRanges j total (j.done + i) out.bytes.length
          if ! [0, 0xA, 0xB].contains out.status then endJob s id j out 3
          else if !(out.bytes.length ≤ maxOut j) then killJob s id 0xC
          else
            let w := writeSteps s id j out (if total = 0 then [[(0, out.bytes.length)]] else steps)
            if w.2 then endJob w.1 id j out out.bytes.length else killJob w.1 id 0xC

/-! ## Chain stages (R205, R253, R284, R286, R293) -/

/-- The job of a chain stage, none where its check fails with KEY_INVALID. -/
def chainJob (s : State) (n : Nat) (q : Qp) (o : SendOp) (st : Nat) : Option Job :=
  let stages := chainStages o.desc
  let code := stages.getD st 0
  let fmtBefore := if (stages.take st).contains 1 then dDstFmt o.desc else dSrcFmt o.desc
  let dom := qpDom s q
  let base : Job :=
    { Job.blank with
      chain := some (n, o.idx, st), fn := q.fn, dom := dom, sc := o.onFlow, len := o.staged.length, srcFmt := fmtBefore,
      dstFmt := dDstFmt o.desc, keySlot := dKeySlot o.desc, chkSet := dChkSet o.desc }
  let kindOp : Nat × Nat := if code = 1 then (1, 1) else if code = 2 then (2, 2) else if code = 3 then (3, 1) else if code = 4 then (3, 2) else (4, 1)
  let j := { base with kind := kindOp.1, op := kindOp.2 }
  if weightOf s dom j.kind = 0 then none
  else match code with
    | 1 | 2 => if ((fmtOf fmtBefore).bind fun f => f.countOf o.staged.length).isSome then some j else none
    | 3 | 4 =>
      match s.keys.lookup j.keySlot with
      | some k =>
        let du := dataUnit k.du
        if k.kind = 1 && k.owner = q.fn && dLocalAddr o.desc % du = 0 && dLength o.desc % du = 0 && o.staged.length % du = 0 then
          let t0 := dLocalAddr o.desc / du
          some { j with p0 := t0 % 2 ^ 32, p1 := t0 / 2 ^ 32 }
        else none
      | none => none
    | 5 =>
      match chkSetFor s q.fn j.chkSet with
      | some c => if c.append then some { j with v0 := c.init } else none
      | none => none
    | _ => none

/-- The descriptor a chain job works for is still in that stage, the segment a GCM job works for still waits for it. -/
def chainLive (s : State) (j : Job) : Bool :=
  match j.chain, j.gcm with
  | none, none => true
  | none, some (n, seq, true) => ((getQp s n).bind fun q => q.rx.find? fun r => r.seq = seq && r.opening && !r.opened).isSome
  | none, some (n, seq, false) => ((getQp s n).bind fun q => q.tx.find? fun t => t.seq = seq && t.sealing).isSome
  | some (n, idx, st), _ => ((getQp s n).bind fun q => q.ops.find? fun o => o.idx = idx && o.phase = .chain st).isSome

/-- Stages whose turn has come get their job, while their carrel has a context free (R256); a weight of 0 ends them
(R261). -/
def chainPump (s : State) : State :=
  let s := { s with zoo := { s.zoo with jobs := s.zoo.jobs.filter fun e => chainLive s e.2 } }
  s.qps.foldl (fun s e => e.2.ops.foldl (fun s o =>
    match o.phase, getQp s e.1 with
    | .chain st, some q =>
      if s.zoo.jobs.any fun j => j.2.chain = some (e.1, o.idx, st) then s
      else match chainJob s e.1 q o st with
        | none => failOp s e.1 o.idx 0xC
        | some j => if jobFree s j.dom then addJob s j else s
    | _, _ => s) s) s

/-- The GCM job of a segment (R288). -/
def gcmJob (s : State) (n seq : Nat) (q : Qp) (opening sc : Bool) (len : Nat) : Job :=
  { Job.blank with
    kind := 3, op := if opening then 2 else 1, gcm := some (n, seq, opening), fn := q.fn, dom := qpDom s q, sc := sc, len := len
    keySlot := if opening then q.rxSlot else q.txSlot }

/-- GCM jobs a sealed QP waits for: segments to be sealed, in sequence order, and segments to be opened (R288). -/
def gcmWanted (s : State) (n : Nat) (q : Qp) : List Job :=
  ((q.tx.filter (·.sealing)).map fun t => gcmJob s n t.seq q false t.sc.isSome t.data.length) ++
  (q.rx.filter fun r => r.opening && !r.opened).map fun r => gcmJob s n r.seq q true false (if hPoison r.head then 0 else hSegLen r.head)

/-- They get their jobs while their carrel has a context free (R256). -/
def gcmPump (s : State) : State :=
  s.qps.foldl (fun s e => (gcmWanted s e.1 e.2).foldl (fun s j =>
    if (s.zoo.jobs.any fun x => x.2.gcm = j.gcm) || !jobFree s j.dom then s else addJob s j) s) s

/-! ## Quanta (R260 to R263) -/

/-- Demand of a job, held at the bound (R260, R261). -/
def demand (s : State) (j : Job) : Nat :=
  let q := quantumBound s
  min q (32 + leftCycles (stepCost j) (stepCount j) q (q + 1) j.done 0)

/-- A job that receives cycles; of a suspended carrel only an ENGINE_JOB, and the work of the collective stages that have started
(R249, R264). -/
def runnable (s : State) (id : Nat) (j : Job) : Bool :=
  !j.fin && j.ended.isNone && (j.coll.isNone || j.work ≠ []) && weightOf s j.dom j.kind ≠ 0 && !jobStalled s id &&
  (j.cmd.isSome || j.coll.isSome || !((getDom s j.dom).map (·.suspended)).getD true)

/-- Cycles of each carrel of `act`, (carrel, weight, demand) ascending (R261). -/
def share : Nat → Nat → List (Nat × Nat × Nat) → List (Nat × Nat)
  | 0, _, _ => []
  | fuel + 1, left, act =>
    if act = [] then [] else
      let w := (act.map fun c => c.2.1).sum
      let fair (c : Nat × Nat × Nat) : Nat := left * c.2.1 / w
      let sat := act.filter fun c => c.2.2 ≤ fair c
      if sat = [] then
        let rest := left - (act.map fair).sum
        act.zipIdx.map fun c => (c.1.1, fair c.1 + (if c.2 < rest then 1 else 0))
      else sat.map (fun c => (c.1, c.2.2)) ++
        share fuel (left - (sat.map fun c => c.2.2).sum) (act.filter fun c => !(c.2.2 ≤ fair c))

/-- Cycles of each job of a carrel in the order of R262: (job, cycles). -/
def serve : Nat → List (Nat × Nat) → List (Nat × Nat)
  | _, [] => []
  | left, (id, d) :: rest => (id, min d left) :: serve (left - min d left) rest

/-- Wrap-around placement: (job, pieces in time order) (R263). -/
def placeJobs (q : Nat) (es : List Nat) : Nat → Nat → List (Nat × Nat) → List (Nat × List (Nat × Nat × Nat))
  | _, _, [] => []
  | e, t, (id, c) :: rest =>
    let eng (i : Nat) : Nat := es.getD i 0
    if c = 0 then placeJobs q es e t rest
    else if t + c < q then (id, [(eng e, t, t + c)]) :: placeJobs q es e (t + c) rest
    else if t + c = q then (id, [(eng e, t, q)]) :: placeJobs q es (e + 1) 0 rest
    else (id, [(eng (e + 1), 0, t + c - q), (eng e, t, q)]) :: placeJobs q es (e + 1) (t + c - q) rest

/-- Jobs of one carrel in the order of R262. -/
def jobOrder (js : List (Nat × Job)) : List (Nat × Job) :=
  (js.filter fun j => j.2.sc) ++ (js.filter fun j => !j.2.sc && j.2.urgent) ++ (js.filter fun j => !j.2.sc && !j.2.urgent)

/-- Pieces of one kind for the folio that begins. -/
def allocKind (s : State) (k : Nat) : List (Nat × List (Nat × Nat × Nat)) :=
  let q := quantumBound s
  let es := working s k
  let js := s.zoo.jobs.filter fun e => e.2.kind = k && runnable s e.1 e.2
  let doms := sortBy (fun a b => a ≤ b) ((js.map fun e => e.2.dom).eraseDups)
  let act := doms.map fun c => (c, weightOf s c k, ((js.filter fun e => e.2.dom = c).map fun e => demand s e.2).sum)
  let cyc := share (doms.length + 1) (es.length * q) act
  let jobs := doms.flatMap fun c =>
    serve (tget cyc c 0) ((jobOrder (js.filter fun e => e.2.dom = c)).map fun e => (e.1, demand s e.2))
  placeJobs q es 0 0 jobs

/-- Give a job its pieces: the counters of the folio, the reads of MOV, the requests for host-bias lines. -/
def startPieces (s : State) (id : Nat) (ps : List (Nat × Nat × Nat)) : State :=
  match getJob s id with
  | none => s
  | some j =>
    let s := ps.foldl (fun s p =>
      let n := p.2.2 - p.2.1
      let s := bumpDom (bump s (engCnt (engFirst j.kind + p.1) 0) n) j.dom 12 n
      prog s { code := 0x0C, source := engFirst j.kind + p.1, dom := some j.dom, cls := none, seg := none, units := n }) s
    let first := (ps.head?).map (·.1)
    let last := (ps.getLast?).map (·.1)
    let keep := j.engine.isNone || first = j.engine
    let s := if j.kind = 5 && !keep then
        closeEmptyFaults (modXl s fun x => { x with accesses := x.accesses.filter fun a => match a.who with | .mov i _ => i ≠ id | _ => true })
      else s
    let s := modJob s id fun j => { j with pieces := ps, engine := last, buffer := if keep then j.buffer else [] }
    if j.kind = 5 then movCollect (movAhead s id) else askJob s id

/-- The quanta of a folio end with it: what their steps computed is written and counted before the next tick, under the
configuration of their folio (R12, R58, R259). -/
def engineEnd (s : State) : State :=
  let s := movCollect s
  s.zoo.jobs.foldl (fun s e => commitPieces (completeJob s e.1) e.1) s

/-- Engines at a tick: jobs that ended, kinds with no engine, chain stages, quanta (R259 to R264, R272). -/
def engineTick (s : State) : State :=
  let s := s.zoo.jobs.foldl (fun s e =>
    match (getJob s e.1).bind (·.ended) with
    | some st => killJob s e.1 st
    | none => s) s
  let s := (List.range 6).foldl (fun s k =>
    if working s k = [] then
      (s.zoo.jobs.filter fun e => e.2.kind = k).foldl (fun s e => killJob s e.1 0xE) s else s) s
  let s := gcmPump (chainPump s)
  (List.range 6).foldl (fun s k => (allocKind s k).foldl (fun s p => startPieces s p.1 p.2) s) s

/-! ## Fencing (R271 to R273) -/

/-- Engine cycles elapsed in the folio at 2.1 GHz. -/
def elapsed (s : State) : Nat := (s.now - s.folio * s.F) * 21 / 160

/-- A check failure fences the engine: the piece that runs on it, and those still to come on it, do not count; a job
hit on two engines ends (R271, R272). -/
def fenceEngine (s : State) (b : Nat) : State :=
  if s.zoo.fenced.contains b then s else
    let k := bitKind b
    let e := b - engBase k
    let t := elapsed s
    let src := bitSource b
    let hit := (s.zoo.jobs.filter fun j => j.2.kind = k && j.2.pieces.any fun p => p.1 = e && p.2.1 + 16 ≤ t && t + 16 < p.2.2).map (·.1)
    let s := { s with zoo := { s.zoo with
      fenced := b :: s.zoo.fenced
      jobs := tmap s.zoo.jobs fun id j =>
        if j.kind ≠ k then j else
          let j := { j with pieces := j.pieces.filter fun p => !(p.1 = e && t < p.2.2) }
          if hit.contains id && !j.hits.contains b then { j with hits := b :: j.hits } else j } }
    let s := bump s (engCnt src 3) 1
    let s := aerContained (codexHand s 0x60 src 0xFF (codexCause 0 b))
    s.zoo.jobs.foldl (fun s j => if j.2.hits.length ≥ 2 then killJob s j.1 0xE else s) s

/-- Self-tests that end at this tick: a test passed returns the engine (R273). -/
def selftestEnd (s : State) (b : Nat) (pass : Bool) : State :=
  match s.zoo.tests.find? fun t => t.1 = b && t.2.1 + 2 ≤ s.folio with
  | none =>
    -- the result is there before the tick at which it takes effect
    { s with zoo := { s.zoo with tests := s.zoo.tests.map fun t =>
      if t.1 = b && t.2.1 < s.folio then (t.1, t.2.1, t.2.2.1, some pass) else t } }
  | some t =>
    let s := { s with zoo := { s.zoo with
      tests := s.zoo.tests.filter fun x => x ≠ t, fenced := if pass then s.zoo.fenced.filter fun x => x ≠ b else s.zoo.fenced } }
    if pass then mgrOk s t.2.2.1 else mgrFail s t.2.2.1 2

/-- Self-tests whose result waited for the tick. -/
def selftestTick (s : State) : State :=
  s.zoo.tests.foldl (fun s t =>
    match t.2.2.2 with
    | some pass => if t.2.1 + 2 ≤ s.folio then selftestEnd s t.1 pass else s
    | none => s) s

/-- ENGINE_UNFENCE (R273). -/
def unfence (s : State) (d : Line) : State :=
  let b := dfld d 16 0 8
  if b ≥ 56 || !s.zoo.fenced.contains b then mgrFail s d 2
  else { s with zoo := { s.zoo with tests := s.zoo.tests ++ [(b, s.folio, d, none)] } }

/-! ## Scrubbing (R276, R513) -/

/-- First uncorrectable read of a line (R513). -/
def poisonLine (s : State) (l : Nat) : State :=
  if s.hbm.poison.contains l then s
  else
    let s := bump (markPoison s l) (devCnt 3) 1
    aerContained (codexHand s 0x61 0x3FF 0xFF (codexCause 0 l))

/-- Granules the scrubber reads: device granules and granted ones. -/
def scrubbed (s : State) (g : Nat) : Bool := g < 4 || (granuleOwner s g).isSome

/-- The highest line it reads ends a pass. -/
def lastScrubbed (s : State) : Nat :=
  (((List.range 288).filter fun g => scrubbed s g).getLast?.getD 3 + 1) * 2 ^ 24 - 1

/-- One scrub read (R276, R278). -/
def scrub (s : State) (l : Nat) (res : ScrubResult) : State :=
  if !bitAt s.zoo.scrubCfg.inForce 8 || !scrubbed s (l / 2 ^ 24) then s else
    let s := bump s (devCnt 5) 1
    let s := match res with
      | .clean => s
      | .corrected => aerCorrected (bump { s with zoo := { s.zoo with corrected := sat (2 ^ 24 - 1) (s.zoo.corrected + 1) } } (devCnt 2) 1)
      | .uncorrectable =>
        if s.hbm.poison.contains l then s
        else { (poisonLine s l) with zoo := { (poisonLine s l).zoo with uncorrected := sat (2 ^ 16 - 1) (s.zoo.uncorrected + 1) } }
    { s with zoo := { s.zoo with
      scrubLine := l, passes := if l = lastScrubbed s then sat (2 ^ 24 - 1) (s.zoo.passes + 1) else s.zoo.passes } }

end Sys2Proof.Machine
end

