-- ==== Sys2Proof/Machine/Router.lean ====
section
/-! DEFINITION. Router.lean: the two plane routers of this adapter, the slots of a crossbar cycle, gate-list lookup and
route tables (R148 to R175, R179 to R185). Ports L0 to L3 are plane A X+, X-, Y+, Y-; L4 to L7 plane B. -/

namespace Sys2Proof.Machine

open Host (Outcome)

/-! ## Geometry (R148, R150) -/

def spray (s : State) : Nat := fld s.lat.cfg 20 2

def getLat (s : State) (p : Nat) : LatPort := lget s.lports p LatPort.reset
def modPort (s : State) (p : Nat) (f : LatPort → LatPort) : State := { s with lports := lmod s.lports p f }

/-- A lattice port carries traffic (R174). -/
def live (s : State) (p : Nat) : Bool := (getLat s p).state = 5

/-- The coordinate at the far end of a port (R148). -/
def neighbour (s : State) (p : Nat) : Nat :=
  let x := myX s
  let y := myY s
  match p % 4 with
  | 0 => y * 32 + (x + 1) % dimX s
  | 1 => y * 32 + (x + dimX s - 1) % dimX s
  | 2 => (y + 1) % dimY s * 32 + x
  | _ => (y + dimY s - 1) % dimY s * 32 + x

/-- Number of the link a port is an end of (R183). -/
def linkOf (s : State) (p : Nat) : Nat :=
  let me := myCoord s
  let from_ := if p % 2 = 0 then me else neighbour s p
  let q := 2 * (p / 4) + (if p % 4 ≥ 2 then 1 else 0)
  from_ * 4 + q

/-! ## Slots (R30, R179, R182) -/

/-- Folio and slot that lie `j` slots after the two slots of the current crossbar cycle have passed: a cell that arrives
in slot a leaves in slot a + 2 (R182). -/
def depSlot (s : State) (j : Nat) : Nat × Nat :=
  let t := (s.now - s.folio * s.F) / 12 * 2 + 2 + j
  if t < s.slots then (s.folio, t) else (s.folio + 1, t - s.slots)

/-- The slot of `depSlot` as one number. -/
def slotNo (s : State) (j : Nat) : Nat := (depSlot s j).1 * 16384 + (depSlot s j).2

def surveySlot (t : Nat) : Bool := t % 256 = 0
def controlSlot (t : Nat) : Bool := t % 32 = 16

/-! ## Gate lists (R182, R185, R188) -/

/-- A slot a run counts: neither it nor, for a transit entry, the slot two before it is a survey or control slot. -/
def counted (e : SlotEntry) (t : Nat) : Bool :=
  let ok (t : Nat) : Bool := !surveySlot t && !controlSlot t
  ok t && (e.inPort ≥ 8 || e.role = 3 || t < 2 || ok (t - 2))

/-- Slots a run counts in [start, start + n). -/
def countRun (e : SlotEntry) (n : Nat) : Nat := ((List.range n).filter fun i => counted e (e.start + i)).length

/-- The entry names slot t. -/
def SlotEntry.has (e : SlotEntry) (t : Nat) : Bool :=
  e.start ≤ t && counted e t && countRun e (t - e.start) < (if e.run = 0 then 1024 else e.run)

/-- The output entry of a port at folio k, slot t (roles 0 to 2). -/
def outEntry (s : State) (p k t : Nat) : Option SlotEntry :=
  match activeSet s with
  | none => none
  | some g =>
    if k < s.sched.activeFrom then none else
      (activeMap s).find? fun e => e.port = p && e.role < 3 && e.folio = cycleIndex s g k && e.has t

/-! ## Communicators and the cells of their streams (R227, R229, R232, R239) -/

/-- Header of a cell of a stage to a coordinate. -/
def collHdr (s : State) (comm stage seq round cls dst off : Nat) (row col last : Bool) (src : Option Nat := none) : BitVec 96 :=
  latHdr (if stage < 4 then 7 else 6) cls s.lat.epoch dst row col (src.getD (myCoord s)) (comm + 65536 * stage)
    (seq % 256 * 16 + round % 16) off last

/-- A cell of a stream to a member, or cast; of a cast passed on, it keeps the SRC of its origin (R246). -/
def streamCell (s : State) (m : Comm) (comm : Nat) (c : Coll) (t : TxStream) (i cast dst cls : Nat) : Cell :=
  let dests := if cast = 1 then myY s * 32 + (myX s + dimX s - 1) % dimX s
    else if cast = 2 then (myY s + dimY s - 1) % dimY s * 32 + myX s else dst
  latCell (collHdr s comm t.stage c.seq t.round cls dests i (cast = 1) (cast = 2) (i + 1 = t.cells.length)
    (t.relayOf.map (rankCoord s m))) (lget t.cells i 0)

/-! ## SC cells of this adapter (R189, R191, R195, R246) -/

/-- What a reserved slot with local injection sends. -/
inductive ScOut where
  /-- an original cell -/
  | first (c : ScCell)
  /-- a rewound one -/
  | back (c : ScCell)
  /-- a listed cell again -/
  | again (c : ScCell)
  /-- the next cell of the flow's acknowledgement round -/
  | ack (flow : Nat)
deriving DecidableEq, Repr

/-- Entries of a flow in a slot map. -/
def flowEntries (m : List SlotEntry) (f : Nat) : List SlotEntry := m.filter fun e => e.flow = f

/-- The flow is frozen, voided, or held back in the folio before a new set starts (R188, R195, R196). -/
def flowHeld (s : State) (f k : Nat) : Bool :=
  s.sched.frozen.contains f || s.sched.voids.contains f ||
    (match s.sched.pending with
     | some (id, _, _, st) => k + 1 = st && (match activeSet s, s.sched.sets.find? (fun g => g.id = id) with
        | some _, some g => flowEntries (activeMap s) f ≠ flowEntries g.map f
        | _, _ => false)
     | none => false)

/-- Receiver a stream's cells go to on its flow: the only one, or the next member of a cast (R246). -/
def TxStream.next (t : TxStream) : Nat := t.dests.headD 0

/-- A stream's own cell has a copy that reads as poisoned (R514). -/
def streamBad (s : State) (m : Comm) (comm : Nat) (c : Coll) (t : TxStream) (i : Nat) : Bool :=
  (badParts s ((fnDom s m.fn).getD 65) (streamCopy comm c.idx t)).contains i

/-- The stream a cell belongs to: communicator, descriptor, stage, round, origin of a cast passed on and receiver tell it from
all others. -/
def TxStream.named (t : TxStream) (stage round : Nat) (origin : Option Nat) (dest : Nat) : Bool :=
  t.stage = stage && t.round = round && t.relayOf = origin && t.next = dest

/-- A collective's stream on the flow with cells to send: originals, or listed ones (R246). -/
def collNext (s : State) (f : Nat) (again : Bool) : Option ScCell :=
  s.col.comms.findSome? fun e => e.2.run.findSome? fun c => c.tx.findSome? fun t =>
    if t.flow = some f && t.admitted && !t.asEc then
      ((if again then t.again else t.left).head?).map fun i => .stream e.1 c.idx t.stage t.round t.relayOf t.next i
    else none

/-- The flow's next cell in a DATA_OUT slot of folio k: rewound cells first (R195), then the next original of a message
admitted by then (R189). -/
def scData (s : State) (f k : Nat) : Option ScOut :=
  match tget s.sched.rewind f [] with
  | c :: _ => some (.back c)
  | [] => ((s.qps.findSome? fun e => e.2.tx.findSome? fun t =>
      if t.sc = some f && !t.acked && !t.sealing && e.2.round.isNone && t.next ≤ t.have_ && t.next ≤ t.cells &&
          (e.2.ops.any fun o => some o.idx = t.op && (match o.sc with | some (ta, _) => decide (ta ≤ k) | none => false))
      then some (ScCell.seg e.1 t.seq t.next) else none) <|> collNext s f false).map .first

/-- The flow's oldest listed cell, for a RETRY_OUT slot (R191). -/
def scRetry (s : State) (f : Nat) : Option ScOut :=
  ((s.qps.findSome? fun e => e.2.tx.findSome? fun t =>
    if t.sc = some f && !t.acked then (t.again.head?).map fun i => ScCell.seg e.1 t.seq i else none) <|> collNext s f true).map .again

/-! ## Acknowledgement of a flow (R191, R246) -/

/-- Slots of EXPECT_DATA entries of a flow from (k0, t0) exclusive to (k1, t1) exclusive. -/
def expectPassed (s : State) (f k0 t0 k1 t1 : Nat) : Nat :=
  match activeSet s with
  | none => 0
  | some g =>
    let es := (flowEntries (activeMap s) f).filter fun e => e.role = 3
    ((List.range (k1 + 1 - k0)).map fun i =>
      let k := k0 + i
      let lo := if k = k0 then t0 + 1 else 0
      let hi := if k = k1 then t1 else s.slots
      ((es.filter fun e => e.folio = cycleIndex s g k).map fun e =>
        ((List.range hi).filter fun t => lo ≤ t && e.has t).length).sum).sum

/-- Cells that arrival slots passed empty or bad since the highest one have missed (R191). -/
def slotsMissed (s : State) (f : Nat) (x : Expect) : Nat :=
  expectPassed s f x.folio x.slot s.folio ((s.now - s.folio * s.F) / 6) - x.filled

/-- Cells of an incomplete segment of a flow that are missing: the gaps below the highest cell received, and above it as
many as arrival slots have passed empty or bad since; of one that lies behind the flow's newest message, all (R191). -/
def scMissing (s : State) (f : Nat) (x : Expect) (r : RxSeg) : List Nat :=
  let ahead := (r.seq + 4096 - x.seq) % 4096
  let top := if x.ofStream || ahead ≥ 2048 then 65536 else if ahead = 0 then x.cell + slotsMissed s f x else 0
  (missingOf r).filter fun o => o < top

/-- A stream a flow has carried, by its header QP and SEQ fields and source, as it stands here: none where no collective here
expects it, `some none` when it is complete. -/
def heardStream (s : State) (k : Nat × Nat × Nat) : Option (Option RxStream) :=
  (getComm s (k.1 % 65536)).bind fun m => (coordRank s m k.2.2).bind fun r =>
    match m.run.find? fun c => c.seq % 256 = k.2.1 / 16 with
    | none => if m.passed (k.2.1 / 16) then some none else none
    | some c =>
      if c.waits.isSome then none
      else match c.rx.find? fun x => x.stage = k.1 / 65536 && x.round % 16 = k.2.1 % 16 && x.from_ = r with
        | some x => some (if x.whole then none else some x)
        | none => if c.ended.any fun n => n % 16 = k.2.1 % 16 then some none else none

/-- Its missing cells, as `scMissing`. -/
def scStreamMissing (s : State) (f : Nat) (x : Expect) (k : Nat × Nat × Nat) (r : RxStream) : List Nat :=
  let top := if x.ofStream && x.streams.getLast? = some k then x.cell + 1 + slotsMissed s f x else r.cells
  (List.range r.cells).filter fun o => o < top && (r.got.lookup o).isNone && (r.todo.lookup o).isNone

/-- The stream came from the flow's own source: its acknowledgements fit the flow's ACK slots. That of a cast passed on goes
to its sender as EC (log 117). -/
def flowDirect (s : State) (f : Nat) (k : Nat × Nat × Nat) : Bool :=
  match (activeSet s).bind fun g => g.flows.find? fun x => x.num = f with
  | some x => x.src = k.2.2
  | none => false

/-- One acknowledgement round of a flow after its pending NAK: a SNAK per incomplete segment or stream with missing cells, then
the ACKs (R191, R246). -/
def ackRound (s : State) (f : Nat) (x : Expect) : List (Nat × Option Nat × Nat × Line) :=
  let q := x.qp.bind (getQp s)
  let ks := (x.streams.filter (flowDirect s f)).filterMap fun k => (heardStream s k).map fun h => (k, h)
  let rs : List RxSeg := match q with | some q => q.rx.filter fun r => !r.delivered && r.sc | none => []
  (rs.filterMap fun r =>
      match scMissing s f x r with
      | [] => none
      | m@(o :: _) => some (5, none, r.seq, snakPayload r m (o / 448 * 448))) ++
    (ks.filterMap fun k => k.2.bind fun r =>
      match scStreamMissing s f x k.1 r with
      | [] => none
      | m@(o :: _) => some (5, some k.1.1, k.1.2.1, snakFor k.1.2.1 r.cells m (o / 448 * 448))) ++
    (match q with | some q => [(3, none, q.e, ackPayload q)] | none => []) ++
    ks.filterMap fun k => if k.2.isNone then some (3, some k.1.1, k.1.2.1, layout 512 [(0, 12, k.1.2.1)]) else none

/-- What the next ACK slot of a flow sends, with what it leaves of the round: the QP's pending NAK first (R191). -/
def nextAck (s : State) (f : Nat) (x : Expect) :
    Option ((Nat × Option Nat × Nat × Line) × List (Nat × Option Nat × Nat × Line)) :=
  let left := tget s.sched.ackRest f []
  match x.qp.bind fun n => s.sched.naks.lookup n with
  | some p => some ((4, none, p.1, p.2), left)
  | none => match (match left with | [] => ackRound s f x | l => l) with
    | [] => none
    | y :: rest => some (y, rest)

/-- What this adapter sends in slot t of folio k on port p by its gate list. -/
def scNext (s : State) (p k t : Nat) : Option ScOut :=
  match outEntry s p k t with
  | none => none
  | some e =>
    if e.inPort ≠ 8 || flowHeld s e.flow k then none
    else match e.role with
      | 0 => scData s e.flow k
      | 2 => scRetry s e.flow
      | 1 => (s.sched.expect.lookup e.flow).bind fun x => (nextAck s e.flow x).map fun _ => .ack e.flow
      | _ => none

/-! ## Route tables (R164, R167, R168) -/

/-- Route table byte of a coordinate, y * 32 + x. -/
def routeEntry (s : State) (plane copy coord : Nat) : BitVec 8 :=
  match s.lat.routes.lookup (plane * 2048 + copy * 1024 + coord) with
  | some b => b
  | none => if coord % 32 < dimX s && coord / 32 < dimY s then 0x30 else 0

def routeValid (e : BitVec 8) : Bool := bitAt e 4
def routeMask (e : BitVec 8) (dir : Nat) : Bool := bitAt e 5 || bitAt e dir

/-- Productive directions of one dimension of size k, from c to d: plus, minus (R156). -/
def prodDim (k c d : Nat) : Bool × Bool :=
  let x := (d + k - c % k) % k
  if x = 0 then (false, false) else (decide (2 * x ≤ k), decide (2 * x ≥ k))

/-- Remaining distance in a dimension. -/
def distDim (k c d : Nat) : Nat := let x := (d + k - c % k) % k; min x (k - x)

/-- Productive ports of a plane for a destination: R156, the entry and live ports (R167, R174), nearest choice first
(R158). -/
def productive (s : State) (plane copy dst : Nat) : List Nat :=
  let e := routeEntry s plane copy dst
  let px := prodDim (dimX s) (myX s) (dst % 32)
  let py := prodDim (dimY s) (myY s) (dst / 32)
  let xs := (if px.1 then [0] else []) ++ (if px.2 then [1] else [])
  let ys := (if py.1 then [2] else []) ++ (if py.2 then [3] else [])
  let order := if distDim (dimY s) (myY s) (dst / 32) > distDim (dimX s) (myX s) (dst % 32) then ys ++ xs else xs ++ ys
  ((order.filter (routeMask e)).map (plane * 4 + ·)).filter (live s)

/-- A plane is usable for a cell (R164). -/
def planeUsable (s : State) (plane copy dst : Nat) : Bool :=
  routeValid (routeEntry s plane copy dst) && (List.range 4).any fun d => live s (plane * 4 + d)

/-! ## Output slots of the current cycle -/

/-- Output slots taken in this crossbar cycle. -/
def usedNow (s : State) : List (Nat × Nat) := if s.lat.usedAt = s.now then s.lat.used else []

/-- Cells waiting for the control slots of a port (R180). -/
def ctlWaiting (s : State) (p : Nat) : List Cell := tget s.sched.ctl p []

/-- The slot of a port that is free for an EC cell in this cycle, the earlier first (R157, R179). -/
def freeSlot (s : State) (p : Nat) : Option Nat :=
  [0, 1].find? fun j =>
    let t := (depSlot s j).2
    !(usedNow s).contains (p, j) && !surveySlot t && !(controlSlot t && !(ctlWaiting s p).isEmpty) &&
      (scNext s p (depSlot s j).1 t).isNone

/-- AGE raised by one. -/
def aged (c : Cell) : Cell := { c with hdr := setFld c.hdr 8 8 (cAge c + 1) }
def marked (c : Cell) : Cell := { c with hdr := setFld c.hdr 7 1 1 }

/-- A lattice port that is declared down at the end of this cycle. -/
def isFailing (s : State) (p : Nat) : Bool := s.cyc.failing.any fun f => f.1 = p

/-- A cell takes slot j of the cycle on a port; the port raises AGE (R161). On a port that is declared down in this cycle it
is lost (R174). -/
def sendLat (s : State) (p j : Nat) (c : Cell) : State :=
  let used := usedNow s
  let s := modLat s fun l => { l with used := (p, j) :: used, usedAt := s.now }
  if isFailing s p then s
  else
    let s := bump (emit s (.latCell p (depSlot s j).2 (aged c))) (latCnt p (if cClass c = 1 then 0 else 1)) 1
    bwBytes s p true 64

/-- A dropped cell is counted on a port (Table 18.3, Table 18.4). -/
def dropAt (s : State) (p i : Nat) (c : Cell) : State :=
  dropCell (bump s (latCnt p i) 1) p (cellDom s c) c

/-- A cell is ejected to the local ports (Table 5.4 step 1). -/
def eject (s : State) (src : Source) (c : Cell) : State :=
  let dom := cellDom s c
  let cls := if cClass c = 1 then 2 else 1
  let s := modLat s fun l => { l with ejected := l.ejected ++ [(.lattice, c)] }
  let s := match dom with | some d => bumpDom s d (if cClass c = 1 then 3 else 2) 1 | none => s
  prog s { code := 0x02, source := src, dom := dom, cls := some cls, seg := none, units := 1, qp := qpOfCell s c }

/-! ## Absorption (R158, R159) -/

def absorbOf (s : State) (plane : Nat) : List Absorbed := if plane = 0 then s.lat.bufA else s.lat.bufB
def setAbsorb (s : State) (plane : Nat) (b : List Absorbed) : State :=
  modLat s fun l => if plane = 0 then { l with bufA := b } else { l with bufB := b }

/-- A cell that takes part in a cycle's assignment: the port and slot it arrived in, and whether it was absorbed before. -/
structure Cand where
  port : Nat
  slot : Nat
  cell : Cell
  held : Bool
deriving DecidableEq, Repr

/-- Key of a candidate's rank, lower first: AGE, source, input port with absorbed cells after all inputs, slot (R158). -/
def Cand.key (c : Cand) : List Nat := [255 - cAge c.cell, cSrc c.cell, if c.held then 8 else c.port, if c.held then 0 else c.slot]

/-- Lexicographic order of keys. -/
def keyLe : List Nat → List Nat → Bool
  | a :: as, b :: bs => a < b || (a = b && keyLe as bs)
  | _, _ => true

/-- `a` ranks before `b` (R158); two that are equal in every key keep their order. -/
def ranks (a b : Cand) : Bool := keyLe a.key b.key

def Absorbed.cand (a : Absorbed) : Cand := ⟨a.port, 0, a.cell, true⟩
def Cand.isCast (c : Cand) : Bool := cRowCast c.cell || cColCast c.cell

/-- A cell that finds no slot enters the absorption buffer of its plane, marked; with 32 cells held, the lowest-ranked one of
all is dropped (R159). -/
def absorb (s : State) (plane : Nat) (x : Cand) : State :=
  let c := marked x.cell
  let s := bump s (latCnt x.port 7) 1
  let s := prog s { code := 0x04, source := x.port, dom := none, cls := some 1, seg := none, units := 1 }
  let b := absorbOf s plane
  let new : Absorbed := ⟨c, x.port, s.now⟩
  if b.length < 32 then setAbsorb s plane (b ++ [new])
  else
    match (b.foldl (fun (w : Option Absorbed) a => match w with
        | none => some a
        | some y => if ranks y.cand a.cand then some a else some y) none) with
    | none => s
    | some w =>
      if ranks x w.cand then dropAt (setAbsorb s plane (b.erase w ++ [new])) w.port 8 w.cell
      else dropAt s x.port 8 c

/-- A candidate leaves the absorption buffer, if it is there. -/
def unheld (s : State) (plane : Nat) (x : Cand) : State :=
  if x.held then setAbsorb s plane ((absorbOf s plane).eraseP fun a => a.cell = x.cell && a.port = x.port) else s

/-- It finds no slot: an absorbed one stays where it is. -/
def noSlot (s : State) (plane : Nat) (x : Cand) : State := if x.held then s else absorb s plane x

/-! ## Assignment (Table 5.4) -/

/-- Forward direction of a multicast cell. -/
def castDir (c : Cell) : Nat := if cRowCast c then 0 else 2

/-- A multicast cell goes on along its row or column, or is absorbed (step 3, R165, R166). -/
def forwardCast (s : State) (plane : Nat) (x : Cand) : State :=
  let out := plane * 4 + castDir x.cell
  if !live s out then dropAt (unheld s plane x) x.port 11 x.cell
  else match freeSlot s out with
    | some j => sendLat (unheld s plane x) out j x.cell
    | none => noSlot s plane x

/-- A unicast EC cell takes a free productive slot, or another free one (deflection), or is absorbed (step 4). -/
def routeEc (s : State) (plane : Nat) (x : Cand) : State :=
  let c := x.cell
  let dst := cDstY c * 32 + cDstX c
  if !routeValid (routeEntry s plane (cEpoch c) dst) then dropAt (unheld s plane x) x.port 11 c
  else
    let free (q : Nat) : Option (Nat × Nat) := if live s q then (freeSlot s q).map fun j => (q, j) else none
    match (productive s plane (cEpoch c) dst).findSome? free with
    | some (q, j) => sendLat (unheld s plane x) q j c
    | none =>
      match ((List.range 4).map (plane * 4 + ·)).findSome? free with
      | some (q, j) =>
        let s := prog (bump (unheld s plane x) (latCnt q 6) 1)
          { code := 0x03, source := q, dom := none, cls := some 1, seg := none, units := 1 }
        sendLat s q j (marked c)
      | none => noSlot s plane x

/-- An EC cell that takes part: one whose AGE would pass 255 is dropped (R161, R163). -/
def assignEc (s : State) (plane : Nat) (x : Cand) : State :=
  if cAge x.cell ≥ 255 then dropAt (unheld s plane x) x.port 9 x.cell
  else if x.isCast then forwardCast s plane x else routeEc s plane x

/-- The flow that a transit entry names is this cell's: its target, or its source for an acknowledgement; a relayed cast keeps
the SRC of its origin (R182, R197, R246). -/
def flowMatches (e : SlotEntry) (f : Flow) (c : Cell) : Bool :=
  let far := if e.role = 1 then f.src else f.dst
  let near := if e.role = 1 then f.dst else f.src
  cDstY c * 32 + cDstX c = far && (cSrc c = near || cType c = 6 || cType c = 7)

/-- An SC cell in transit leaves two slots later where its entry says, on its flow's plane; otherwise it is dropped (R162,
R182, R197). -/
def routeSc (s : State) (plane : Nat) (x : Cand) : State :=
  let d := depSlot s (x.slot % 2)
  let out := ((List.range 4).map (plane * 4 + ·)).findSome? fun q =>
    (outEntry s q d.1 d.2).bind fun e =>
      if e.inPort = x.port && (match (activeSet s).bind fun g => g.flows.find? fun f => f.num = e.flow with
          | some f => f.plane = plane && flowMatches e f x.cell
          | none => false) then some q else none
  match out with
  | none => dropAt s x.port 12 x.cell
  | some q =>
    if !live s q || (usedNow s).contains (q, x.slot % 2) then dropAt s x.port 12 x.cell
    else sendLat s q (x.slot % 2) x.cell

/-- Steps 2 to 4 of Table 5.4 on a plane: the SC cells that arrived in the cycle, then its EC multicast and then its EC
unicast cells, arrived and absorbed together, in rank order (R157, R158). -/
def routePlane (s : State) (plane : Nat) : State :=
  let came := (s.cyc.arrivals.filter fun a => a.1 / 4 = plane).map fun a => (⟨a.1, a.2.1, a.2.2, false⟩ : Cand)
  let sc := came.filter fun x => cClass x.cell = 1
  let ec := sortBy ranks ((came.filter fun x => cClass x.cell ≠ 1) ++ (absorbOf s plane).map Absorbed.cand)
  let s := sc.foldl (fun s x => routeSc s plane x) s
  let s := (ec.filter Cand.isCast).foldl (fun s x => assignEc s plane x) s
  (ec.filter fun x => !x.isCast).foldl (fun s x => assignEc s plane x) s

/-- Both planes assign the cells of the present cycle (R157). -/
def routeCycle (s : State) : State := modCyc (routePlane (routePlane s 0) 1) fun c => { c with arrivals := [] }

/-! ## Arrival (R157, R161) -/

/-- The old copy has retired: a cell that names it is dropped (Table 5.8). -/
def epochDead (s : State) (c : Cell) : Bool := s.lat.retired && cEpoch c ≠ s.lat.epoch

/-- A routed cell that R154 discards. -/
def badHeader (s : State) (c : Cell) : Bool :=
  cType c ≥ 10 || cClass c ≥ 2 || (cRowCast c && cColCast c) || cDstX c ≥ dimX s || cDstY c ≥ dimY s

/-- Flow of the EXPECT_DATA entry that names an arrival slot (R191). -/
def expectFlow (s : State) (p slot : Nat) : Option Nat :=
  (activeSet s).bind fun g =>
    ((activeMap s).find? fun e => e.port = p && e.role = 3 && e.folio = cycleIndex s g s.folio && e.has slot).map (·.flow)

/-- What a good SC cell makes of its flow's record: a new highest cell, or one that fills a slot; a stream not heard before is
the newest message (R191, R246). -/
def Expect.take (e : Expect) (c : Cell) (folio slot : Nat) : Expect :=
  let key := (cQp c, cSeq c, cSrc c)
  let fill : Expect := { e with filled := e.filled + 1 }
  if cType c = 6 || cType c = 7 then
    let new : Expect := { e with ofStream := true, cell := cOff c, folio := folio, slot := slot, filled := 0 }
    if e.streams.contains key then
      (if e.ofStream && e.streams.getLast? = some key && e.cell < cOff c then new else fill)
    else { new with streams := e.streams ++ [key] }
  else
    let i := if cType c = 1 then 0 else cOff c + 1
    let ahead := (cSeq c + 4096 - e.seq) % 4096
    if e.qp ≠ some (cQp c) || (0 < ahead && ahead < 2048) || (ahead = 0 && !e.ofStream && e.cell < i) then
      { e with qp := some (cQp c), ofStream := false, seq := cSeq c, cell := i, folio := folio, slot := slot, filled := 0 }
    else fill

/-- A good SC cell for this adapter in an EXPECT_DATA slot of its flow (R191). -/
def expectArrival (s : State) (p slot : Nat) (c : Cell) : State :=
  match expectFlow s p slot with
  | none => s
  | some f =>
    if c.crc ≠ latCrc c.hdr c.payload || ! [1, 2, 6, 7].contains (cType c) then s
    else modSched s fun x => { x with
      expect := tput x.expect f (Expect.take (tget x.expect f ⟨none, [], false, 0, 0, s.folio, slot, 0⟩) c s.folio slot) }

/-- A routed cell arrives on a lattice port: this adapter's copy is ejected (step 1); what goes on is assigned at the end of
the cycle, with the cycle's other cells (Table 5.4). -/
def latArrival (s : State) (p slot : Nat) (c : Cell) : State :=
  if cType c = 0 || cType c = 8 then s
  else if !live s p then dropCell s p none c
  else if badHeader s c then dropAt s p 13 c
  else
    let s := bwBytes (bump s (latCnt p (if cClass c = 1 then 2 else 3)) 1) p false 64
    let here := cDstY c * 32 + cDstX c = myCoord s
    let s := if here && cClass c = 1 then expectArrival s p slot c else s
    let cast := cRowCast c || cColCast c
    if cType c = 9 && cClass c = 1 then eject s p c
    else if epochDead s c then dropAt s p 10 c
    else if here then eject s p c
    else
      let s := if cast then eject s p c else s
      if cAge c = 255 then dropAt s p 9 c
      else modCyc s fun y => { y with arrivals := y.arrivals ++ [(p, slot, c)] }

/-- Absorbed cells of a plane that have spent 8 more cycles age by one, and are dropped past 255 (R159, R161). -/
def ageAbsorbed (s : State) (plane : Nat) : State :=
  let b := absorbOf s plane
  let s := setAbsorb s plane (b.filterMap fun a =>
    if a.at_ + 96 ≤ s.now then (if cAge a.cell ≥ 255 then none else some ⟨aged a.cell, a.port, a.at_ + 96⟩) else some a)
  (b.filter fun a => a.at_ + 96 ≤ s.now && cAge a.cell ≥ 255).foldl (fun s a => dropAt s a.port 9 a.cell) s

/-! ## Tables and epochs (R150, R168 to R170) -/

/-- Every lattice port is dark. -/
def allDark (s : State) : Bool := s.lports.all fun p => p.state = 0

/-- A write of LAT_CFG (R150). -/
def latCfgWrite (s : State) (v : W64) : State :=
  if allDark s then modLat s fun l => { l with cfg := v &&& 0x3FFFFF } 
  else modLat (mark s 0x140008 4) fun l => { l with cfgReject := true }

/-- LAT_TABLE_LOAD (Table 5.7). -/
def tableLoad (s : State) (d : Line) : State :=
  let off := dfld d 16 0 39
  let copy := dfld d 24 0 1
  if copy = s.lat.epoch || s.lat.oldUntil.isSome then mgrFail s d 2
  else if off % 64 ≠ 0 || !domNamed s 64 off 2048 || allocPoison s 64 off 2048 then mgrFail s d 3
  else match rdAlloc s 64 off 2048 with
    | none => mgrFail s d 3
    | some bs =>
      let routes := bs.zipIdx.foldl (fun t e => tput t (e.2 / 1024 * 2048 + copy * 1024 + e.2 % 1024) e.1) s.lat.routes
      mgrOk (modLat s fun l => { l with
        routes := routes, tableIds := lmod l.tableIds copy fun _ => some (dfld d 28 0 32) }) d

/-- A link payload waits for the survey slots of every lattice port in ATTEST or above but one (R337). -/
def floodLink (s : State) (except : Option Nat) (p : Line) : State :=
  (List.range 8).foldl (fun s q =>
    if some q ≠ except && (getLat s q).state ≥ 3 then modPort s q fun x => { x with linkq := x.linkq ++ [p] } else s) s

/-- A lattice-wide link payload, by its KIND and two fields: flooded once, with what it means where it is new (R337). -/
def linkOnce (s : State) (except : Option Nat) (id : Nat × Nat × Nat) (p : Line) (f : State → State) : State :=
  if s.lat.seen.contains id then s else floodLink (f (modLat s fun l => { l with seen := id :: l.seen })) except p

/-- EPOCH_ANNOUNCE payload (Table 12.5). -/
def epochPayload (tableId ks : Nat) : Line := layout 512 [(0, 8, 2), (32, 32, tableId), (64, 64, ks)]

/-- LAT_EPOCH_SWITCH (Table 5.7, R169). -/
def epochSwitch (s : State) (d : Line) : State :=
  let ks := dfld d 16 0 64
  let id := dfld d 24 0 32
  if s.lat.switch.isSome || s.lat.oldUntil.isSome then mgrFail s d 2
  else if ks < s.folio + 8 then mgrFail s d 3
  else mgrOk (linkOnce s none (2, id, ks) (epochPayload id ks) fun s => modLat s fun l => { l with switch := some (id, ks) }) d

/-- A received EPOCH_ANNOUNCE is recorded and flooded once (R169, R337); learned in folio ks - 2 or later, it is late
(R170). -/
def epochHeard (s : State) (p id ks : Nat) : State :=
  linkOnce s (some p) (2, id, ks) (epochPayload id ks) fun s =>
    if s.lat.switch.isSome then s
    else modLat s fun l => { l with switch := some (id, ks), switchLate := decide (ks ≤ s.folio + 2) }

/-- ARITH is set on every entry below X × Y of a copy, on both planes (R170). -/
def arithCopy (s : State) (copy : Nat) : State :=
  modLat s fun l => { l with routes := l.routes.map fun e =>
    if e.1 / 1024 % 2 = copy && e.1 % 32 < dimX s && e.1 % 1024 / 32 < dimY s then (e.1, e.2 ||| 0x20) else e }

/-- The switch tick (Table 5.8, R170). -/
def epochTick (s : State) : State :=
  match s.lat.switch with
  | none => s
  | some (id, ks) =>
    if s.folio < ks then s else
      let new := 1 - s.lat.epoch
      let miss := lget s.lat.tableIds new none ≠ some id || s.lat.switchLate
      let s := if miss then
          codexHand (modLat (mark (arithCopy s new) 0x140008 3) fun l => { l with tableMiss := true }) 0x35 0x3FF 0xFF (codexCause 0 new)
        else s
      bump (modLat s fun l => { l with
        epoch := new, switch := none, switchLate := false, oldUntil := some (ks + 4), retired := false }) (devCnt 8) 1

/-- The old copy retires at tick ks + 4: absorbed cells that name it are dropped (Table 5.8). -/
def epochRetire (s : State) : State :=
  match s.lat.oldUntil with
  | some k =>
    if s.folio < k then s
    else
      let s := modLat s fun l => { l with oldUntil := none, retired := true }
      let dead := s.lat.bufA.filter (fun a => epochDead s a.cell) ++ s.lat.bufB.filter fun a => epochDead s a.cell
      dead.foldl (fun s a => dropAt s a.port 10 a.cell) (modLat s fun l => { l with
        bufA := l.bufA.filter fun a => ¬ epochDead s a.cell, bufB := l.bufB.filter fun a => ¬ epochDead s a.cell })
  | none => s

end Sys2Proof.Machine
end

