-- ==== Sys2Proof/Machine/Wfq.lean ====
section
/-! DEFINITION. Wfq.lean: the elastic outputs: eligibility, weighted fair queueing in two levels, token buckets, and the
lattice output's injections (R445 to R454). -/

namespace Sys2Proof.Machine

open Host (Outcome)

/-! ## Outputs -/

/-- An output: the lattice, or MAC k. -/
def getOut (s : State) (mac : Option Nat) : Output :=
  match mac with
  | none => s.latOut
  | some k => tget s.macOut k Output.reset

def modOut (s : State) (mac : Option Nat) (f : Output → Output) : State :=
  match mac with
  | none => { s with latOut := f s.latOut }
  | some k => { s with macOut := tmod s.macOut k Output.reset f }

/-- The RAW_SEND at the head of a RAW QP. -/
def rawHead (q : Qp) : Option SendOp :=
  match q.ops.find? fun o => (match o.phase with | .done _ => false | _ => true) with
  | some o => if o.phase = .sending && dOpcode o.desc = 0x05 then some o else none
  | none => none

/-- MAC index of a RAW_SEND (R353, Table 3.7). -/
def rawMac (d : Line) : Nat := 2 * dMac d + dSubMac d

/-- The priority of what heads a QP's queue at an output, none where nothing is ready (R447, R450). -/
def headPrio (s : State) (mac : Option Nat) (q : Qp) : Option Nat :=
  match mac with
  | none =>
    if q.udp || q.type = 1 then none
    else match q.outq with
      | c :: _ => if q.round.isSome then none else some c.prio
      | [] => (nextEcCell q).map fun x => x.1.prio
  | some k =>
    if q.type = 1 then (rawHead q).bind fun o => if rawMac o.desc = k then some (dPrio o.desc) else none
    else if q.udp && peerMac s q.peerEntry = k then (nextEcCell q).map fun x => x.1.prio
    else none

/-! ## Buckets and weights (R447, R453) -/

/-- A bucket holds at least one token, or does not shape. -/
def Bucket.ready (b : Bucket) : Bool := b.rate = 0 || b.tokens ≥ 1
def Bucket.charge (b : Bucket) (u : Nat) : Bucket := if b.rate = 0 then b else { b with tokens := b.tokens - u }
/-- Refill at a tick. -/
def Bucket.refill (b : Bucket) : Bucket := if b.rate = 0 then b else { b with tokens := min b.burst (b.tokens + b.rate) }
/-- New parameters commit: T = BURST, and BURST is at least RATE. -/
def Bucket.set (rate burst : Nat) : Bucket := ⟨rate, max rate burst, max rate burst⟩

/-- A carrel's bucket. -/
def Domain.bucket (d : Domain) : Bucket := ⟨d.rate, d.burst, d.tokens⟩

/-- The priority is paused at a MAC (R368). -/
def paused (s : State) (mac : Option Nat) (prio : Nat) : Bool :=
  match mac with
  | none => false
  | some k => ((lget s.macs k Mac.reset).pauses.lookup prio).isSome

/-- A QP's queue at an output is eligible (R450). -/
def eligible (s : State) (mac : Option Nat) (blocked : List Nat) (n : Nat) (q : Qp) : Bool :=
  match headPrio s mac q with
  | none => false
  | some p =>
    !blocked.contains n && (q.type = 1 || q.quota > 0) && q.bucket.ready &&
    (match getDom s (qpDom s q) with | some d => d.bucket.ready | none => false) && !paused s mac p

/-- Cost of `u` units at weight `w` (R448). -/
def wfqCost (u w : Nat) : Nat := u * (2 ^ 24 / max 1 w)

/-- Weight of a priority (Table 17.2). -/
def prioWeight (s : State) (p : Nat) : Nat := fld s.prioWeight.inForce (8 * p) 8

/-- Weight of a carrel at an output. -/
def carrelWeight (s : State) (mac : Option Nat) (c : Nat) : Nat :=
  match getDom s c with
  | some d => if mac.isNone then d.wLat else d.wEth
  | none => 1

/-! ## Tags (R448, R449) -/

/-- `a` is earlier than `b`. -/
def tagBefore (a b : Nat) : Bool := (a + 2 ^ 48 - b % 2 ^ 48) % 2 ^ 48 ≥ 2 ^ 47

/-- A queue that becomes eligible. -/
def Tag.enter (t : Tag) (v cost : Nat) : Tag :=
  if t.active then t else
    { t with f := ((if tagBefore v t.fLast then t.fLast else v) + cost) % 2 ^ 48, active := true }

def Tag.new : Tag := ⟨0, 0, false⟩

/-- After a selection: the next tag where the queue stays eligible. -/
def Tag.served (t : Tag) (next : Option Nat) : Tag :=
  match next with
  | some cost => { f := (t.f + cost) % 2 ^ 48, fLast := t.f, active := true }
  | none => { t with fLast := t.f, active := false }

/-- Cells of the priority at its head a QP has waiting. -/
def waitingCells (q : Qp) : Nat :=
  match nextEcCell q with
  | none => 0
  | some x => (((q.tx.filter fun t => !(t.sc.isSome || t.acked || t.sealing || t.have_ < t.cells)).takeWhile fun t => t.prio = x.1.prio).map
      fun t => t.again.length + (if q.round.isNone then t.cells + 1 - t.next else 0)).sum

/-- CMAX (R362). -/
def cmax (maxFrame : Nat) (vlan ipv6 : Bool) : Nat :=
  min 112 ((maxFrame - 18 - (if vlan then 4 else 0) - (if ipv6 then 40 else 20) - 8 - 4) / 80)

/-- Cells a datagram of a QP of carrel `c` may hold on MAC k: CMAX, its quota and the tokens of both buckets, at least one
(R452). -/
def cellsAllowed (s : State) (k c : Nat) (q : Qp) (vlan ipv6 : Bool) : Nat :=
  let tokens (b : Bucket) : Nat := if b.rate = 0 then 112 else b.tokens.toNat
  max 1 (min (cmax (maxFrame s (k / 2)) vlan ipv6)
    (min q.quota (min (tokens q.bucket) (((getDom s c).map fun d => tokens d.bucket).getD 112))))

/-- Units the head of a queue costs: one cell, or the 80-byte units of the frame it would send now, FCS included (R448,
R452). -/
def headUnits (s : State) (mac : Option Nat) (q : Qp) : Nat :=
  match mac with
  | none => 1
  | some k =>
    if q.type = 1 then (match rawHead q with | some o => max 1 (cdiv o.staged.length 80) | none => 1)
    else match s.peers.lookup q.peerEntry with
      | some p => cdiv (30 + (if p.vlanEn then 4 else 0) + (if p.ipv6 then 40 else 20) +
          80 * min (waitingCells q) (cellsAllowed s k (qpDom s q) q p.vlanEn p.ipv6)) 80
      | none => 1

/-- Least by tag, then by number. -/
def earliest (xs : List (Nat × Tag)) : Option (Nat × Tag) :=
  xs.foldl (fun b x => match b with
    | none => some x
    | some y => if tagBefore x.2.f y.2.f || (x.2.f = y.2.f && x.1 < y.1) then some x else some y) none

/-- Units of the head of a carrel: that of the QP it would select. -/
def carrelUnits (s : State) (mac : Option Nat) (qs : List Nat) : Nat :=
  (((earliest (qs.map fun n => (n, ((getQp s n).map (·.tag)).getD Tag.new))).bind fun x => getQp s x.1).map (headUnits s mac)).getD 1

/-- The eligible queues, their tags brought up to date. -/
def refreshTags (s : State) (mac : Option Nat) (blocked : List Nat) : State × List (Nat × Nat) :=
  let elig := (s.qps.filter fun e => eligible s mac blocked e.1 e.2).map fun e => (qpDom s e.2, e.1)
  let o := getOut s mac
  let qps := tmap s.qps fun n q =>
    if elig.any fun x => x.2 = n then
      { q with tag := q.tag.enter (tget o.carrelV (qpDom s q) 0) (wfqCost (headUnits s mac q) (prioWeight s ((headPrio s mac q).getD 0))) }
    else if (headPrio s mac q).isSome then { q with tag := { q.tag with active := false } } else q
  let carrels := (elig.map (·.1)).eraseDups
  let s := { s with qps := qps }
  let tags := carrels.foldl (fun t c => tput t c ((tget t c Tag.new).enter o.v
    (wfqCost (carrelUnits s mac ((elig.filter fun e => e.1 = c).map (·.2))) (carrelWeight s mac c)))) (o.carrelTags.map fun e =>
      (e.1, if carrels.contains e.1 then e.2 else { e.2 with active := false }))
  (modOut s mac fun o => { o with carrelTags := tags }, elig)

/-- The selection of R448: carrel, then QP of that carrel. -/
def selectQueue (s : State) (mac : Option Nat) (elig : List (Nat × Nat)) : Option (Nat × Nat) :=
  let o := getOut s mac
  let cs := ((elig.map (·.1)).eraseDups).map fun c => (c, tget o.carrelTags c Tag.new)
  (earliest cs).bind fun c =>
    let qs := (elig.filter fun e => e.1 = c.1).map fun e => (e.2, ((getQp s e.2).map (·.tag)).getD Tag.new)
    (earliest qs).map fun q => (c.1, q.1)

/-- Charges of a selection of `u` units and `cells` quota cells (R448, R452, R453), made once the head has left. -/
def chargeQueue (s : State) (mac : Option Nat) (blocked : List Nat) (c n u cells : Nat) : State :=
  match getQp s n with
  | none => s
  | some q0 =>
    let qf := q0.tag.f
    let cf := (tget (getOut s mac).carrelTags c Tag.new).f
    let s := modQp s n fun q => { q with quota := q.quota - cells, bucket := q.bucket.charge u }
    let s := modDom s c fun d => { d with tokens := if d.rate = 0 then d.tokens else d.tokens - u }
    let stays := match getQp s n with | some q => eligible s mac blocked n q | none => false
    let next := match getQp s n with
      | some q => wfqCost (headUnits s mac q) (prioWeight s ((headPrio s mac q).getD 0))
      | none => 0
    let s := modQp s n fun q => { q with tag := q.tag.served (if stays then some next else none) }
    let rest := (s.qps.filter fun e => qpDom s e.2 = c && eligible s mac blocked e.1 e.2).map (·.1)
    modOut s mac fun o => { o with
      v := cf, carrelV := tput o.carrelV c qf
      carrelTags := tput o.carrelTags c ((tget o.carrelTags c Tag.new).served
        (if rest ≠ [] then some (wfqCost (carrelUnits s mac rest) (carrelWeight s mac c)) else none)) }

/-! ## The lattice output (R160, R164, R165, R451) -/

/-- A cell with the injection epoch. -/
def withEpoch (s : State) (c : Cell) : Cell := latCell (setFld c.hdr 6 1 s.lat.epoch) c.payload

/-- Planes to try, in order: SPRAY for a cell of QP `n`; `planeB` says which plane a QP takes next under SPRAY 0 (R164,
Table 5.5). -/
def planeOrder (s : State) (n : Nat) (planeB : Bool) (dst : Nat) : List Nat :=
  let ok := [0, 1].filter fun p => planeUsable s p s.lat.epoch dst
  match spray s with
  | 0 => if planeB then ok.reverse else ok
  | 1 => if n % 2 = 0 then ok.take 1 else ok.reverse.take 1
  | 2 => ok.take 1
  | _ => ok.reverse.take 1

/-- What became of a cell offered to the routers. -/
inductive Offer where
  /-- on a port, or ejected here -/
  | sent (s : State) (plane : Nat)
  /-- no usable plane: discarded and counted -/
  | discarded (s : State)
  /-- no free productive slot in this cycle -/
  | blocked

/-- Offer a new EC cell (R151, R160, R164, R165). -/
def offerEc (s : State) (n : Nat) (planeB : Bool) (fixed : Option Nat) (c0 : Cell) : Offer :=
  let c := withEpoch s c0
  let dst := cDstY c * 32 + cDstX c
  if cRowCast c || cColCast c then
    -- the other plane when the cast's port is down (R239)
    let want := fixed.getD 0
    let plane := if live s (want * 4 + castDir c) then want else 1 - want
    let out := plane * 4 + castDir c
    if !live s out then .discarded (dropAt s out 11 c)
    else match freeSlot s out with | some j => .sent (sendLat s out j c) plane | none => .blocked
  else if dst = myCoord s then .sent (eject s 0x3FF c) 0
  else
    let planes := match fixed with
      | some p => if planeUsable s p s.lat.epoch dst then [p] else []
      | none => planeOrder s n planeB dst
    if planes.isEmpty then .discarded (dropCell s 0x3FF ((getQp s n).map (qpDom s)) c)
    else
      match planes.findSome? fun p => (productive s p s.lat.epoch dst).findSome? fun q => (freeSlot s q).map fun j => (p, q, j) with
      | some (p, q, j) => .sent (sendLat s q j c) p
      | none => .blocked

/-- Count an injected cell of a QP (Tables 18.3, 18.4). -/
def countSent (s : State) (n : Nat) (sc : Bool) : State :=
  match getQp s n with
  | none => s
  | some q =>
    let dom := qpDom s q
    prog (bumpDom s dom (if sc then 1 else 0) 1)
      { code := 0x01, source := fnSource q.fn, dom := some dom, cls := some (if sc then 2 else 1), seg := none, units := 1, qp := n }

/-- EC cells of a stream still wait in its QP's queue. -/
def queuedOf (s : State) (q : Qp) (comm : Nat) (c : Coll) (t : TxStream) : Bool :=
  q.outq.any fun o => (cType o.cell = 6 || cType o.cell = 7) && cQp o.cell = comm + 65536 * t.stage &&
    cSeq o.cell = c.seq % 256 * 16 + t.round % 16 && cOff o.cell ≠ 0xFFFF && cSrc o.cell = myCoord s

/-- The timer of a collective opens when the last cell of its oldest unacknowledged stream has been injected (R128, R245). -/
def openStreamTimers (s : State) (n : Nat) : State :=
  match getQp s n, s.col.comms.find? (fun e => e.2.qp = n) with
  | some q, some (comm, m) => modComm s comm fun _ => { m with run := m.run.map fun c =>
      let oldest := c.tx.find? fun t => t.ec && t.unacked
      if c.timer.isNone && (oldest.map fun t => t.have_ = t.cells.length && !queuedOf s q comm c t).getD false then
        { c with timer := some (s.now, q.rtoUs * 16000) } else c }
  | _, _ => s

/-- The head of a QP's lattice queue leaves it. -/
def popHead (s : State) (n : Nat) (plane : Nat) : State :=
  match getQp s n with
  | none => s
  | some q =>
    let s := modQp s n fun q => { q with planeB := decide (plane = 0) }
    match q.outq with
    | _ :: rest => openStreamTimers (modQp s n fun q => { q with outq := rest }) n
    | [] => match nextEcCell q with
      | some (t, i, again) => cellSent s n t.seq i again
      | none => s

/-- Cell at the head of a QP's lattice queue, with its fixed plane. -/
def headOf (s : State) (q : Qp) : Option (Cell × Option Nat) :=
  match q.outq with
  | c :: _ => some (c.cell, if c.plane < 2 then some c.plane else none)
  | [] => (nextEcCell q).map fun x => (segCell s q x.1 x.2.1 false, none)

/-- Control-tier cells, then WFQ selections of one crossbar cycle: `inj` injections and `att` attempts are left. -/
def injectLoop : Nat → Nat → State → List Nat → Bool → State
  | 0, _, s, _, _ => s
  | att + 1, inj, s, blocked, ctlBlocked =>
    if inj = 0 then s else
      let r := refreshTags s none blocked
      let s := r.1
      let ctlTurn := !ctlBlocked && (r.2.isEmpty || s.latOut.ctlRun < 8)
      match (if ctlTurn then s.latOut.ctl else []) with
      | x :: rest =>
        let pb := ((getQp s x.qp).map (·.planeB)).getD false
        match offerEc s x.qp pb none x.cell with
        | .sent s p =>
          let s := countSent (modQp s x.qp fun q => { q with planeB := decide (p = 0) }) x.qp false
          injectLoop att (inj - 1) { s with latOut := { s.latOut with ctl := rest, ctlRun := s.latOut.ctlRun + 1 } } blocked ctlBlocked
        | .discarded s => injectLoop att inj { s with latOut := { s.latOut with ctl := rest } } blocked ctlBlocked
        | .blocked => injectLoop att inj s blocked true
      | [] =>
        match selectQueue s none r.2 with
        | none => s
        | some (c, n) =>
          match (getQp s n).bind fun q => (headOf s q).map fun h => (q, h) with
          | none => injectLoop att inj s (n :: blocked) ctlBlocked
          | some (q, h) =>
            match (if q.outq.isEmpty then nextEcBad s n q else none) with
            | some t => injectLoop att inj (copyPoisoned s n t) blocked ctlBlocked
            | none =>
              match offerEc s n q.planeB h.2 h.1 with
              | .sent s p =>
                let s := chargeQueue (countSent (popHead s n p) n false) none blocked c n 1 1
                injectLoop att (inj - 1) { s with latOut := { s.latOut with ctlRun := 0 } } blocked ctlBlocked
              | .discarded s => injectLoop att inj (popHead s n 1) blocked ctlBlocked
              | .blocked => injectLoop att inj s (n :: blocked) ctlBlocked

/-- Control cells take the control slots of the cycle, oldest first (R180). -/
def sendControl (s : State) : State :=
  (List.range 8).foldl (fun s p =>
    if !live s p then s else
      [0, 1].foldl (fun s j =>
        match ctlWaiting s p with
        | c :: rest =>
          if controlSlot (depSlot s j).2 && !(usedNow s).contains (p, j) then
            sendLat (modSched s fun x => { x with ctl := tput x.ctl p rest }) p j c
          else s
        | [] => s) s) s

/-! ## Shaping and policing commands (R453 to R455) -/

/-- SCHED_CARREL: checked now, in force at the next tick. -/
def schedCarrel (s : State) (d : Line) : State :=
  let c := dfld d 16 0 7
  if c > 64 then mgrFail s d 3
  else match getDom s c with
    | none => mgrFail s d 1
    | some _ => modDom s c fun x => { x with schedNext := x.schedNext ++ [d] }

/-- QP_SHAPE. -/
def qpShape (s : State) (d : Line) : State :=
  let n := dfld d 16 0 20
  match getQp s n with
  | none => mgrFail s d 1
  | some q => if qpDom s q ≥ 64 then mgrFail s d 1 else { s with qpNext := s.qpNext ++ [(n, d)] }

/-- Buckets are refilled, then new parameters commit with T = BURST; policer intervals turn over (R453 to R455,
Table 17.4). -/
def bucketTick (s : State) : State :=
  let s := { s with
    qps := tmap s.qps fun _ q => { q with bucket := q.bucket.refill }
    doms := tmap s.doms fun _ d => { d with tokens := d.bucket.refill.tokens } }
  let police := tmap s.police fun c p =>
    match getDom s c with
    | some d => if s.folio % max 1 d.policeFolios = 0 then { p with count := 0 } else p
    | none => p
  let s := { s with police := police }
  let s := s.doms.foldl (fun s e =>
    e.2.schedNext.foldl (fun s d =>
      let b := Bucket.set (dfld d 20 0 32) (dfld d 24 0 32)
      let s := modDom s e.1 fun x => { x with
        wLat := dfld d 18 0 8, wEth := dfld d 19 0 8, rate := b.rate, burst := b.burst, tokens := b.tokens
        policeLimit := dfld d 28 0 32, policeFolios := max 1 (dfld d 32 0 8), schedNext := [] }
      mgrOk { s with police := tupd s.police e.1 fun p => { p with count := 0 } } d) s) s
  (nextOf s 0xB5).foldl (fun s x =>
    if (getQp s x.1).isNone then mgrFail s x.2 1
    else mgrOk (modQp s x.1 fun q => { q with bucket := Bucket.set (dfld x.2 20 0 32) (dfld x.2 24 0 32) }) x.2) (takeNext s 0xB5)

end Sys2Proof.Machine
end

