-- ==== Sys2Proof/Machine/Sched.lean ====
section
/-! DEFINITION. Sched.lean: scheduled delivery: gate-list images and their validation, activation, admission of SC
messages, their cells in reserved slots, failure notices and the contingency switch (R177 to R198). -/

namespace Sys2Proof.Machine

open Host (Outcome)

/-! ## The image (Tables 6.5 to 6.7a) -/

/-- The field of `w` bits at byte `off`, bit `lo`, of an image. -/
def imf (img : List Byte) (off lo w : Nat) : Nat := (natOf ((img.drop off).take 8) >>> lo) % 2 ^ w

/-- A flow record (Table 6.6). -/
def imFlow (img : List Byte) (o : Nat) : Flow :=
  { num := imf img o 0 16, role := imf img (o + 2) 0 2, plane := imf img (o + 2) 2 1, b := imf img (o + 2) 3 13
    src := imf img (o + 4) 0 10, dst := imf img (o + 6) 0 10, lagF := imf img (o + 8) 0 16, lagR := imf img (o + 10) 0 16
    ackGap := imf img (o + 12) 0 16, retryGap := imf img (o + 14) 0 16 }

/-- A slot-map entry (Table 6.7a). -/
def imEntry (img : List Byte) (port o : Nat) : SlotEntry :=
  { port := port, start := imf img o 0 14, run := imf img o 14 10, role := imf img o 24 3, inPort := imf img o 27 4
    flow := imf img o 32 16, folio := imf img o 48 6 }

/-- The maps of L0 to L7, one after the other: none where they run past the image. -/
def imMaps (img : List Byte) (len off : Nat) : Option (List SlotEntry) :=
  ((List.range 8).foldl (fun (acc : Option (Nat × List SlotEntry)) p =>
    acc.bind fun a =>
      let n := imf img a.1 0 16
      let fin := a.1 + 8 + 8 * n
      if fin > len then none else some (fin, a.2 ++ (List.range n).map fun i => imEntry img p (a.1 + 8 + 8 * i)))
    (if off + 8 ≤ len then some (off, []) else none)).map (·.2)

/-- The set an image spells, with its contingency sections by link: none where a part runs past the image. -/
def imSet (at_ : Gtc) (img : List Byte) (len off : Nat) : Option GateSet :=
  let flowN := imf img 12 0 16
  let flowO := imf img 32 0 32
  let contN := imf img 14 0 13
  let contO := imf img 40 0 32
  if flowO + 16 * flowN > len || contO + 8 * contN > len || contN > 4096 then none else
    (imMaps img len (imf img 36 0 32)).bind fun m =>
      ((List.range contN).foldl (fun (acc : Option (Tbl (List SlotEntry))) i =>
        acc.bind fun t => (imMaps img len (imf img (contO + 8 * i + 4) 0 32)).map fun m =>
          tput t (imf img (contO + 8 * i) 0 12) m) (some [])).map fun conts =>
        { loadedAt := at_, id := imf img 0 0 32, cycle := imf img 6 0 6 + 1, noticeBound := imf img 48 0 16
          flows := (List.range flowN).map fun i => imFlow img (flowO + 16 * i)
          map := m, conts := conts, imgBase := off, imgLen := len }

/-! ## Validation (Table 6.8) -/

/-- Rule 4 for one entry. -/
def entryOk (s : State) (g : GateSet) (e : SlotEntry) : Bool :=
  e.start < s.slots && e.runLen ≤ countRun e (s.slots - e.start) && e.role ≤ 3 && (e.role = 3 || e.inPort ≤ 8) &&
    e.folio < g.cycle && g.flows.any fun f => f.num = e.flow

/-- Rule 5 for two entries. -/
def entriesClash (slots : Nat) (a b : SlotEntry) : Bool :=
  a.port = b.port && a.folio = b.folio && decide (a.role = 3) = decide (b.role = 3) &&
    (List.range slots).any fun t => a.has t && b.has t

def noClash (slots : Nat) : List SlotEntry → Bool
  | [] => true
  | e :: es => es.all (fun f => !entriesClash slots e f) && noClash slots es

/-- Rule 6 for one entry: input and output on one plane, and not one port. -/
def planeOk (e : SlotEntry) : Bool := e.role = 3 || e.inPort ≥ 8 || (e.inPort / 4 = e.port / 4 && e.inPort ≠ e.port)

/-- Rule 7 for one flow. -/
def dataOk (g : GateSet) (f : Flow) : Bool :=
  f.role ≠ 1 || f.b = 0 || (List.range g.cycle).all fun k => localSlots g.map f.num 0 k = f.b

/-- Rule 8 for one flow: its retry slots show at its source, its ACK slots at its target. -/
def budgetOk (slots : Nat) (g : GateSet) (f : Flow) : Bool :=
  2 * f.lagF + f.lagR + f.ackGap + f.retryGap + 256 ≤ slots &&
    (f.role ≠ 1 || (List.range g.cycle).all fun k => 0 < localSlots g.map f.num 2 k) &&
    (f.role ≠ 2 || (List.range g.cycle).all fun k => 0 < localSlots g.map f.num 1 k)

/-- Plane of a link (R183). -/
def linkPlane (link : Nat) : Nat := link % 4 / 2

/-- A port of this adapter is an end of a link. -/
def linkEnd (s : State) (link : Nat) : Bool := (List.range 8).any fun p => linkOf s p = link

/-- An entry uses a port of a link. -/
def entryOn (s : State) (link : Nat) (e : SlotEntry) : Bool :=
  linkOf s e.port = link || (e.role < 3 && e.inPort < 8 && linkOf s e.inPort = link)

/-- The base path of a flow crosses a link: seen at the link's ends, from the section for the link that moves the flow, and
otherwise not shown by this adapter's image (log 95). -/
def crosses (s : State) (g : GateSet) (m : List SlotEntry) (f link : Nat) : Bool :=
  (flowEntries m f).any (entryOn s link) ||
    (match g.conts.lookup link with
     | some c => flowEntries c f ≠ flowEntries g.map f
     | none => !linkEnd s link && (match g.flows.find? fun x => x.num = f with
        | some x => x.plane = linkPlane link && Config.pathCrosses g.id f link
        | none => false))

/-- A section must keep the flow as the base has it: a flow of the other plane, or at an end of the link one with no entry
on it, does not cross the link (rule 9). -/
def mustKeep (s : State) (g : GateSet) (link : Nat) (f : Flow) : Bool :=
  f.plane ≠ linkPlane link || (linkEnd s link && !(flowEntries g.map f.num).any (entryOn s link))

/-- Rule 9 for one section, as far as this adapter's image shows the base paths. -/
def sectionOk (s : State) (g : GateSet) (c : Nat × List SlotEntry) : Bool :=
  (c.2.all fun e => !entryOn s c.1 e) &&
    g.flows.all fun f => !mustKeep s g c.1 f || flowEntries c.2 f.num = flowEntries g.map f.num

/-- The lag SCH_LAG reports (R198). -/
def schLag (s : State) (p : Nat) : Nat := if live s p then (getLat s p).lag else 0

/-- Rule 1, the image's own part of it included. -/
def headerOk (s : State) (img : List Byte) (len id : Nat) : Bool :=
  imf img 4 0 8 = 1 && imf img 5 0 2 = s.time.fsize && imf img 8 0 10 = fld s.lat.cfg 0 10 && imf img 10 0 10 = myCoord s &&
    id ≠ 0 && imf img 0 0 32 = id && !(s.sched.sets.any fun g => g.id = id) && 64 ≤ len && len ≤ 2 ^ 28

/-- The first rule of Table 6.8 an image breaks, or the set it holds. -/
def validate (s : State) (img : List Byte) (off id : Nat) : Except Nat GateSet :=
  let len := imf img 44 0 32
  if !headerOk s img len id then .error 1
  else match imSet s.now img len off with
    | none => .error 1
    | some g =>
      let maps := g.map :: g.conts.map (·.2)
      if !(List.range 8).all (fun p => imf img (16 + 2 * p) 0 16 = schLag s p) then .error 2
      else if g.noticeBound > s.slots then .error 3
      else if !maps.all (fun m => m.all (entryOk s g)) then .error 4
      else if !maps.all (noClash s.slots) then .error 5
      else if !maps.all (fun m => m.all planeOk) then .error 6
      else if !g.flows.all (dataOk g) then .error 7
      else if !g.flows.all (budgetOk s.slots g) then .error 8
      else if !g.conts.all (sectionOk s g) then .error 9
      else if s.sched.sets.length ≥ 4 then .error 10
      else .ok g

/-! ## Commands (Table 6.9) -/

/-- SET_LOADED payload (Table 12.5). -/
def loadedPayload (id coord : Nat) : Line := layout 512 [(0, 8, 4), (32, 32, id), (64, 10, coord)]

/-- Every adapter of the lattice reports a set loaded (R187). -/
def latticeHas (s : State) (id : Nat) : Bool :=
  (List.range (dimX s)).all fun x => (List.range (dimY s)).all fun y => s.sched.reports.contains (id, y * 32 + x)

/-- A load that fails (R186): the rule that rejects it; 0 where the image cannot be read at all (log 96). -/
def loadFail (s : State) (d : Line) (rule : Nat) : State :=
  mgrFail (modSched (mark s 0x150000 4) fun x => { x with loadError := true, loadRule := rule }) d 3

/-- SCH_SET_LOAD (R186). -/
def setLoad (s : State) (d : Line) : State :=
  let off := dfld d 16 0 39
  let id := dfld d 24 0 32
  if off % 64 ≠ 0 || !domNamed s 64 off 64 || allocPoison s 64 off 64 then loadFail s d 0
  else
    let len := max 64 (match rdAlloc s 64 off 64 with | some h => imf h 44 0 32 | none => 64)
    if len > 2 ^ 28 || !domNamed s 64 off len then loadFail s d 1
    else if allocPoison s 64 off len then loadFail s d 0
    else match rdAlloc s 64 off len with
      | none => loadFail s d 0
      | some img =>
        match validate s img off id with
        | .error r => loadFail s d r
        | .ok g =>
          if leaving s 64 off len then mgrFail s d 2 else
          let s := modSched s fun x => { x with
            sets := x.sets ++ [g], loadRule := 0, lastLoaded := some id
            reports := if x.reports.contains (id, myCoord s) then x.reports else (id, myCoord s) :: x.reports }
          mgrOk (floodLink s none (loadedPayload id (myCoord s))) d

/-- GTC stamps' folio. -/
def folioOf (s : State) (stamp : Nat) : Nat := stamp / s.F

/-- A contingency switch waits for its tick (R194). -/
def switchWaits (s : State) : Bool :=
  s.sched.active.isSome && s.sched.notices.any fun n => folioOf s n.stamp + 2 > s.folio && !s.sched.covered.contains n.link

/-- A control cell for the far end of a port (R180). -/
def ctrlCell (s : State) (p : Nat) (payload : Line) : Cell :=
  latCell (latHdr 9 1 0 (neighbour s p) false false (myCoord s) 0 0 0 false) payload

/-- A control payload goes to every live lattice port but one. -/
def floodCtl (s : State) (except : Option Nat) (payload : Line) : State :=
  (List.range 8).foldl (fun s q =>
    if some q ≠ except && live s q then
      modSched s fun x => { x with ctl := tput x.ctl q (tget x.ctl q [] ++ [ctrlCell s q payload]) }
    else s) s

/-- Set announcement payload: KIND 0x02 and the four values of R188 (the manual gives their places none). -/
def announcePayload (hops id base cycle k : Nat) : Line :=
  layout 512 [(0, 8, 2), (8, 8, hops), (32, 32, id), (64, 64, base), (128, 8, cycle), (192, 64, k)]

/-- Start tick of a set: the least base + n * cycle at or after k + 2 (R188). -/
def startTick (base cycle k : Nat) : Nat :=
  if base ≥ k + 2 then base else base + cdiv (k + 2 - base) (max 1 cycle) * max 1 cycle

/-- SCH_SET_ACTIVATE (R188). -/
def setActivate (s : State) (d : Line) : State :=
  let base := dfld d 16 0 64
  let id := dfld d 24 0 32
  match s.sched.sets.find? fun g => g.id = id with
  | none => mgrFail s d 2
  | some g =>
    if !latticeHas s id || s.sched.pending.isSome || switchWaits s then mgrFail s d 2
    else
      let s := modSched s fun x => { x with pending := some (id, base, g.cycle, startTick base g.cycle s.folio) }
      mgrOk (floodCtl s none (announcePayload 0 id base g.cycle s.folio)) d

/-- SCH_SET_UNLOAD. -/
def setUnload (s : State) (d : Line) : State :=
  let id := dfld d 16 0 32
  if !(s.sched.sets.any fun g => g.id = id) then mgrFail s d 1
  else if s.sched.active = some id || (match s.sched.pending with | some p => decide (p.1 = id) | none => false) then mgrFail s d 2
  else mgrOk (modSched s fun x => { x with
    sets := x.sets.filter fun g => g.id ≠ id
    reports := x.reports.filter fun r => r ≠ (id, myCoord s) }) d

/-- SCH_FLOW_BIND. -/
def flowBind (s : State) (d : Line) : State :=
  let f := dfld d 16 0 16
  let n := dfld d 20 0 20
  if n ≠ 0 && (getQp s n).isNone then mgrFail s d 1
  else if !sourceFlow s f then mgrFail s d 3
  else mgrOk (modSched s fun x => { x with binds := if n = 0 then tdel x.binds f else tput x.binds f n }) d

/-- A received set announcement (R188): recorded and flooded once. -/
def announceHeard (s : State) (port id base cycle k : Nat) : State :=
  if s.sched.pending.isSome then s
  else if s.sched.active = some id && s.sched.activeFrom = startTick base cycle k then s
  else
    let s := modSched s fun x => { x with pending := some (id, base, cycle, startTick base cycle k) }
    floodCtl s (some port) (announcePayload 1 id base cycle k)

/-- A received SET_LOADED (R187, R337): recorded and flooded once. -/
def loadedHeard (s : State) (port id coord : Nat) : State :=
  if s.sched.reports.contains (id, coord) then s
  else floodLink (modSched s fun x => { x with reports := (id, coord) :: x.reports }) (some port) (loadedPayload id coord)

/-! ## Admission and the promise (R189, R190, R192) -/

/-- Cells of a message of `len` staged bytes (R190). -/
def messageCells (len : Nat) : Nat := segCount len + len / segBytes * 65536 + cdiv (len % segBytes) 64

/-- Folios of the promise: from index `i` of the cycle on until `need` slots are there. -/
def foliosFor (g : GateSet) (m : List SlotEntry) (f : Nat) : Nat → Nat → Nat → Nat
  | 0, _, _ => 0
  | fuel + 1, i, need =>
    let b := localSlots m f 0 (i % g.cycle)
    if need ≤ b then 1 else 1 + foliosFor g m f fuel (i + 1) (need - b)

/-- m of R190 for a message of C cells admitted at tick ta. -/
def promiseFolios (s : State) (g : GateSet) (f ta c : Nat) : Nat :=
  let m := activeMap s
  let per := (List.range g.cycle).foldl (fun n k => n + localSlots m f 0 k) 0
  if per = 0 then 0 else
    let q := (c - 1) / per
    q * g.cycle + foliosFor g m f g.cycle (cycleIndex s g ta) (c - q * per)

/-- Original cells of a flow's messages are still unsent. -/
def flowUnsent (s : State) (f : Nat) : Bool :=
  (s.qps.any fun e => (e.2.tx.any fun t => t.sc = some f && !t.acked && t.next ≤ t.cells) ||
    e.2.ops.any fun o => o.onFlow && dScFlow o.desc = f && o.phase = .sending && o.uncut) ||
  s.col.comms.any fun e => e.2.run.any fun c => c.tx.any fun t =>
    t.flow = some f && t.admitted && !t.asEc && (t.left ≠ [] || t.have_ < t.cells.length)

/-- An SC message that leaves its flow goes on as EC: its segments join the EC work, the timer of R128 opens if all of the
oldest one has been sent, and what is not staged yet is staged segment by segment. -/
def toEc (s : State) (n idx : Nat) (late : Bool) : State :=
  let s := modOp s n idx fun o => { o with late := o.late || late, asEc := true }
  let s := modQp s n fun q =>
    let tx := q.tx.map fun t => if t.op = some idx then { t with sc := none } else t
    let oldest := tx.find? fun t => !t.acked && t.sc.isNone
    { q with
      tx := tx
      timer := match q.timer, oldest with
        | none, some t => if t.next > t.cells then some (s.now, q.rtoUs * 16000) else none
        | tm, _ => tm
      ops := q.ops.map fun o =>
        if o.idx = idx && o.plain && o.phase = .sending && o.uncut && o.toRead = 0 && (filling q idx).isNone then
          { o with staged := [], ready := 0, phase := .queued } else o }
  sendPump 70000 s n

/-- The data of the flow's slots in this folio is staged, or that of the first segment of a sealed QP (R140, R189). -/
def stagedFor (s : State) (q : Qp) (o : SendOp) : Bool :=
  o.phase = .staged || (o.phase = .queued && o.toRead = 0 &&
    min o.total (if q.sealed then segBytes else 64 * dataSlots s (dScFlow o.desc) s.folio) ≤ o.ready)

/-- SC_ADMISSION at a tick (R189): the message that heads a QP's SC work, once the cells of the folio's slots are staged and its
flow's previous message has sent all its original cells. One whose flow the active set does not carry goes as EC (Table
6.1). -/
def scAdmit (s : State) : State :=
  s.qps.foldl (fun s e =>
    match (getQp s e.1).bind fun q => (q.ops.find? fun o =>
        o.onFlow && (o.before || (o.phase = .sending && o.uncut))).map fun o => (q, o) with
    | none => s
    | some (q, o) =>
      let f := dScFlow o.desc
      match activeSet s, flowCarried s f with
      | some g, true =>
        if !stagedFor s q o || flowUnsent s f then s else
          sendPump 70000 (modOp s e.1 o.idx fun o => { o with
            phase := .sending, sc := some (s.folio, promiseFolios s g f s.folio (messageCells o.total)) }) e.1
      | _, _ =>
        if o.phase = .staged then sendPump 70000 (modOp s e.1 o.idx fun o => { o with phase := .sending, late := true }) e.1
        else if o.phase = .queued && o.toRead = 0 then
          sendPump 70000 (modOp s e.1 o.idx fun o => { o with staged := [], ready := 0, late := true }) e.1
        else s) s

/-- PROMISE_CHECK_TICK: messages of the flow whose check tick has passed (R192). -/
def promiseCheck (s : State) (f : Nat) : State :=
  s.qps.foldl (fun s e =>
    (e.2.ops.filter fun o => dSc o.desc && dScFlow o.desc = f && !o.late && o.phase = .sending &&
        (match o.sc with | some (ta, m) => decide (ta + m + 5 ≤ s.folio) | none => false)).foldl
      (fun s o => toEc s e.1 o.idx true) s) s

/-! ## Failure notices and the switch (R193 to R196) -/

/-- Flows of the active set that cross a link. -/
def crossing (s : State) (link : Nat) : List Nat :=
  match activeSet s with
  | none => []
  | some g => (g.flows.map (·.num)).eraseDups.filter fun f => crosses s g (activeMap s) f link

/-- Failure notice payload (Table 6.7). -/
def noticePayload (hops : Nat) (n : Notice) : Line :=
  layout 512 [(0, 8, 1), (8, 8, hops), (16, 12, n.link), (28, 4, n.cause), (32, 32, n.setId), (64, 64, n.stamp)]

/-- A notice is recorded once, flooded, and freezes the source flows that cross its link (R193, R195). -/
def takeNotice (s : State) (except : Option Nat) (hops : Nat) (n : Notice) : State :=
  if s.sched.notices.any fun x => x.link = n.link && x.stamp = n.stamp then s
  else
    let s := modSched s fun x => { x with notices := x.notices ++ [n] }
    let s := floodCtl s except (noticePayload hops n)
    if s.sched.covered.contains n.link then s else
      let hit := (crossing s n.link).filter (sourceFlow s)
      modSched s fun x => { x with frozen := (x.frozen ++ hit.filter fun f => ¬ x.voids.contains f).eraseDups }

/-- A flow is voided: its messages in progress go on as EC (R196). -/
def voidFlow (s : State) (f : Nat) : State :=
  let s := modSched s fun x => { x with
    voids := if x.voids.contains f then x.voids else x.voids ++ [f]
    frozen := x.frozen.filter (· ≠ f), rewind := tdel x.rewind f, ackRest := tdel x.ackRest f }
  s.qps.foldl (fun s e =>
    (e.2.ops.filter fun o => o.onFlow && dScFlow o.desc = f && o.sc.isSome).foldl
      (fun s o => toEc s e.1 o.idx false) s) s

/-- The cells of unacknowledged segments and streams a flow sent at or after tick k, in order (R195). -/
def sentSince (s : State) (f k : Nat) : List ScCell :=
  let segs : List (Nat × ScCell) := s.qps.flatMap fun e => (e.2.tx.filter fun t => t.sc = some f && !t.acked).flatMap fun t =>
    t.sentIn.map fun x => (x.2, .seg e.1 t.seq x.1)
  let streams : List (Nat × ScCell) := s.col.comms.flatMap fun e => e.2.run.flatMap fun c =>
    (c.tx.filter fun t => t.flow = some f && !t.asEc && (t.relayOf.isSome || t.unacked)).flatMap fun t =>
      t.sentIn.map fun x => (x.2, .stream e.1 c.idx t.stage t.round t.relayOf t.next x.1)
  (sortBy (fun a b => a.1 ≤ b.1) ((segs ++ streams).filter fun x => x.1 / 16384 ≥ k)).map (·.2)

/-- CONTINGENCY_SWITCH event and record (R194). -/
def switchEvent (s : State) (n : Notice) (voided : Bool) : State :=
  let set := s.sched.active.getD 0
  eventAndCodex s 0x08 0x41 0x082 n.link
    (evData [(20, 32, set), (24, 64, n.stamp), (32, 64, s.folio), (40, 8, b2n voided)])

/-- One notice of folio j - 2 takes effect at tick j; only the first of the folio may switch (R194). -/
def applyNotice (s : State) (first : Bool) (n : Notice) : State :=
  match activeSet s with
  | none => s
  | some g =>
    if s.sched.covered.contains n.link then s
    else
      let hit := crossing s n.link
      let s := modSched s fun x => { x with covered := n.link :: x.covered }
      if first && s.sched.contLink.isNone && (g.conts.lookup n.link).isSome then
        let back := (s.sched.frozen.filter hit.contains).map fun f => (f, sentSince s f (folioOf s n.stamp - 1))
        let s := modSched s fun x => { x with
          contLink := some n.link, frozen := x.frozen.filter fun f => ¬ hit.contains f
          rewind := back.foldl (fun t b => tput t b.1 b.2) x.rewind }
        switchEvent (bump s (devCnt 7) 1) n false
      else switchEvent (hit.foldl voidFlow s) n true

/-- Notices due at this tick, in the order of R194: the first of them may switch, the others void. -/
def dueNotices (s : State) : List Notice :=
  sortBy (fun a b => a.stamp < b.stamp || (a.stamp = b.stamp && a.link ≤ b.link))
    (s.sched.notices.filter fun n => folioOf s n.stamp + 2 = s.folio)

/-- The notices due at a tick take effect in order. -/
def applyDue (s : State) : State :=
  match (dueNotices s).filter fun n => ¬ s.sched.covered.contains n.link with
  | [] => s
  | n :: rest => rest.foldl (fun s n => applyNotice s false n) (applyNotice s true n)

/-- Links that are down when a set starts, earliest notice first: those a notice has named since the set was loaded, and
those of this adapter's own ports that its map uses (R188, Table 6.12; log 97). -/
def downLinks (s : State) (g : GateSet) : List Nat :=
  let told := sortBy (fun a b => a.stamp < b.stamp || (a.stamp = b.stamp && a.link ≤ b.link))
    (s.sched.notices.filter fun n => g.loadedAt ≤ n.stamp && folioOf s n.stamp + 2 ≤ s.folio)
  let own := ((List.range 8).filter fun p => !live s p && (g.map.any fun e => e.port = p)).map (linkOf s)
  ((told.map (·.link)) ++ own).eraseDups

/-- SET_START at tick S (R188): messages in progress on flows that change have their check tick moved one folio; those on
flows the new set does not carry go on as EC. -/
def startSet (s : State) : State :=
  match s.sched.pending with
  | none => s
  | some (id, base, cycle, st) =>
    if st ≠ s.folio then s else
      let old := activeMap s
      let had := s.sched.active.isSome
      let s := modSched s fun x => { x with
        active := some id, activeFrom := st, pending := none, voids := [], covered := [], frozen := [], contLink := none }
      let down := match activeSet s with | some g => downLinks s g | none => []
      let link := match activeSet s with
        | some g => down.head?.bind fun l => if (g.conts.lookup l).isSome then some l else none
        | none => none
      let s := modSched s fun x => { x with contLink := link, covered := down }
      let s := if !had then s else
        s.qps.foldl (fun s e =>
          (e.2.ops.filter fun o => o.onFlow && o.sc.isSome).foldl (fun s o =>
            let f := dScFlow o.desc
            if !flowCarried s f then toEc s e.1 o.idx false
            else if flowEntries old f ≠ flowEntries (activeMap s) f then
              modOp s e.1 o.idx fun o => { o with sc := o.sc.map fun x => (x.1, x.2 + 1) }
            else s) s) (mapTx s fun t => match t.flow with
              | some f => if flowEntries old f ≠ flowEntries (activeMap s) f then { t with check := t.check.map (· + 1) } else t
              | none => t)
      if st = base then s else
        eventAndCodex (modSched (mark s 0x150000 3) fun x => { x with lateBase := true }) 0x07 0x40 0x082 id
          (evData [(20, 64, base), (28, 64, st), (36, 8, cycle)])

/-- The scheduled class at a tick: a set start, then the notices due (R188, R194), then admission (R189). -/
def schedTick (s : State) : State :=
  let s := startSet s
  scAdmit (applyDue s)

/-! ## SC cells in their slots (R189, R191, R451) -/

/-- An ACK that leaves in a flow's slot carries the echo counts and starts them afresh (R172). -/
def echoed (s : State) (n ty : Nat) : State :=
  if ty = 3 then modQp s n fun q => { q with marked := 0, total := 0 } else s

/-- The cell a reserved slot carries, with the QP it counts for; none where its segment or stream is gone. -/
def scCell (s : State) (c : ScCell) (retx : Bool) : Option (Nat × Cell) :=
  match c with
  | .seg n seq i => (getQp s n).bind fun q => (q.tx.find? fun t => t.seq = seq).map fun t => (n, segCell s q t i retx)
  | .stream comm idx stage round origin dest i =>
    (getComm s comm).bind fun m => (m.run.find? fun c => c.idx = idx).bind fun c =>
      (c.tx.find? fun t => t.named stage round origin dest).map fun t =>
        (m.qp, streamCell s m comm c t i 0 (rankCoord s m dest) 1)

/-- A cell of a stream has left on its flow. -/
def TxStream.onSlot (t : TxStream) (i slot : Nat) (again : Bool) (now : Gtc) : TxStream :=
  let t := { t with sentIn := tput t.sentIn i slot }
  if again then { t with again := t.again.erase i, resent := tput t.resent i now } else { t with left := t.left.erase i }

/-- An SC cell has left in slot j of the cycle. -/
def scSent (s : State) (j : Nat) (c : ScCell) (again : Bool) : State :=
  match c with
  | .seg n seq i => cellSent s n seq i again (slotNo s j)
  | .stream comm idx stage round origin dest i =>
    let put (t : TxStream) : TxStream := if t.named stage round origin dest then t.onSlot i (slotNo s j) again s.now else t
    modColl s comm idx fun c => { c with tx := c.tx.map put }

/-- An SC cell about to be sent again has a copy that reads as poisoned: its QP enters ERROR, with its descriptor POISON (Table
21.4); a collective of the QP is aborted by R247. -/
def scCopyPoisoned (s : State) (c : ScCell) : Option State :=
  match c with
  | .seg n seq i => (getQp s n).bind fun q => (q.tx.find? fun t => t.seq = seq).bind fun t =>
      if resendBad s n q t i then some (copyPoisoned s n t) else none
  | .stream comm idx stage round origin dest i =>
    (getComm s comm).bind fun m => (m.run.find? fun c => c.idx = idx).bind fun c =>
      (c.tx.find? fun t => t.named stage round origin dest).bind fun t =>
        if streamBad s m comm c t i then some (enterError s m.qp none 0xA 3 true) else none

/-- Send an SC cell in slot j of the cycle. -/
def sendScCell (s : State) (p j : Nat) (c : ScCell) (retx again : Bool) : State :=
  match (if retx then scCopyPoisoned s c else none) with
  | some s => s
  | none =>
  match scCell s c retx with
  | none => s
  | some (n, x) => sendLat (countSent (scSent s j c again) n true) p j (withEpoch s x)

/-- A flow's ACK slot carries the next cell of its acknowledgement round. A stream acknowledged whole is forgotten, but for
the flow's newest one. -/
def sendScAck (s : State) (p j f : Nat) : State :=
  match (s.sched.expect.lookup f).bind fun x => (nextAck s f x).map fun y => (x, y) with
  | none => s
  | some (x, (ty, some k, seq, pay), rest) =>
    let s := modSched s fun y => { y with
      ackRest := tput y.ackRest f rest
      expect := tput y.expect f (if ty = 3 then
        { x with streams := x.streams.filter fun z => !(z.1 = k && z.2.1 = seq) || x.streams.getLast? = some z } else x) }
    let dst := ((x.streams.find? fun z => z.1 = k && z.2.1 = seq).map (·.2.2)).getD 0
    sendLat s p j (latCell (latHdr ty 1 s.lat.epoch dst false false (myCoord s) k seq 0 false) pay)
  | some (x, (ty, none, seq, pay), rest) =>
    match x.qp.bind fun n => (getQp s n).map fun q => (n, q) with
    | none => modSched s fun y => { y with ackRest := tput y.ackRest f rest }
    | some (n, q) =>
      let pay := if ty = 3 then ackPayload q else pay
      let s := modSched (echoed s n ty) fun y => { y with
        ackRest := tput y.ackRest f rest, naks := if ty = 4 then tdel y.naks n else y.naks }
      sendLat s p j (withEpoch s (latCell (qpHdr s q ty 1 seq 0 false) pay))

/-- Send what slot j of the cycle carries. -/
def sendSc (s : State) (p j : Nat) (o : ScOut) : State :=
  match o with
  | .ack f => sendScAck s p j f
  | .first c => sendScCell s p j c false false
  | .back c => sendScCell (modSched s fun y => { y with rewind := tmap y.rewind fun _ l => l.filter (· ≠ c) }) p j c true false
  | .again c => sendScCell s p j c true true

/-- The SC cells this adapter injects in the slots of the cycle. -/
def injectSc (s : State) : State :=
  (List.range 8).foldl (fun s p =>
    if !live s p then s else
      [0, 1].foldl (fun s j =>
        let d := depSlot s j
        if (usedNow s).contains (p, j) then s
        else match scNext s p d.1 d.2 with
          | some o => sendSc s p j o
          | none => s) s) s

/-- One crossbar cycle of the lattice output: control slots, SC slots, then EC injection into what the routers left (R157,
R160, R180, R451). -/
def latticeInject (s : State) : State := injectLoop 32 16 (injectSc (sendControl s)) [] false

/-- The lattice side of the present crossbar cycle, at its end: the cells that arrived and the absorbed ones are assigned;
injections, if given, take what is left (Table 5.4). -/
def latticeCycle (s : State) : State :=
  let s := routeCycle s
  if s.cyc.inject then latticeInject (modCyc s fun c => { c with inject := false }) else s

end Sys2Proof.Machine
end

