-- ==== Sys2Proof/Machine/Streams.lean ====
section
/-! DEFINITION. Streams.lean: geometry of a communicator, rounds and pieces of a collective, and the cells of its streams
(R227, R229, R232 to R241). -/

namespace Sys2Proof.Machine

/-! ## Members (R227, R229) -/

def myCol (s : State) (m : Comm) : Nat := myRank s m % max 1 m.cols
def myRow (s : State) (m : Comm) : Nat := myRank s m / max 1 m.cols

/-- Ranks of a column, by row, and of a row, by column. -/
def colRanks (m : Comm) (a : Nat) : List Nat := (List.range m.rows).map fun p => a + m.cols * p
def rowRanks (m : Comm) (b : Nat) : List Nat := (List.range m.cols).map fun a => a + m.cols * b

/-! ## Rounds and pieces (R204, R236, R241) -/

/-- Piece length Pe (R236). -/
def pieceLen (m : Comm) : Nat := 128 * (64 * (if m.slots = 0 then m.shared else m.slots) / max 1 m.rows)

/-- Bytes of a round of a gather (R241). -/
def gatherRound : Nat := 131072

/-- Rounds of a collective. -/
def rounds (m : Comm) (c : Coll) : Nat :=
  if c.op = 0x12 then max 1 (cdiv c.count (max 1 (pieceLen m)))
  else if c.reduces then max 1 (cdiv c.count (max 1 (m.size * pieceLen m)))
  else if c.gathers then max 1 (cdiv (c.sf.lenImage c.count) gatherRound)
  else 1

/-- Source elements [lo, hi) of the piece of a rank in a round. -/
def pieceOf (m : Comm) (c : Coll) (n r : Nat) : Nat × Nat :=
  let pe := pieceLen m
  if c.op = 0x12 then (r * c.count + min (n * pe) c.count, r * c.count + min ((n + 1) * pe) c.count)
  else (min (n * (m.size * pe) + r * pe) c.count, min (n * (m.size * pe) + (r + 1) * pe) c.count)

def pieceCount (m : Comm) (c : Coll) (n r : Nat) : Nat := (pieceOf m c n r).2 - (pieceOf m c n r).1

/-- Bytes [lo, hi) of a member image that a gather's round covers. -/
def roundBytes (c : Coll) (n : Nat) : Nat × Nat :=
  let l := c.sf.lenImage c.count
  (min (n * gatherRound) l, min ((n + 1) * gatherRound) l)

/-- Source ranges of a round: offset in the image and length. A reduction's staged bytes are, rank by rank, the elements
of the piece and its scale bytes: an image of the piece by itself. -/
def sourceRanges (m : Comm) (c : Coll) (n me : Nat) : List (Nat × Nat) :=
  if c.reduces then
    let f := c.sf
    let le := f.lenE (srcCount m c)
    ((List.range m.size).flatMap fun r =>
      let p := pieceOf m c n r
      if p.2 ≤ p.1 then [] else
        [(p.1 * f.width / 8, f.lenE (p.2 - p.1)),
         (le + (if f.block = 0 then 0 else p.1 / f.block), f.lenS (p.2 - p.1))]).filter fun x => x.2 ≠ 0
  else if srcLen m c me = 0 then []
  else [((roundBytes c n).1, (roundBytes c n).2 - (roundBytes c n).1)].filter fun x => x.2 ≠ 0

/-! ## Local data of a round -/

/-- Staged bytes of a round. -/
def Coll.stage (c : Coll) (n : Nat) : List Byte × List (Nat × Nat) :=
  match c.staged.lookup n with
  | some x => (x.1, x.2.2)
  | none => ([], [])

/-- The source image of the piece of a rank. -/
def pieceImage (m : Comm) (c : Coll) (n r : Nat) : Image :=
  let cnt := pieceCount m c n r
  let off := ((List.range r).map fun i => if pieceCount m c n i = 0 then 0 else c.sf.lenImage (pieceCount m c n i)).sum
  let len := if cnt = 0 then 0 else c.sf.lenImage cnt
  let st := c.stage n
  let bad := (st.2.filter fun b => b.1 < off + len && off < b.1 + b.2).map fun b =>
    let lo := max b.1 off
    (lo - off, min (b.1 + b.2) (off + len) - lo)
  if cnt = 0 then ⟨c.sf, [], []⟩ else redImage c.sf cnt ((st.1.drop off).take len) bad

/-- Blocks of reduction of a piece. -/
def pieceBlocks (m : Comm) (c : Coll) (n r : Nat) : Nat := cdiv (pieceCount m c n r) c.sf.unit

/-- The E8 of every reduction block of a piece (R214). -/
def pieceScales (m : Comm) (c : Coll) (n r : Nat) : List Nat :=
  let img := pieceImage m c n r
  (List.range (pieceBlocks m c n r)).map img.redScale

/-! ## Streams expected (Table 8.5) -/

/-- Senders of a stage to this member, by rank. -/
def sendersTo (m : Comm) (c : Coll) (st me : Nat) : List Nat :=
  let a := me % max 1 m.cols
  let b := me / max 1 m.cols
  let row := (rowRanks m b).filter (· ≠ me)
  let col := (colRanks m a).filter (· ≠ me)
  let root := dRoot c.desc
  match st with
  | 0 => row
  | 1 => col
  | 2 => col
  | 3 => row
  | 4 => if c.reduces then row else []
  | 5 => if c.reduces then col else []
  | 6 => if c.reduces && c.op ≠ 0x12 then col else []
  | 7 => if c.reduces && c.op ≠ 0x12 then row else []
  | 8 => if c.op = 0x13 then row else if c.op = 0x14 && root ≠ me && root / max 1 m.cols = b then [root] else []
  | 9 => if c.op = 0x13 then col
    else if c.op = 0x14 && root / max 1 m.cols ≠ b then [a + m.cols * (root / max 1 m.cols)] else []
  | _ => []

/-- The others of a row or column, in the direction of a cast from position `i`. -/
def ahead (l : List Nat) (i : Nat) : List Nat := l.drop (i + 1) ++ l.take i

/-- Receivers of a stage from this member, with its cast: 0 unicast each, 1 row, 2 column. -/
def receiversOf (m : Comm) (c : Coll) (st me : Nat) : List Nat × Nat :=
  let a := me % max 1 m.cols
  let b := me / max 1 m.cols
  let row := ahead (rowRanks m b) a
  let col := ahead (colRanks m a) b
  let root := dRoot c.desc
  match st with
  | 0 => (row, 0)
  | 1 => (col, 0)
  | 2 => (col, 2)
  | 3 => (row, 1)
  | 4 => (if c.reduces then row else [], 0)
  | 5 => (if c.reduces then col else [], 0)
  | 6 => (if c.reduces && c.op ≠ 0x12 then col else [], 2)
  | 7 => (if c.reduces && c.op ≠ 0x12 then row else [], 1)
  | 8 => (if c.op = 0x13 || (c.op = 0x14 && root = me) then row else [], 1)
  | 9 => (if c.op = 0x13 || (c.op = 0x14 && root / max 1 m.cols = b) then col else [], 2)
  | _ => ([], 0)

/-- The ranks whose pieces a stream from `src` to `dst` carries. -/
def streamRanks (m : Comm) (st src dst : Nat) : List Nat :=
  let w := max 1 m.cols
  match st with
  | 0 => colRanks m (dst % w)
  | 1 => [dst]
  | 2 => [src]
  | 3 => colRanks m (src % w)
  | 4 => colRanks m (dst % w)
  | 5 => [dst]
  | 6 => [src]
  | 7 => colRanks m (src % w)
  | _ => []

/-- Elements in a cell of packed payload (R233). -/
def perCell (w : Nat) : Nat := 448 / w

/-- DST slots of a piece. -/
def pieceSlots (m : Comm) (c : Coll) (n r : Nat) : Nat := c.df.slots (pieceCount m c n r)

/-- Bytes of a gather stream from `src`. -/
def gatherLen (m : Comm) (c : Coll) (st n : Nat) : Nat :=
  let l := (roundBytes c n).2 - (roundBytes c n).1
  if st = 9 && c.op = 0x13 then m.cols * l else l

/-- Cells of a stream: at least one. -/
def streamCells (m : Comm) (c : Coll) (st n src dst : Nat) : Nat :=
  let rs := streamRanks m st src dst
  if st < 4 then (if c.reduces then max 1 (cdiv ((rs.map (pieceBlocks m c n)).sum) 60) else 1)
  else if st = 4 then max 1 (cdiv ((rs.map (pieceCount m c n)).sum) (perCell c.sf.width))
  else if st = 5 then max 1 (cdiv ((rs.map (pieceCount m c n)).sum) 10)
  else if st < 8 then max 1 (cdiv ((rs.map (pieceSlots m c n)).sum) (perCell c.df.width))
  else max 1 (cdiv (gatherLen m c st n) 64)

/-! ## What has arrived -/

def findRx (c : Coll) (st n src : Nat) : Option RxStream := c.rx.find? fun x => x.stage = st && x.round = n && x.from_ = src

/-- Every stream of a stage of a round that this member expects has arrived. -/
def arrived (m : Comm) (c : Coll) (st n me : Nat) : Bool :=
  (sendersTo m c st me).all fun r => ((findRx c st n r).map RxStream.whole).getD false

/-- Payloads of a stream in order, 0 where a cell has not come. -/
def rxCells (c : Coll) (st n src : Nat) : List Line :=
  match findRx c st n src with
  | some x => if x.got.length = x.cells then x.got.map (·.2) else (List.range x.cells).map fun i => (x.got.lookup i).getD 0
  | none => []

/-- Scale bytes a stream of stages 0 to 3 carried. -/
def rxScales (c : Coll) (st n src len : Nat) : List Nat :=
  (((rxCells c st n src).flatMap fun p => (bytesOf p).take 60).map (·.toNat)).take len

/-! ## Scales (R215, R238) -/

/-- Elementwise maximum. -/
def maxLists (ls : List (List Nat)) : List Nat :=
  match ls with
  | [] => []
  | x :: xs => xs.foldl (fun acc l => List.zipWith max acc l) x

/-- Row maxima of the piece of a rank of this member's column. -/
def rowMax (m : Comm) (c : Coll) (n me r : Nat) : List Nat :=
  let before := ((colRanks m (me % max 1 m.cols)).takeWhile (· ≠ r)).map (pieceBlocks m c n)
  let len := pieceBlocks m c n r
  let chunk := ((colRanks m (me % max 1 m.cols)).map (pieceBlocks m c n)).sum
  maxLists (pieceScales m c n r :: (sendersTo m c 0 me).map fun x =>
    ((rxScales c 0 n x chunk).drop before.sum).take len)

/-- Emax of this member's own piece. -/
def ownEmax (m : Comm) (c : Coll) (n me : Nat) : List Nat :=
  maxLists (rowMax m c n me me :: (sendersTo m c 1 me).map fun x => rxScales c 1 n x (pieceBlocks m c n me))

/-- Emax of a piece, from what this member holds. -/
def emaxOf (m : Comm) (c : Coll) (n me r : Nat) : List Nat :=
  let w := max 1 m.cols
  if r = me then ownEmax m c n me
  else if r % w = me % w then rxScales c 2 n r (pieceBlocks m c n r)
  else
    let from_ := r % w + m.cols * (me / w)
    let ranks := colRanks m (r % w)
    let before := ((ranks.takeWhile (· ≠ r)).map (pieceBlocks m c n)).sum
    ((rxScales c 3 n from_ ((ranks.map (pieceBlocks m c n)).sum)).drop before).take (pieceBlocks m c n r)

/-- g of R216. -/
def gOf (m : Comm) (c : Coll) : Nat := if c.isMax then 0 else clog2 m.size

/-! ## Contributions (R217, R233) -/

/-- k and Z of a block for its elements: Z is 0xFF for a poisoned block. -/
def anchorBlock (f : Fmt) (g emax e : Nat) (qs : List Int) : List Int × Nat :=
  if emax = 0xFF then (qs.map fun _ => 0, 0xFF)
  else if emax = 0 || e = 0 then (qs.map fun _ => 0, 0)
  else
    let a := anchor f emax g
    if (e : Int) ≥ a then (qs, ((e : Int) - a).toNat) else (qs.map fun q => contribution q e a, 0)

/-- Elements of a piece with k and Z by block. -/
def anchored (m : Comm) (c : Coll) (n me r : Nat) : List Int × List Nat :=
  let img := pieceImage m c n r
  let em := emaxOf m c n me r
  let u := c.sf.unit
  let bs := (List.range (pieceBlocks m c n r)).map fun i =>
    anchorBlock c.sf (gOf m c) (lget em i 0) (img.redScale i) (((img.elems.take (pieceCount m c n r)).drop (u * i)).take u)
  (bs.flatMap (·.1), bs.map (·.2))

/-- Contribution values of k at Z. -/
def contribOf (k : Int) (z : Nat) : Option Int := if z = 0xFF then none else some (k * 2 ^ z)

/-- Combine a contribution with an accumulator (R218). -/
def combine (isMax : Bool) (old new : Option Int) : Option Int :=
  match old, new with
  | none, x => x
  | x, none => x
  | some a, some b => some (if isMax then max a b else a + b)

/-- A round's accumulators, one for every element of the chunk. -/
def accOf (m : Comm) (c : Coll) (n me : Nat) : List (Option Int) :=
  match c.acc.lookup n with
  | some l => l
  | none => List.replicate ((((colRanks m (me % max 1 m.cols)).map (pieceCount m c n))).sum) none

/-- Add values to accumulators from position `at_` on. -/
def accAdd (isMax : Bool) (acc : List (Option Int)) (at_ : Nat) (vs : List (Option Int)) : List (Option Int) :=
  acc.take at_ ++ List.zipWith (combine isMax) (acc.drop at_) (vs ++ List.replicate (acc.length - at_ - vs.length) none)

/-- Position of a rank's piece in the chunk of its column. -/
def chunkAt (m : Comm) (c : Coll) (n r : Nat) : Nat :=
  (((colRanks m (r % max 1 m.cols)).takeWhile (· ≠ r)).map (pieceCount m c n)).sum

/-! ## Payloads (Table 8.4) -/

/-- Packed payload: 7 scale bytes, a flag byte, elements from byte 8 on. -/
def packed (w : Nat) (scales : List Nat) (flags : Nat) (qs : List Int) : Line :=
  ofBytes 512 (padTo 7 (scales.map (BitVec.ofNat 8 ·)) ++ [BitVec.ofNat 8 flags] ++ padTo 56 (packElems w qs))

/-- Cells of a packed stream: `unit` elements a scale; `flags` by block. -/
def packedCells (w unit : Nat) (qs : List Int) (scales flags : List Nat) : List Line :=
  let p := perCell w
  (List.range (max 1 (cdiv qs.length p))).map fun i =>
    let xs := (qs.drop (i * p)).take p
    let b0 := i * p / unit
    let nb := if xs = [] then 0 else (i * p + xs.length - 1) / unit + 1 - b0
    packed w ((scales.drop b0).take nb) (((flags.drop b0).take nb).foldl (· ||| ·) 0) xs

/-- Elements of a packed cell. -/
def unpacked (f : Fmt) (n : Nat) (p : Line) : List Int := unpackElems f ((bytesOf p).drop 8) n

/-- DIGEST (R234). -/
def digestOf (m : Comm) (c : Coll) : BitVec 32 :=
  crc32c (leBytes 1 c.op ++ leBytes 1 (dSrcFmt c.desc + 16 * dDstFmt c.desc) ++ leBytes 2 c.seq ++ leBytes 4 c.count ++
    leBytes 2 (dRoot c.desc) ++ leBytes 2 m.size ++ leBytes 2 (pieceLen m / 128) ++ leBytes 2 (b2n m.isList))

/-- Cells of a scale stream. -/
def scaleCells (m : Comm) (c : Coll) (es : List Nat) : List Line :=
  (List.range (if c.reduces then max 1 (cdiv es.length 60) else 1)).map fun i =>
    ofBytes 512 (padTo 60 ((((if c.reduces then es else []).drop (60 * i)).take 60).map (BitVec.ofNat 8 ·)) ++ bytesOf (digestOf m c))

/-- Cells of a stream of bytes. -/
def byteCells (bs : List Byte) : List Line :=
  (List.range (max 1 (cdiv bs.length 64))).map fun i => ofBytes 512 (padTo 64 ((bs.drop (64 * i)).take 64))

/-! ## Results (R219, R240) -/

/-- The result blocks of this member's own piece. -/
def ownResult (m : Comm) (c : Coll) (n me : Nat) : List OutBlock :=
  let cnt := pieceCount m c n me
  let em := ownEmax m c n me
  let acc := ((accOf m c n me).drop (chunkAt m c n me)).take cnt
  let vals : List Val := acc.zipIdx.map fun x =>
    let e := lget em (x.2 / c.sf.unit) 0
    if e = 0xFF then none else if e = 0 then some (0, 0) else some (x.1.getD 0, anchor c.sf e (gOf m c) - 127)
  convert c.df vals

/-- Elements, scales and flags by block of result blocks; I32 blocks are its elements. -/
def resultParts (bs : List OutBlock) : List Int × List Nat × List Nat :=
  (bs.flatMap (·.qs), bs.map (·.e8), bs.map fun b => b2n b.ovf + 2 * b2n b.poison)

/-- Elements of a scale of a result. -/
def resultUnit (f : Fmt) : Nat := if f.block = 0 then 1 else f.block

/-- Elements, scales and flags by block of a result stream that carries the pieces of `ranks`. A cell's flag byte is that of its
own blocks: a block has the flags that all cells with elements of it show (R233). -/
def rxResult (m : Comm) (c : Coll) (st n src : Nat) (ranks : List Nat) : List Int × List Nat × List Nat :=
  let f := c.df
  let p := perCell f.width
  let u := resultUnit f
  let total := (ranks.map (pieceSlots m c n)).sum
  let cells := rxCells c st n src
  let qs := (cells.zipIdx.flatMap fun x => unpacked f (min p (total - x.2 * p)) x.1).take total
  let scales := (List.range (if f.block = 0 then 0 else total / f.block)).map fun b =>
    let i := b * f.block / p
    ((bytesOf (lget cells i 0)).getD (b - i * p / f.block) 0).toNat
  let flag (i : Nat) : Nat := ((bytesOf (lget cells i 0)).getD 7 0).toNat
  let flags := (List.range (cdiv total u)).map fun b =>
    let i := b * u / p
    (List.range (((b + 1) * u - 1) / p + 1 - i)).foldl (fun x j => x &&& flag (i + j)) 255
  (qs, scales, flags)

/-- Result of the piece of a rank as this member holds it: its own, or the cast of its column's owner. -/
def pieceResult (m : Comm) (c : Coll) (n me r : Nat) : List Int × List Nat × List Nat :=
  if r = me then resultParts (ownResult m c n me) else rxResult m c 6 n r [r]

/-- The bytes of DST that received cell `o` of an R_ROWCAST stream completes: its elements' and its blocks' scales, by offset. A
byte that two cells share is complete with the later of them (R240). -/
def resultWrites (m : Comm) (c : Coll) (n src me o : Nat) (x : RxStream) : List (Nat × List Byte) :=
  let f := c.df
  let w := f.width
  let p := perCell w
  let known (g : Nat) : Bool := (x.got.lookup (g / p)).isSome
  let el (g : Nat) : Int := match x.got.lookup (g / p) with
    | some l => (unpacked f p l).getD (g % p) 0
    | none => 0
  let cell := (x.got.lookup o).getD 0
  ((streamRanks m 7 src me).foldl (fun (acc : Nat × List (Nat × List Byte)) r =>
    let at_ := acc.1
    let k := pieceSlots m c n r
    let a := max (o * p) at_ - at_
    let b := min ((o + 1) * p) (at_ + k) - at_
    let ws := if b ≤ a then [] else
      let lo := (pieceOf m c n r).1
      let ok (y : Nat) : Bool := (List.range (min ((y * 8 + 7) / w + 1) k - y * 8 / w)).all fun i => known (at_ + y * 8 / w + i)
      let y0 := if ok (a * w / 8) then a * w / 8 else a * w / 8 + 1
      let y1 := if ok (cdiv (b * w) 8 - 1) then cdiv (b * w) 8 else cdiv (b * w) 8 - 1
      let e0 := y0 * 8 / w / 8 * 8
      let bytes := (packElems w ((List.range (min k (cdiv (y1 * 8) w) - e0)).map fun i => el (at_ + e0 + i))).drop (y0 - e0 * w / 8)
      (lo * w / 8 + y0, bytes.take (y1 - y0)) ::
        (if f.block = 0 then [] else (List.range ((b - 1) / f.block + 1 - a / f.block)).map fun i =>
          (f.lenE c.count + lo / f.block + a / f.block + i,
            [(bytesOf cell).getD ((at_ + a) / f.block + i - o * p / f.block) 0]))
    (at_ + k, acc.2 ++ ws)) (0, [])).2

/-- The bytes of DST that received cell `o` of a gather stream holds, by offset (R241). -/
def gatherWrites (m : Comm) (c : Coll) (st n src o : Nat) (p : Line) : List (Nat × List Byte) :=
  let lo := (roundBytes c n).1
  let l := (roundBytes c n).2 - lo
  let at_ := 64 * o
  let bs := (bytesOf p).take (gatherLen m c st n - at_)
  if c.op = 0x14 then [(lo + at_, bs)]
  else if st = 8 then [(src * c.sf.lenImage c.count + lo + at_, bs)]
  else (rowRanks m (src / max 1 m.cols)).zipIdx.filterMap fun r =>
    let a := max at_ (l * r.2)
    let b := min (at_ + bs.length) (l * r.2 + l)
    if b ≤ a then none else some (r.1 * c.sf.lenImage c.count + lo + (a - l * r.2), (bs.drop (a - at_)).take (b - a))

/-! ## Streams sent -/

/-- Payloads of the stream of a stage of a round from this member to `dst`. -/
def streamPayload (m : Comm) (c : Coll) (st n me dst : Nat) : List Line :=
  let rs := streamRanks m st me dst
  match st with
  | 0 => scaleCells m c (if c.reduces then rs.flatMap (pieceScales m c n) else [])
  | 1 => scaleCells m c (if c.reduces then rs.flatMap (rowMax m c n me) else [])
  | 2 => scaleCells m c (if c.reduces then ownEmax m c n me else [])
  | 3 => scaleCells m c (if c.reduces then rs.flatMap (emaxOf m c n me) else [])
  | 4 =>
    let xs := rs.map (anchored m c n me)
    packedCells c.sf.width c.sf.unit (xs.flatMap (·.1)) (xs.flatMap (·.2)) []
  | 5 =>
    let acc := ((accOf m c n me).drop (chunkAt m c n dst)).take (pieceCount m c n dst)
    (List.range (max 1 (cdiv acc.length 10))).map fun i =>
      ofBytes 512 (padTo 64 ((((acc.drop (10 * i)).take 10).flatMap fun v => leBytes 6 ((v.getD 0) % 2 ^ 48).toNat)))
  | 6 =>
    let p := resultParts (ownResult m c n me)
    packedCells c.df.width (resultUnit c.df) p.1 (if c.df.scaled then p.2.1 else p.2.1.map fun _ => 0) p.2.2
  | 7 =>
    let xs := rs.map (pieceResult m c n me)
    packedCells c.df.width (resultUnit c.df) (xs.flatMap (·.1)) (if c.df.scaled then xs.flatMap (·.2.1) else []) (xs.flatMap (·.2.2))
  | 8 => byteCells (c.stage n).1
  | 9 =>
    if c.op = 0x14 then
      byteCells (if dRoot c.desc = me then (c.stage n).1
        else ((rxCells c 8 n (dRoot c.desc)).flatMap fun p => bytesOf p).take (gatherLen m c 9 n))
    else
      let l := (roundBytes c n).2 - (roundBytes c n).1
      byteCells ((rowRanks m (me / max 1 m.cols)).flatMap fun r =>
        if r = me then (c.stage n).1 else ((rxCells c 8 n r).flatMap fun p => bytesOf p).take l)
  | _ => []

/-! ## Cells (R232, R239) -/

/-- Queue EC cells of a collective's QP (R447). -/
def pushCells (s : State) (qp : Nat) (cs : List OutCell) : State := modQp s qp fun q => { q with outq := q.outq ++ cs }

/-- A cell of a stream to one member, by EC. -/
def unicastTo (s : State) (m : Comm) (comm : Nat) (c : Coll) (t : TxStream) (i r : Nat) : OutCell :=
  ⟨streamCell s m comm c t i 0 (rankCoord s m r) 0, dPrio c.desc, 2⟩

/-- Cells of a stream by EC: cast, or to each receiver that has not acknowledged it (R246). -/
def ecCells (s : State) (m : Comm) (comm : Nat) (c : Coll) (t : TxStream) (is : List Nat) : List OutCell :=
  if t.cast ≠ 0 then
    is.map fun i => ⟨streamCell s m comm c t i t.cast 0 0, dPrio c.desc, t.cast - 1⟩
  else (t.dests.filter fun r => !t.acked.contains r).flatMap fun r => is.map fun i => unicastTo s m comm c t i r

end Sys2Proof.Machine
end

