-- ==== Sys2Proof/Machine/Collectives.lean ====
section
/-! DEFINITION. Collectives.lean: communicators, admission and stages of a collective, its cells and their
acknowledgement, slots, abort and suspension (R226 to R252); the acknowledgement and timer rows that streams share with
the transport (R123 to R130, R245). -/

namespace Sys2Proof.Machine

open Host (Outcome)

def getColl (s : State) (c idx : Nat) : Option (Comm × Coll) :=
  (getComm s c).bind fun m => (m.run.find? fun r => r.idx = idx).map fun r => (m, r)

/-- The collective holds its slots and runs (R242, R243). -/
def Coll.started (c : Coll) : Bool := c.waits.isNone

/-- Domain of a communicator. -/
def commDom (s : State) (m : Comm) : Nat := (fnDom s m.fn).getD 65

/-- Slots of the shared pool that are free (R242, R243). -/
def sharedFree (s : State) : Nat :=
  3072 - (s.col.comms.map (·.2.slots)).sum - (s.col.comms.map fun e => (e.2.run.map (·.granted)).sum).sum

/-! ## COMM_CREATE, COMM_DESTROY, COUNTER_RESET (R226, R228, R230) -/

/-- Members a LIST names, none where the list cannot be read (R227, R514). -/
def listMembers (s : State) (dom off n : Nat) : Option (List Nat) :=
  if !domNamed s dom off (2 * n) || allocPoison s dom off (2 * n) then none
  else (rdAlloc s dom off (2 * n)).map fun bs => (List.range n).map fun i => natOf ((bs.drop (2 * i)).take 2) % 1024

/-- COMM_CREATE. -/
def commCreate (s : State) (d : Line) : State :=
  let comm := dfld d 16 0 16
  let fn := dfld d 18 0 16
  let qpn := dfld d 20 0 20
  let template := dfld d 24 0 2
  let sched := dbit d 24 2
  let slots := dfld d 25 0 8
  let shared := dfld d 26 0 8
  let n := dfld d 40 0 7
  let listAddr := dfld d 32 0 39
  let flowMap := dfld d 48 0 39
  match getQp s qpn, fnDom s fn with
  | some q, some dom =>
    if q.type ≠ 2 || q.state ≠ .init || q.fn ≠ fn then mgrFail s d 1
    else if (getComm s comm).isSome || (s.col.comms.any fun e => e.2.qp = qpn) then mgrFail s d 2
    else
      let members := if template = 1 then (if 1 ≤ n && n ≤ 64 then listMembers s dom listAddr n else none) else some []
      let m : Comm :=
        { fn := fn, qp := qpn, isList := template = 1, sched := sched, slots := slots, shared := if slots = 0 then shared else 0,
          x0 := dfld d 28 0 5, y0 := dfld d 28 5 5, xc := dfld d 28 10 5 + 1, yc := dfld d 28 15 5 + 1,
          coords := members.getD [], waitUs := max 1 (dfld d 44 0 32), flowMap := flowMap, listAddr := listAddr, nextSeq := 0,
          begun := false, run := [], stash := [], aborted := [], notice := none }
      let fieldsOk := template ≤ 1 && slots ≤ 64 && (slots ≠ 0 || (1 ≤ shared && shared ≤ 64)) && members.isSome &&
        (template = 1 || (m.xc ≤ dimX s && m.yc ≤ dimY s && m.x0 < dimX s && m.y0 < dimY s)) &&
        (!sched || (domNamed s dom flowMap 32768 && !allocPoison s dom flowMap 32768)) &&
        (template ≠ 1 || (m.coords.eraseDups.length = n && m.coords.all fun c => c % 32 < dimX s && c / 32 < dimY s)) &&
        (coordRank s m (myCoord s)).isSome
      if !fieldsOk then mgrFail s d 3
      else if (sched && leaving s dom flowMap 32768) || (template = 1 && leaving s dom listAddr (2 * n)) then mgrFail s d 2
      else
        let quota := ((getDom s dom).map fun x => (x.cfg.slotQuota, x.cfg.commQuota)).getD (0, 0)
        if slotsReserved s dom + slots > quota.1 || commCount s dom ≥ quota.2 || s.col.comms.length ≥ 4096 || slots > sharedFree s
        then mgrFail s d 4
        else mgrOk { s with col := { s.col with comms := tput s.col.comms comm m } } d
  | _, _ => mgrFail s d 1

/-- COMM_DESTROY. -/
def commDestroy (s : State) (d : Line) : State :=
  let comm := dfld d 16 0 16
  match getComm s comm with
  | none => mgrFail s d 1
  | some m =>
    let idle := match getQp s m.qp with
      | some q => q.state = .reset || q.state = .error
      | none => true
    if !idle then mgrFail s d 2
    else
      let s := closeEmptyFaults (modXl s fun x => { x with accesses := x.accesses.filter fun a =>
        match a.who with
        | .coll c _ => c ≠ comm
        | .collSrc c _ _ => c ≠ comm
        | .collCell c _ _ _ _ _ => c ≠ comm
        | _ => true })
      mgrOk { s with col := { s.col with
        comms := tdel s.col.comms comm, fifo := s.col.fifo.filter fun x => x.1 ≠ comm
        back := if m.slots = 0 then s.col.back else s.col.back ++ [(commDom s m, m.slots)] } } d

/-- COUNTER_RESET (R226). -/
def counterReset (s : State) (d : Line) : State :=
  let fn := dfld d 16 0 16
  let first := dfld d 18 0 16
  let n := dfld d 20 0 16
  match (if fn > 512 then none else fnDom s fn).bind (getDom s) with
  | none => mgrFail s d 1
  | some dom =>
    if n ≠ 0 && !(dom.cfg.trigBase ≤ first && first + n ≤ dom.cfg.trigBase + dom.cfg.trigCount) then mgrFail s d 1
    else mgrOk (releasePairs { s with trig := s.trig.filter fun e => !(first ≤ e.1 && e.1 < first + n) }) d

/-! ## Ending a collective (R247, R250) -/

/-- Accesses and job of a collective go. -/
def dropCollWork (s : State) (comm idx : Nat) : State :=
  let s := { s with zoo := { s.zoo with jobs := s.zoo.jobs.filter fun j => j.2.coll ≠ some (comm, idx) } }
  closeEmptyFaults (modXl s fun x => { x with accesses := x.accesses.filter fun a =>
    match a.who with
    | .coll c i => !(c = comm && i = idx)
    | .collSrc c i _ => !(c = comm && i = idx)
    | .collCell c i _ _ _ _ => !(c = comm && i = idx)
    | _ => true })

/-- The collective leaves the communicator, with its queued cells, stashed cells and shared slots. -/
def leaveColl (s : State) (comm idx : Nat) : State :=
  match getColl s comm idx with
  | none => s
  | some (m, c) =>
    let mine (x : Cell) : Bool := cQp x % 65536 = comm && cSeq x / 16 = c.seq % 256
    let s := dropCollWork s comm idx
    let s := modQp s m.qp fun q => { q with outq := q.outq.filter fun o => !mine o.cell }
    let s := modComm s comm fun m => { m with
      run := m.run.filter fun r => r.idx ≠ idx, stash := m.stash.filter fun x => !mine x.1 }
    { s with col := { s.col with fifo := s.col.fifo.filter (· ≠ (comm, idx)) } }

/-- The member aborts: ABORT cells go out at the next four ticks (R247). -/
def abortOwn (s : State) (comm idx status : Nat) : State :=
  match getColl s comm idx with
  | none => s
  | some (_, c) =>
    modComm (leaveColl s comm idx) comm fun m => { m with aborted := (m.aborted ++ [(c.seq, status, 4, true)]).reverse.take 64 |>.reverse }

/-- The descriptor of an ended collective completes; a status that is not harmless to the QP moves it to ERROR. -/
def endDesc (s : State) (qp idx status : Nat) : State :=
  if [0, 2, 5, 6, 9, 0xA, 0xB].contains status then doneOp s qp idx status else failOp s qp idx status

/-- A collective fails here with a status: abort, then its descriptor (R247). -/
def collFail (s : State) (comm idx status : Nat) : State :=
  match getColl s comm idx with
  | none => s
  | some (m, _) => endDesc (abortOwn s comm idx status) m.qp idx status

/-- Status of a collective that ran to its end (R250). -/
def collStatus (c : Coll) : Nat := if c.poison then 0xA else if c.overflow then 0xB else if c.missed then 5 else 0

/-- Everything R250 asks for holds; the cells of SC casts it passes on have left (log 117). -/
def collDone (m : Comm) (c : Coll) : Bool :=
  c.started && c.ended.length = rounds m c && c.writes = 0 && (c.rx.all fun x => x.writes = 0) &&
    c.tx.all fun t => t.relayOf.isSome && t.left = [] && t.have_ = t.cells.length

def finishColl (s : State) (comm idx : Nat) : State :=
  match getColl s comm idx with
  | none => s
  | some (m, c) =>
    if !collDone m c then s else
      let s := bumpDom (leaveColl s comm idx) (commDom s m) 14 1
      let s := modOp s m.qp idx fun o => { o with bytes := dstLen m c }
      endDesc s m.qp idx (collStatus c)

/-! ## Staging and result writes (R240, R248) -/

/-- Lowest round not ended. -/
def curRound (m : Comm) (c : Coll) : Nat := ((List.range (rounds m c)).find? fun n => !c.ended.contains n).getD (rounds m c)

/-- Context of a region key. -/
def keyCtx (s : State) (key : Nat) : Nat := ((s.regions.lookup (key / 256)).map (·.ctx)).getD 0

/-- Stage one round, once the transport area has room for it (R248, R428). -/
def stageRound (s : State) (comm idx n : Nat) : State :=
  match getColl s comm idx with
  | none => s
  | some (m, c) =>
    let rs := sourceRanges m c n (myRank s m)
    if (c.staged.lookup n).isSome || n ≥ rounds m c || transportRoom s (commDom s m) < (rs.map (·.2)).sum then s else
      let ctx := keyCtx s (dLocalKey c.desc)
      let r := rs.foldl (fun (acc : ReadRes) x =>
        let r := startRead acc.st (.collSrc comm idx n) (fnSource m.fn) ctx (dLocalAddr c.desc + x.1) x.2
        { st := r.st, buf := acc.buf ++ r.buf, left := acc.left + r.left,
          bad := acc.bad ++ r.bad.map fun b => (acc.buf.length + b.1, b.2) }) ⟨s, [], 0, []⟩
      modColl (bytesStored r.st (commDom s m) (collCopy comm idx n) 0 r.buf.length) comm idx fun c => { c with
        staged := tput c.staged n (r.buf, r.left, r.bad) }

/-- At most two rounds are staged: the current one and the next. -/
def stageRounds (s : State) (comm idx : Nat) : State :=
  match getColl s comm idx with
  | none => s
  | some (m, c) =>
    let n := curRound m c
    let s := modColl s comm idx fun c => { c with staged := c.staged.filter fun e => n ≤ e.1 }
    stageRound (stageRound s comm idx n) comm idx (n + 1)

def isStaged (c : Coll) (n : Nat) : Bool := match c.staged.lookup n with | some (_, left, _) => left = 0 | none => false

/-- Write bytes of the DST image. -/
def writeDst (s : State) (comm idx off : Nat) (bs : List Byte) (poison : Bool := false) : State :=
  match getColl s comm idx with
  | none => s
  | some (m, c) =>
    if bs = [] then s else
      let w := startWrite s (.coll comm idx) (fnSource m.fn) (keyCtx s (dRemoteKey c.desc)) (dRemoteAddr c.desc + off) bs poison
      modColl w.1 comm idx fun c => { c with writes := c.writes + w.2 }

/-- FLAGS of result blocks set the statuses of R250. -/
def Coll.flagged (c : Coll) (flags : List Nat) : Coll :=
  { c with overflow := c.overflow || flags.any fun x => x % 2 = 1, poison := c.poison || flags.any fun x => x / 2 % 2 = 1 }

/-- Write the result of a rank's piece: elements and scale bytes at their places (R204, R240). -/
def writePiece (s : State) (comm idx n r : Nat) (x : List Int × List Nat × List Nat) : State :=
  match getColl s comm idx with
  | none => s
  | some (m, c) =>
    let lo := if c.op = 0x12 then (pieceOf m c n r).1 - r * c.count else (pieceOf m c n r).1
    let f := c.df
    let s := modColl s comm idx fun c => c.flagged x.2.2
    let s := writeDst s comm idx (lo * f.width / 8) (packElems f.width x.1)
    if f.block = 0 then s else writeDst s comm idx (f.lenE c.count + lo / f.block) (x.2.1.map (BitVec.ofNat 8 ·))

/-- Change a stream that is being received. -/
def modRx (c : Coll) (st n src : Nat) (f : RxStream → RxStream) : Coll :=
  { c with rx := c.rx.map fun x => if x.stage = st && x.round = n && x.from_ = src then f x else x }

/-- A received result cell is written to DST at its position, as it arrives (R240, R241). -/
def writeCell (s : State) (comm idx st n src o : Nat) (p : Line) : State :=
  match getColl s comm idx with
  | none => s
  | some (m, c) =>
    let ws := if st = 7 then ((findRx c 7 n src).map (resultWrites m c n src (myRank s m) o)).getD []
      else if st = 8 || st = 9 then gatherWrites m c st n src o p else []
    let s := if st = 7 then modColl s comm idx fun c => c.flagged [((bytesOf p).getD 7 0).toNat] else s
    (ws.filter fun x => x.2 ≠ []).foldl (fun s x =>
      let w := startWrite s (.collCell comm idx st n src o) (fnSource m.fn) (keyCtx s (dRemoteKey c.desc)) (dRemoteAddr c.desc + x.1) x.2
      modColl w.1 comm idx fun c => modRx c st n src fun y => { y with writes := y.writes + w.2 }) s

/-! ## Stages (R238, R241, R248, R249) -/

/-- A stage of a round has started here. -/
def begun (c : Coll) (st n : Nat) : Bool := c.began.contains (st, n)

/-- A stage is over as far as this member sends and hears it. -/
def stageOver (m : Comm) (c : Coll) (st n me : Nat) : Bool := c.ended.contains n || (begun c st n && arrived m c st n me)

/-- The scale pre-pass of a round is complete here: this member holds its Emax (R19, R238). -/
def scalesKnown (m : Comm) (c : Coll) (n me : Nat) : Bool := stageOver m c 3 n me

/-- The start condition of a stage (Tables 8.5, 8.6). -/
def canStart (m : Comm) (c : Coll) (st n me : Nat) : Bool :=
  c.started && n < rounds m c && !begun c st n && !c.ended.contains n &&
  match st with
  | 0 => (c.reduces && isStaged c n && (n = 0 || stageOver m c 3 (n - 1) me)) || (!c.reduces && n = 0)
  | 1 => stageOver m c 0 n me
  | 2 => stageOver m c 1 n me
  | 3 => stageOver m c 2 n me
  | 4 => c.reduces && scalesKnown m c n me && isStaged c n && (n = 0 || c.ended.contains (n - 1))
  | 5 => c.reduces && stageOver m c 4 n me
  | 6 => c.reduces && stageOver m c 5 n me
  | 7 => c.reduces && c.op ≠ 0x12 && stageOver m c 6 n me && c.rounded.contains n
  | 8 => c.gathers && stageOver m c 3 0 me && isStaged c n && (n = 0 || c.ended.contains (n - 1))
  | 9 => c.gathers && stageOver m c 8 n me
  | _ => false

/-- A round's result is whole here. -/
def roundOver (m : Comm) (c : Coll) (n me : Nat) : Bool :=
  if c.op = 0x12 then c.rounded.contains n
  else if c.reduces then stageOver m c 7 n me
  else if c.gathers then stageOver m c 9 n me
  else stageOver m c 3 0 me

/-- What a collective keeps of a round that is over: nothing (its duplicates are acknowledged as such). -/
def Coll.dropRound (c : Coll) (n : Nat) : Coll :=
  { c with ended := c.ended ++ [n], acc := tdel c.acc n, rx := c.rx.filter fun x => x.round ≠ n }

/-- Rounds that are over are ended, the next ones staged, and the collective completes when all is done. -/
def collProgress (s : State) (comm idx : Nat) : State :=
  match getColl s comm idx with
  | none => s
  | some (m, c) =>
    let me := myRank s m
    let finished := (List.range (rounds m c)).filter fun n => !c.ended.contains n && c.started && roundOver m c n me
    let s := modColl s comm idx fun c => finished.foldl Coll.dropRound c
    let s := if c.started then stageRounds s comm idx else s
    finishColl s comm idx

/-- Flow of a stage toward a rank (R246). -/
def flowEntry (s : State) (m : Comm) (st r : Nat) : Nat :=
  if !m.sched then 0 else
    match rdAlloc s (commDom s m) (m.flowMap + 2 * (1024 * st + r)) 2 with
    | some bs => natOf bs
    | none => 0

/-- The cells [a, b) of a stream are there: they join those to go on its flow, or leave as EC. -/
def releaseCells (s : State) (comm idx : Nat) (t : TxStream) (a b : Nat) : State :=
  match getColl s comm idx with
  | none => s
  | some (m, c) =>
    let is := (List.range (b - a)).map (a + ·)
    let put (y : TxStream) : TxStream := if y.named t.stage t.round t.relayOf t.next then
        { y with have_ := max y.have_ b, left := if y.ec then y.left else y.left ++ is } else y
    let s := modColl s comm idx fun c => { c with tx := c.tx.map put }
    let s := copyStored s (commDom s m) (streamCopy comm idx t) a b
    if t.ec then pushCells s m.qp (ecCells s m comm c t is) else s

/-- Put a stream on its way, `have_` cells of it being there: on its flow, or as EC (R246). -/
def sendStream (s : State) (comm idx : Nat) (t : TxStream) (have_ : Nat) : State :=
  match getColl s comm idx with
  | none => s
  | some (m, c) =>
    if t.dests = [] then s else
      let f := if dSc c.desc then flowEntry s m t.stage t.next else 0
      let t := if f ≠ 0 && flowCarried s f then { t with flow := some f } else t
      releaseCells (modColl s comm idx fun c => { c with tx := c.tx ++ [t], missed := c.missed || (f ≠ 0 && t.flow.isNone) })
        comm idx t 0 have_

/-- This member's own contribution to a stage that it also receives: into its own slots or result (R238, R240, R241). Its anchored
values go in at once; a poisoned line of a gathered image stays poisoned in its own copy, and says nothing to others (log 118). -/
def ownPart (s : State) (comm idx st n : Nat) : State :=
  match getColl s comm idx with
  | none => s
  | some (m, c) =>
    let me := myRank s m
    match st with
    | 4 =>
      let vs := (colRanks m (me % max 1 m.cols)).flatMap fun p =>
        let x := anchored m c n me p
        x.1.zipIdx.map fun q => contribOf q.1 (lget x.2 (q.2 / c.sf.unit) 0)
      modColl s comm idx fun c => { c with acc := tput c.acc n (accAdd c.isMax (accOf m c n me) 0 vs) }
    | 8 =>
      if c.op = 0x13 || dRoot c.desc = me then
        let off := (if c.op = 0x13 then me * c.sf.lenImage c.count else 0) + (roundBytes c n).1
        let s := writeDst s comm idx off (c.stage n).1
        (c.stage n).2.foldl (fun s b => writeDst s comm idx (off + b.1) (((c.stage n).1.drop b.1).take b.2) true) s
      else s
    | _ => s

/-- The members this one sends a stage's streams to, stream by stream: all receivers of a cast as one, but each by itself in a
LIST, which has no casts (R227). -/
def streamsOf (m : Comm) (c : Coll) (st me : Nat) : List (List Nat × Nat) :=
  let r := receiversOf m c st me
  if r.2 = 0 || m.isList then r.1.map fun p => ([p], 0) else [r]

/-- Round the own piece: it is written, and its stream can leave (R219, R240). -/
def ownRounded (s : State) (comm idx n : Nat) : State :=
  match getColl s comm idx with
  | none => s
  | some (m, c) =>
    let me := myRank s m
    let s := writePiece s comm idx n me (pieceResult m c n me me)
    let s := modColl s comm idx fun c => { c with rounded := n :: c.rounded }
    let s := (c.tx.filter fun t => t.stage = 6 && t.round = n && t.relayOf.isNone).foldl (fun s t =>
      releaseCells s comm idx t t.have_ t.cells.length) s
    collProgress s comm idx

/-- The staged bytes of a round are read: with the ranges of them that read as poisoned (R248, R514). -/
def stageRead (s : State) (comm idx n : Nat) : State :=
  match getColl s comm idx with
  | none => s
  | some (m, c) =>
    let bad := badStaged s (commDom s m) (collCopy comm idx n) 0 (c.stage n).1.length
    if bad.isEmpty then s
    else modColl s comm idx fun c => { c with staged := tupd c.staged n fun x => (x.1, x.2.1, x.2.2 ++ bad) }

/-- Start a stage of a round: its streams, and this member's own part of it. The cells of D_ROW leave as they are anchored, those
of R_COLCAST when the piece has been rounded (R253, R269). -/
def startStage (s : State) (comm idx st n : Nat) : State :=
  let s := stageRead s comm idx n
  match getColl s comm idx with
  | none => s
  | some (m, c) =>
    let me := myRank s m
    let s := modColl (ownPart s comm idx st n) comm idx fun c => { c with
      began := c.began ++ [(st, n)], poison := c.poison || (st = 4 && (List.range m.size).any fun r => (emaxOf m c n me r).contains 0xFF) }
    let c' := ((getColl s comm idx).map (·.2)).getD c
    let mk (dests : List Nat) (cast : Nat) : TxStream :=
      { stage := st, round := n, cast := cast, dests := dests, acked := [], cells := streamPayload m c' st n me (dests.headD me)
        have_ := 0, relayOf := none, flow := none, admitted := false, check := none, asEc := false, left := [], again := []
        sentIn := [], resent := [] }
    let s := (streamsOf m c st me).foldl (fun s p =>
      let t := mk p.1 p.2
      sendStream s comm idx t (if st = 4 || st = 6 then 0 else t.cells.length)) s
    if st = 6 && pieceBlocks m c n me = 0 then ownRounded s comm idx n else collProgress s comm idx

/-- The first collective and round for which a stage can start; none in a suspended carrel (R249). -/
def stageNext (s : State) (comm st : Nat) : Option (Nat × Nat) :=
  (getComm s comm).bind fun m =>
    if ((getDom s (commDom s m)).map (·.suspended)).getD true then none
    else m.run.findSome? fun c => ((List.range (rounds m c)).find? fun n => canStart m c st n (myRank s m)).map fun n => (c.idx, n)

def stageDue (s : State) (comm st : Nat) : Bool := (stageNext s comm st).isSome

/-- COLLECTIVE_STAGE_START (R238). -/
def stageStart (s : State) (comm st : Nat) : State :=
  match stageNext s comm st with
  | some (idx, n) => startStage s comm idx st n
  | none => s

/-! ## Cells that arrive (R234, R235, R245) -/

/-- A control-tier cell about a stream, to its sender or receiver (R232). -/
def streamCtl (s : State) (qp type dests : Nat) (c : Cell) (p : Line) : State :=
  pushCtl s none qp (latCell (latHdr type 0 s.lat.epoch dests false false (myCoord s) (cQp c) (cSeq c) 0 false) p)

def ackStream (s : State) (qp : Nat) (c : Cell) : State := streamCtl s qp 3 (cSrc c) c (layout 512 [(0, 12, cSeq c)])

/-- The ACK slots of a flow answer for a stream (R191, R246). -/
def streamSlots (s : State) (k : Nat × Nat × Nat) : Bool :=
  s.sched.active.isSome && s.sched.expect.any fun e => e.2.streams.contains k && flowDirect s e.1 k && !s.sched.voids.contains e.1
def nakStream (s : State) (qp : Nat) (c : Cell) : State :=
  bumpDom (streamCtl s qp 4 (cSrc c) c (nakPayload 1 (cSeq c) 0)) (((getQp s qp).map (qpDom s)).getD 65) 7 1

/-- SNAKs of an incomplete stream (R125); cells that wait for their accumulation have come. -/
def snakStream (s : State) (qp : Nat) (c : Cell) (cells : Nat) (x : Option RxStream) : State :=
  let miss := (List.range cells).filter fun o => match x with
    | some x => (x.got.lookup o).isNone && (x.todo.lookup o).isNone
    | none => true
  let wins := ((miss.map fun o => o / 448).eraseDups).take 8
  wins.foldl (fun s w => streamCtl s qp 5 (cSrc c) c (snakFor (cSeq c) cells miss (448 * w))) s

/-- ABORT cell (R247, Table 8.4). -/
def abortCell (s : State) (comm seq status dst : Nat) : Cell :=
  latCell (collHdr s comm 11 seq 0 0 dst 0 false false true) (layout 512 [(0, 8, status), (16, 16, seq), (32, 10, myCoord s)])

/-- SUSPENDED cell (R249). -/
def suspendedCell (s : State) (comm seq dst at_ : Nat) : Cell :=
  latCell (collHdr s comm 12 seq 0 0 dst 0 false false true) (layout 512 [(0, 16, seq), (16, 10, myCoord s), (64, 64, at_)])

/-- EC cells of priority 7 of a communicator; a QP that sends no transport cells any more still sends these (R247). -/
def pushNotices (s : State) (m : Comm) (cs : List Cell) : State :=
  if ((getQp s m.qp).map fun q => decide (q.state = .rts || q.state = .sqd)).getD false then pushCells s m.qp (cs.map fun c => ⟨c, 7, 2⟩)
  else cs.foldl (fun s c => pushCtl s none m.qp c) s

def abortAnswer (s : State) (m : Comm) (comm seq status : Nat) (dests : Nat) : State :=
  pushNotices s m [abortCell s comm seq status dests]

/-- The round a 4-bit field names, nearest to the current one. -/
def roundNear (cur f : Nat) : Nat :=
  let lo := cur - 8
  lo + (f + 16 - lo % 16) % 16

/-- Effects of a RED cell on the accumulators: contributions of D_ROW, partials of D_COL (R218, R237). -/
def accumulate (m : Comm) (c : Coll) (st n me o : Nat) (p : Line) : Coll :=
  let acc := accOf m c n me
  if st = 4 then
    let per := perCell c.sf.width
    let total := acc.length
    let qs := unpacked c.sf (min per (total - o * per)) p
    let b0 := o * per / c.sf.unit
    let vs := qs.zipIdx.map fun x => contribOf x.1 ((bytesOf p).getD ((o * per + x.2) / c.sf.unit - b0) 0).toNat
    { c with acc := tput c.acc n (accAdd c.isMax acc (o * per) vs) }
  else if st = 5 then
    let cnt := pieceCount m c n me
    let vs := (List.range (min 10 (cnt - 10 * o))).map fun i => some ((fld p (48 * i) 48 : Nat) : Int)
    let vs := vs.map fun v => v.map fun x => if x ≥ 2 ^ 47 then x - 2 ^ 48 else x
    { c with acc := tput c.acc n (accAdd c.isMax acc (chunkAt m c n me + 10 * o) vs) }
  else c

/-- The member an SC cast's cell goes on to: the next one in the direction of the cast, none at its end, none in a LIST
(R227, R246). -/
def relayTo (m : Comm) (st src me : Nat) : Option Nat :=
  let w := max 1 m.cols
  let nxt := if [2, 6, 9].contains st then some (me % w + m.cols * ((me / w + 1) % max 1 m.rows))
    else if [3, 7, 8].contains st then some ((me % w + 1) % w + m.cols * (me / w)) else none
  if m.isList then none else nxt.filter (· ≠ src)

/-- Pass an SC cast's cell on: on this member's own entry, where its cells make one message more of the flow, or as EC where
that is 0; it keeps its source (R246). -/
def relayCell (s : State) (comm idx st n src o : Nat) (x : Cell) : State :=
  match getColl s comm idx with
  | none => s
  | some (m, c) =>
    match relayTo m st src (myRank s m) with
    | none => s
    | some nxt =>
      let f := flowEntry s m st nxt
      let t : TxStream := match c.tx.find? fun t => t.named st n (some src) nxt with
        | some t => t
        | none =>
          { stage := st, round := n, cast := 0, dests := [nxt], acked := []
            cells := List.replicate (((findRx c st n src).map (·.cells)).getD 1) 0
            have_ := 0, relayOf := some src, flow := some f, admitted := false, check := none, asEc := false, left := [], again := []
            sentIn := [], resent := [] }
      let fast := !t.asEc && flowCarried s f
      let t := { t with
        cells := t.cells.set o x.payload, have_ := t.have_ + 1, asEc := !fast, left := if fast then t.left ++ [o] else t.left }
      let s := if f = 0 then s else modColl s comm idx fun c => { c with tx := (c.tx.filter fun y => !y.named st n (some src) nxt) ++ [t] }
      if f ≠ 0 && fast then s
      else pushCells s m.qp [⟨streamCell s m comm c t o 0 (rankCoord s m nxt) 0, dPrio c.desc, 2⟩]

/-- A stream has become whole: it is acknowledged, in its flow's ACK slots where they answer for it; a whole R_COLCAST of the
column is written (R240, R245). -/
def streamWhole (s : State) (comm idx st n src : Nat) : State :=
  match getColl s comm idx with
  | none => s
  | some (m, c) =>
    let me := myRank s m
    let k := (comm + 65536 * st, c.seq % 256 * 16 + n % 16, rankCoord s m src)
    let x : Cell := latCell (latHdr 0 0 0 0 false false k.2.2 k.1 k.2.1 0 false) 0
    let s := if streamSlots s k && ((findRx c st n src).map (·.sc)).getD false then s else ackStream s m.qp x
    let s := if st = 6 && arrived m c 6 n me then
        ((colRanks m (me % max 1 m.cols)).filter (· ≠ me)).foldl (fun s p => writePiece s comm idx n p (pieceResult m c n me p)) s
      else s
    collProgress s comm idx

/-- Whether a RED cell of this stage waits for an accumulation step. -/
def accumulates (c : Coll) (st : Nat) : Bool := c.reduces && (st = 4 || st = 5)

/-- A new cell of a stream: its arrival bit is set and it is written, or it waits for the scale pre-pass of its round and its
accumulation step, which sets the bit (R19, R240, R245, R269). -/
def newCell (s : State) (comm idx st n src cells : Nat) (x : Cell) : State :=
  let o := cOff x
  let blank : RxStream := { stage := st, round := n, from_ := src, cells := cells, got := [], todo := [], writes := 0, sc := false }
  let s := modColl s comm idx fun c =>
    let c := if (findRx c st n src).isSome then c else { c with rx := c.rx ++ [blank] }
    modRx c st n src fun y =>
      let y := { y with sc := y.sc || cClass x = 1 }
      if accumulates c st then { y with todo := tput y.todo o x.payload } else { y with got := tput y.got o x.payload }
  let s := writeCell s comm idx st n src o x.payload
  let s := if cClass x = 1 then relayCell s comm idx st n src o x else s
  match (getColl s comm idx).bind fun p => findRx p.2 st n src with
  | some y => if y.whole then streamWhole s comm idx st n src else s
  | none => s

/-- A cell of a collective that has started here. -/
def collCell (s : State) (comm idx st src : Nat) (x : Cell) : State :=
  match getColl s comm idx with
  | none => s
  | some (m, c) =>
    let me := myRank s m
    if !(sendersTo m c st me).contains src then dropCell s 0x3FF (some (commDom s m)) x
    else if st < 4 && cOff x ≠ 0xFFFF && fld x.payload 480 32 ≠ (digestOf m c).toNat then
      modCyc s fun y => { y with digests := y.digests ++ [(comm, idx)] }
    else
      let n := roundNear (curRound m c) (cSeq x % 16)
      let known := if c.reduces || st ≥ 8 then n < rounds m c else n = 0
      if !known then dropCell s 0x3FF (some (commDom s m)) x
      else if c.ended.contains n then ackStream s m.qp x
      else
        let cells := streamCells m c st n src me
        let old := findRx c st n src
        let whole := (old.map RxStream.whole).getD false
        if cOff x = 0xFFFF then
          if whole then ackStream s m.qp x else snakStream s m.qp x cells old
        else if cOff x ≥ cells then dropCell s 0x3FF (some (commDom s m)) x
        else if (old.map fun y => (y.got.lookup (cOff x)).isSome || (y.todo.lookup (cOff x)).isSome).getD false then
          if whole then ackStream s m.qp x else s
        else newCell s comm idx st n src cells x

/-- The collectives whose digest a cell has contradicted, and no ABORT has ended in the same cycle, complete REMOTE_ACCESS
(R234, Table 8.8). -/
def digestCycle (s : State) : State :=
  s.cyc.digests.foldl (fun s x => collFail s x.1 x.2 2) (modCyc s fun y => { y with digests := [] })

/-! ## RDX work (R12, R19, R253, R269) -/

/-- Cycles of a step over `n` elements of width `w` (Tables 9.6, 9.7). -/
def laneCycles (w n : Nat) : Nat := max 1 (cdiv (n * lanes w) 128)

/-- The steps a collective's RDX work has now, in the order of Table 1.8 by round: cells of D_ROW to be anchored, cells to be
accumulated once the scale pre-pass of their round is complete, and blocks of the own piece to be rounded (the order among
them is a DESIGN CHOICE, log 119). -/
def collWork (m : Comm) (c : Coll) (me : Nat) : List RedStep :=
  if !c.reduces || !c.started then [] else
  let w := c.sf.width
  let cell := laneCycles w (perCell w)
  ((List.range (rounds m c)).filter fun n => !c.ended.contains n && scalesKnown m c n me).flatMap fun n =>
    ((c.tx.filter fun t => t.stage = 4 && t.round = n && t.relayOf.isNone).flatMap fun t =>
      (List.range (t.cells.length - t.have_)).map fun i => (⟨0, 4, n, t.next, t.have_ + i, cell⟩ : RedStep)) ++
    ((c.rx.filter fun x => x.round = n).flatMap fun x =>
      x.todo.map fun o => (⟨1, x.stage, n, x.from_, o.1, if x.stage = 5 then 1 else cell⟩ : RedStep)) ++
    (if begun c 6 n && !c.rounded.contains n then
      (List.range (pieceBlocks m c n me)).map fun b => (⟨2, 6, n, me, b, laneCycles w c.sf.unit + 2⟩ : RedStep) else [])

/-- Commit one step. The last block rounded ends the rounding of its piece. -/
def redStep (s : State) (comm idx : Nat) (x : RedStep) : State :=
  match getColl s comm idx with
  | none => s
  | some (m, c) =>
    let me := myRank s m
    match x.kind with
    | 0 => match c.tx.find? fun t => t.named 4 x.round none x.rank with
      | some t => if t.have_ = x.at_ then releaseCells s comm idx t x.at_ (x.at_ + 1) else s
      | none => s
    | 1 => match (findRx c x.stage x.round x.rank).bind fun y => (y.todo.lookup x.at_).map fun p => (y, p) with
      | some (_, p) =>
        let s := modColl s comm idx fun c => accumulate m (modRx c x.stage x.round x.rank fun y => { y with
          todo := tdel y.todo x.at_, got := tput y.got x.at_ p }) x.stage x.round me x.at_ p
        match (getColl s comm idx).bind fun q => findRx q.2 x.stage x.round x.rank with
        | some y => if y.whole then streamWhole s comm idx x.stage x.round x.rank else s
        | none => s
      | none => s
    | _ => if x.at_ + 1 = pieceBlocks m c x.round me && !c.rounded.contains x.round then ownRounded s comm idx x.round else s

/-- The job of a collective, with the steps it has at the tick (R253). -/
def collJob (s : State) (comm idx : Nat) (m : Comm) (c : Coll) : State :=
  let work := collWork m c (myRank s m)
  match s.zoo.jobs.find? fun j => j.2.coll = some (comm, idx) with
  | some j => modJob s j.1 fun j => { j with work := work, done := 0 }
  | none =>
    if !c.reduces || !c.started then s
    else addJob s { Job.blank with coll := some (comm, idx), work := work, fn := m.fn, dom := commDom s m, sc := dSc c.desc }

/-- Every collective's job, before the quanta of a folio are dealt out. -/
def collJobs (s : State) : State :=
  let s := { s with zoo := { s.zoo with jobs := s.zoo.jobs.filter fun j => match j.2.coll with
    | some (comm, idx) => (getColl s comm idx).isSome
    | none => true } }
  s.col.comms.foldl (fun s e => e.2.run.foldl (fun s c => collJob s e.1 c.idx e.2 c) s) s

/-- A collective's job has reached the end of its quantum: the steps its pieces had room for are committed. -/
def collPieces (s : State) (id : Nat) : State :=
  match getJob s id with
  | none => s
  | some j =>
    match j.coll, j.pieces with
    | some (comm, idx), _ :: _ =>
      let b := reached s j
      let s := countSteps s j (((j.pieces.getLast?).map (·.1)).getD 0) 0 b
      let s := modJob s id fun j => { j with pieces := [], work := j.work.drop b }
      (j.work.take b).foldl (fun s x => redStep s comm idx x) s
    | _, _ => s

/-- The collectives' quanta end with the folio, as those of other jobs do (R12, R58). -/
def collEnd (s : State) : State := s.zoo.jobs.foldl (fun s e => collPieces s e.1) s

/-- A collective whose job has ended with a status is aborted (R272). -/
def collKilled (s : State) : State :=
  s.zoo.jobs.foldl (fun s e => match e.2.coll, e.2.ended with
    | some (comm, idx), some st => collFail s comm idx st
    | _, _ => s) s

/-! ## Accesses that have ended (R86, R414) -/

/-- A write of a received cell is visible. -/
def cellWritten (s : State) (comm idx st n src : Nat) : State :=
  let s := modColl s comm idx fun c => modRx c st n src fun y => { y with writes := y.writes - 1 }
  match (getColl s comm idx).bind fun p => findRx p.2 st n src with
  | some y => if y.whole then streamWhole s comm idx st n src else s
  | none => s

/-- Part of a round's source has been read. -/
def sourceRead (s : State) (comm idx n : Nat) (a : Access) (data : List Byte) (bad : Bool) : State :=
  match getColl s comm idx with
  | none => s
  | some (m, c) =>
    let off := ((sourceRanges m c n (myRank s m)).foldl (fun (acc : Nat × Option Nat) x =>
      let base := dLocalAddr c.desc + x.1
      (acc.1 + x.2, acc.2 <|> (if base ≤ a.va && a.va < base + x.2 then some (acc.1 + (a.va - base)) else none)))
      (0, none)).2.getD 0
    modColl (bytesStored s (commDom s m) (collCopy comm idx n) off a.len) comm idx fun c => { c with
      staged := tupd c.staged n fun x => (splice x.1 off data, x.2.1 - 1, if bad then x.2.2 ++ [(off, a.len)] else x.2.2) }

/-- The outcome of one access of a collective; a failed one aborts it (Table 15.6). -/
def collResult (s : State) (a : Access) (st : Nat) (data : List Byte) (bad : Bool) : State :=
  match a.who with
  | .coll comm idx =>
    if st ≠ 0 then collFail s comm idx st
    else finishColl (modColl s comm idx fun c => { c with writes := c.writes - 1 }) comm idx
  | .collCell comm idx stage n src _ =>
    if st ≠ 0 then collFail s comm idx st else if a.dropped then s else cellWritten s comm idx stage n src
  | .collSrc comm idx n => if st ≠ 0 then collFail s comm idx st else sourceRead s comm idx n a data bad
  | _ => s

def Who.isColl : Who → Bool
  | .coll _ _ => true
  | .collSrc _ _ _ => true
  | .collCell _ _ _ _ _ _ => true
  | _ => false

/-- Take the outcomes of the collectives' accesses. -/
def collSettle : Nat → State → State
  | 0, s => s
  | fuel + 1, s =>
    match s.xl.accesses.findSome? fun a => if a.who.isColl then a.result.map fun r => (a, r) else none with
    | none => s
    | some (a, r) => collSettle fuel (collResult (dropAccess s a.id) a r.1 r.2.1 r.2.2)

def collCollect (s : State) : State := collSettle (4 * s.xl.accesses.length + 4) s

/-! ## Cells of collectives not running here (R235, R245, R247) -/

/-- A cell for a collective not started here: stashed, or NAK RNR for a probe (R245). -/
def notStarted (s : State) (m : Comm) (comm : Nat) (x : Cell) : State :=
  let dom := commDom s m
  if cOff x = 0xFFFF then nakStream s m.qp x
  else
    let cap := ((getDom s dom).map fun d => d.cfg.stashMib * 8192).getD 0
    if stashUse s dom < cap then
      prog (modComm s comm fun m => { m with stash := m.stash ++ [(x, s.folio)] })
        { code := 0x10, source := fnSource m.fn, dom := some dom, cls := some (if cClass x = 1 then 2 else 1), seg := none, units := 1
          qp := m.qp }
    else bumpDom s dom 10 1

/-- A SCALE or RED cell of stages 0 to 9 that has passed R18 (R235, R245, R247). -/
def streamArrival (s : State) (comm : Nat) (m : Comm) (src : Nat) (x : Cell) : State :=
  let st := cQp x / 65536
  let q8 := cSeq x / 16
  match m.run.find? fun c => c.seq % 256 = q8 with
  | some c => if c.started then collCell s comm c.idx st src x else notStarted s m comm x
  | none =>
    match m.aborted.find? fun a => a.1 % 256 = q8 && a.2.2.2 with
    | some a => abortAnswer s m comm a.1 a.2.1 (cSrc x)
    | none => if m.passed q8 then ackStream s m.qp x else notStarted s m comm x

/-- The checks of R235 on a cell of a collective, then `f` with its communicator and sender. A QP in ERROR only answers for the
collectives it has aborted (R247). -/
def takeColl (s : State) (x : Cell) (stages : List Nat) (f : State → Nat → Comm → Nat → State) : State :=
  takeCell s .lattice x true fun s =>
    let comm := cQp x % 65536
    match getComm s comm with
    | none => dropCell s 0x3FF none x
    | some m =>
      match coordRank s m (cSrc x) with
      | some r =>
        let aborted := m.aborted.any fun a => a.1 % 256 = cSeq x / 16 && a.2.2.2
        if stages.contains (cQp x / 65536) && stagePath m (cQp x / 65536) r (myRank s m) &&
            (((getQp s m.qp).map qpLive).getD false || aborted) then
          shadowPump (settle (collCollect (f s comm m r)))
        else dropCell s 0x3FF (some (commDom s m)) x
      | none => dropCell s 0x3FF (some (commDom s m)) x

/-- An ABORT (R247): of a running collective, or of one not admitted yet. -/
def abortArrival (s : State) (comm : Nat) (m : Comm) (x : Cell) : State :=
  let st := dfld x.payload 0 0 8
  let status := if st = 9 || st = 2 then st else 0xD
  let seq := dfld x.payload 2 0 16
  match m.run.find? fun c => c.seq = seq with
  | some c =>
    let s := modComm (leaveColl s comm c.idx) comm fun m => { m with aborted := m.aborted ++ [(seq, status, 0, false)] }
    endDesc s m.qp c.idx status
  | none =>
    if (seq + 65536 - m.nextSeq) % 65536 < 32768 && !(m.aborted.any fun a => a.1 = seq) then
      modComm s comm fun m => { m with
        aborted := m.aborted ++ [(seq, status, 0, false)], stash := m.stash.filter fun y => cSeq y.1 / 16 ≠ seq % 256 }
    else s

/-! ## Admission and the shared pool (R231, R242 to R244) -/

/-- The checks of Table 8.2. -/
def collOk (s : State) (comm : Nat) (m : Comm) (q : Qp) (d : Line) : Bool :=
  let c := Coll.start 0 d
  dComm d = comm && dCollSeq d = m.nextSeq &&
  imagesOk s m d (keyCovers s q.fn) &&
  (!c.gathers || dSrcFmt d = dDstFmt d) && (c.op ≠ 0x12 || c.count % 128 = 0) && (c.op ≠ 0x14 || dRoot d < m.size) &&
  (!dSc d || (m.sched && m.slots ≠ 0))

/-- Cells stashed for a collective are taken up when it starts (R245). -/
def unstash (s : State) (comm idx : Nat) : State :=
  match getColl s comm idx with
  | none => s
  | some (m, c) =>
    let mine := m.stash.filter fun y => cSeq y.1 / 16 = c.seq % 256
    let s := modComm s comm fun m => { m with stash := m.stash.filter fun y => cSeq y.1 / 16 ≠ c.seq % 256 }
    mine.foldl (fun s y =>
      match coordRank s m (cSrc y.1) with
      | some r => collCell s comm idx (cQp y.1 / 65536) r y.1
      | none => s) s

/-- A collective starts: its first rounds are staged. -/
def beginColl (s : State) (comm idx : Nat) : State := unstash (stageRounds s comm idx) comm idx

/-- Admit one collective descriptor. -/
def admitColl (s : State) (n : Nat) (o : SendOp) : State :=
  match s.col.comms.find? fun e => e.2.qp = n, getQp s n with
  | some (comm, m), some q =>
    if !collOk s comm m q o.desc then failOp s n o.idx 0xC
    else
      let seq := dCollSeq o.desc
      let s := modComm s comm fun m => { m with nextSeq := (seq + 1) % 65536, begun := true }
      match m.aborted.find? fun a => a.1 = seq && !a.2.2.2 with
      | some a => endDesc s n o.idx a.2.1
      | none =>
        let c : Coll := { Coll.start o.idx o.desc with waits := if m.slots = 0 then some s.now else none, retryLeft := q.retryMax }
        let s := modComm s comm fun m => { m with
          run := m.run ++ [c], aborted := m.aborted.filter fun a => a.1 % 256 ≠ seq % 256 }
        if m.slots = 0 then { s with col := { s.col with fifo := s.col.fifo ++ [(comm, o.idx)] } } else beginColl s comm o.idx
  | _, _ => failOp s n o.idx 0xC

/-- Collective descriptors whose turn has come, in QP order, while a job context is free (R256). -/
def admitColls (s : State) : State :=
  s.qps.foldl (fun s e =>
    if e.2.type ≠ 2 then s else
    ((e.2.ops.filter fun o => o.phase = .waiting).foldl (fun (acc : State × Bool) o =>
      let s := acc.1
      if acc.2 || (s.col.comms.any fun x => x.2.run.any fun c => x.2.qp = e.1 && c.idx = o.idx) then acc
      else if !((getQp s e.1).map fun q => decide (q.state = .rts)).getD false then (s, true)
      else if ((getDom s (qpDom s e.2)).map (·.suspended)).getD true || !jobFree s (qpDom s e.2) then (s, true)
      else (admitColl s e.1 o, false)) (s, false)).1) s

/-- The head of the FIFO is granted its slots (R243). -/
def grantSlots (s : State) : State :=
  match s.col.fifo with
  | [] => s
  | (comm, idx) :: rest =>
    match getColl s comm idx with
    | none => { s with col := { s.col with fifo := rest } }
    | some (m, _) =>
      if m.shared > sharedFree s then s
      else
        let s := modColl { s with col := { s.col with fifo := rest } } comm idx fun c => { c with waits := none, granted := m.shared }
        beginColl s comm idx

/-- Every grant that can be made, head after head. -/
def grantAll : Nat → State → State
  | 0, s => s
  | fuel + 1, s =>
    let n := s.col.fifo.length
    let s := grantSlots s
    if s.col.fifo.length = n then s else grantAll fuel s

/-- The starts of a stage that are due, round after round. -/
def stageStarts : Nat → State → Nat → Nat → State
  | 0, s, _, _ => s
  | fuel + 1, s, comm, st => if stageDue s comm st then stageStarts fuel (stageStart s comm st) comm st else s

/-- The wait of R244 is over: NO_SLOT. -/
def slotWaitClose (s : State) (comm idx : Nat) : State :=
  collFail (mark { s with col := { s.col with noSlotSeen := true } } 0x1C0000 40) comm idx 9

/-! ## Acknowledgement of streams (R245) -/

/-- The outstanding stream an ACK, NAK or SNAK is about, with the rank that sent it. -/
def streamOf (s : State) (x : Cell) : Option (Nat × Comm × Coll × TxStream × Nat) :=
  (s.col.comms.find? fun e => e.1 = cQp x % 65536).bind fun e =>
    (coordRank s e.2 (cSrc x)).bind fun r =>
      e.2.run.findSome? fun c =>
        if c.seq % 256 ≠ cSeq x / 16 then none
        else (c.tx.find? fun t => t.relayOf.isNone && t.stage = cQp x / 65536 && t.round % 16 = cSeq x % 16 && t.dests.contains r &&
            !t.acked.contains r).map fun t => (e.1, e.2, c, t, r)

/-- The retransmission window of a collective, at its base time. -/
def baseTimer (s : State) (qp : Nat) : Option (Gtc × Nat) := (getQp s qp).map fun q => (s.now, q.rtoUs * 16000)

/-- The oldest unacknowledged stream in EC work, by its place among all. -/
def oldestStream (tx : List TxStream) : Option (Nat × Nat × Nat) :=
  (tx.find? fun t => t.ec && t.unacked).map fun t => (t.stage, t.round, t.next)

/-- A receiver has acknowledged a stream: the timer and the retry budget start afresh where that advances the oldest one, the RNR
budget where it is the stream whose NAK opened the last round (R128, R130, R245). -/
def streamAcked (s : State) (comm : Nat) (m : Comm) (c : Coll) (t : TxStream) (r : Nat) : State :=
  let q := getQp s m.qp
  let s := modColl s comm c.idx fun c =>
    let tx := (c.tx.map fun y => if y = t then { y with acked := r :: y.acked } else y).filter fun y => y.relayOf.isSome || y.unacked
    let c' := { c with tx := tx, rnrOf := if c.rnrOf = some (t.stage, t.round) then none else c.rnrOf }
    if oldestStream tx = oldestStream c.tx then c'
    else { c' with
      retryLeft := (q.map (·.retryMax)).getD 0, timer := if (oldestStream tx).isSome then baseTimer s m.qp else none }
  let s := if c.rnrOf = some (t.stage, t.round) then modQp s m.qp fun q => { q with rnrLeft := q.rnrMax } else s
  collProgress s comm c.idx

/-- Cells of a stream go again by unicast to a receiver, in EC work. One whose copy reads as poisoned moves the QP to ERROR, and the
collective is aborted with that status (Table 21.4, R247). -/
def resendTo (s : State) (comm : Nat) (m : Comm) (c : Coll) (t : TxStream) (is : List Nat) (r : Nat) : State :=
  if ((getQp s m.qp).map (·.state)) = some .error then s
  else if is.any (streamBad s m comm c t) then enterError s m.qp none 0xA 3 true
  else pushCells s m.qp (is.map fun i => unicastTo s m comm c t i r)

/-- Slots within which a listing of a cell just re-sent on a flow is ignored (R191). -/
def listGap (s : State) (f : Option Nat) : Nat :=
  match (activeSet s).bind fun g => g.flows.find? fun x => some x.num = f with
  | some x => x.lagF + x.lagR + x.ackGap
  | none => 0

/-- A receiver lists missing cells: the flow's own receiver gets them in its retry slots (R191), any other by unicast; an EC
stream's timer opens again and the retry budget is restored (R128, R245, R246). -/
def streamSnak (s : State) (comm : Nat) (m : Comm) (c : Coll) (t : TxStream) (r : Nat) (p : Line) : State :=
  let is := snakCells p t.cells.length
  let dom := commDom s m
  if !t.ec && r = t.next then
    modColl s comm c.idx fun c => { c with tx := c.tx.map fun y => if y = t then
      { y with again := y.again ++ is.filter fun i => !y.again.contains i && !y.left.contains i && i < y.have_ &&
          !(match y.resent.lookup i with | some g => decide (s.now < g + 6 * listGap s y.flow) | none => false) } else y }
  else
    let s := resendTo (bumpDom s dom 6 is.length) comm m c t (is.filter (· < t.have_)) r
    if t.ec then
      modColl s comm c.idx fun c => { c with timer := baseTimer s m.qp, retryLeft := ((getQp s m.qp).map (·.retryMax)).getD 0 }
    else s

/-- NAK RNR of a stream opens a round of R130, or belongs to the one that is open. -/
def streamRnr (s : State) (comm : Nat) (m : Comm) (c : Coll) (t : TxStream) (r : Nat) : State :=
  match getQp s m.qp with
  | none => s
  | some q =>
    let s := modColl s comm c.idx fun c => { c with rnr := if c.rnr.contains r then c.rnr else r :: c.rnr }
    match q.round with
    | some _ => s
    | none =>
      if q.rnrMax ≠ 7 && q.rnrLeft = 0 then collFail s comm c.idx 1
      else
        modQp (modColl s comm c.idx fun c => { c with rnrOf := some (t.stage, t.round) }) m.qp fun q => { q with
          rnrLeft := if q.rnrMax = 7 then q.rnrLeft else q.rnrLeft - 1, round := some (0, s.folio + q.rnrDelay) }

/-- After the RNR window, streams go again in full to the receivers that were not ready (R130, R245). -/
def streamResend (s : State) (qp : Nat) : State :=
  match s.col.comms.find? fun e => e.2.qp = qp with
  | none => s
  | some (comm, m) =>
    m.run.foldl (fun s c =>
      (c.tx.filter fun t => t.ec && t.relayOf.isNone).foldl (fun s t =>
        (c.rnr.filter fun r => t.dests.contains r && !t.acked.contains r).foldl (fun s r =>
          resendTo s comm m c t (List.range t.have_) r) s) (modColl s comm c.idx fun c => { c with rnr := [] })) s

/-- A probe of a stream to one receiver: OFFSET 0xFFFF, no payload. -/
def probeCell (s : State) (m : Comm) (comm : Nat) (c : Coll) (t : TxStream) (r : Nat) : OutCell :=
  ⟨latCell (collHdr s comm t.stage c.seq t.round 0 (rankCoord s m r) 0xFFFF false false false) 0, dPrio c.desc, 2⟩

/-- The retransmission window of a collective closes: the oldest unacknowledged stream is probed at every receiver that has not
acknowledged it (R128, R245). -/
def streamTimeout (s : State) (comm : Nat) (m : Comm) (c : Coll) (len : Nat) : State :=
  match c.tx.find? fun t => t.ec && t.unacked, getQp s m.qp with
  | some t, some q =>
    if t.have_ < t.cells.length || queuedOf s q comm c t then modColl s comm c.idx fun c => { c with timer := none }
    else if c.retryLeft = 0 then collFail s comm c.idx 0xE
    else
      let s := pushCells s m.qp ((t.dests.filter fun r => !t.acked.contains r).map fun r => probeCell s m comm c t r)
      modColl s comm c.idx fun c => { c with
        retryLeft := c.retryLeft - 1, timer := some (s.now, min (2 * len) (64 * (q.rtoUs * 16000))) }
  | _, _ => modColl s comm c.idx fun c => { c with timer := none }

/-! ## SC streams at a tick (R189, R192, R196, R246) -/

/-- A stream leaves its flow: what it has not sent there, and what was listed, goes as EC; `late` where its promise is lost
(R192, R196, R246). -/
def streamToEc (s : State) (comm : Nat) (m : Comm) (c : Coll) (t : TxStream) (late : Bool) : State :=
  let u : TxStream := { t with asEc := true, left := [], again := [], check := if late then none else t.check }
  let s := modColl s comm c.idx fun c => { c with missed := c.missed || late, tx := c.tx.map fun y => if y = t then u else y }
  if t.again.any (streamBad s m comm c t) then enterError s m.qp none 0xA 3 true
  else openStreamTimers (pushCells s m.qp (ecCells s m comm c u (t.left ++ t.again))) m.qp

/-- A message of a flow may begin (R189): its previous one has sent all its original cells, and the cells for the flow's slots of
this folio are there. -/
def streamReady (s : State) (f : Nat) (t : TxStream) : Bool :=
  !flowUnsent s f && min t.cells.length (dataSlots s f s.folio) ≤ t.left.length

/-- Admit a collective's SC streams, oldest first, until one has to wait; those whose flow is no longer carried go on as EC. One
that its flow has not begun to carry is late for its promise (Table 6.1, R189, R196, R246). A cast passed on is admitted too;
its promise is its sender's to check (log 117). -/
def admitStreams (s : State) (comm : Nat) (m : Comm) (c : Coll) : State :=
  (c.tx.foldl (fun (acc : State × Bool) t =>
    let s := acc.1
    match t.flow with
    | none => acc
    | some f =>
      if t.asEc then acc
      else if !flowCarried s f then (streamToEc s comm m c t (!t.admitted && t.relayOf.isNone), acc.2)
      else if t.admitted || acc.2 then acc
      else match activeSet s with
        | none => acc
        | some g =>
          if !streamReady s f t then (s, true)
          else (modColl s comm c.idx fun c => { c with tx := c.tx.map fun y => if y = t then { y with
              admitted := true
              check := if t.relayOf.isSome then none else some (s.folio + promiseFolios s g f s.folio t.cells.length + 5) } else y },
            false)) (s, false)).1

def streamAdmit (s : State) : State :=
  s.col.comms.foldl (fun s e => e.2.run.foldl (fun s c => admitStreams s e.1 e.2 c) s) s

/-- Streams of a flow past their check tick: the collective is late and they go on as EC (R192, R246). -/
def streamCheck (s : State) (f : Nat) : State :=
  s.col.comms.foldl (fun s e => e.2.run.foldl (fun s c => c.tx.foldl (fun s t =>
    if t.flow = some f && (match t.check with | some k => decide (k ≤ s.folio) | none => false) then
      streamToEc (bumpDom s (commDom s e.2) 8 1) e.1 e.2 c t true
    else s) s) s) s

/-! ## Ticks (R230, R247, R249, R272) -/

/-- Collectives of QPs in ERROR are aborted with the status of its cause (R247); with no RDX left every reduction is (R272). -/
def collErrors (s : State) : State :=
  s.col.comms.foldl (fun s e => e.2.run.foldl (fun s c =>
    match getQp s e.2.qp with
    | some q => if q.state = .error then abortOwn s e.1 c.idx q.cause else if q.state = .reset then abortOwn s e.1 c.idx 8 else s
    | none => abortOwn s e.1 c.idx 8) s) s

/-- With no RDX engine left every reduction ends at the tick (R272). -/
def collNoRdx (s : State) : State :=
  if working s 0 ≠ [] then s else
    s.col.comms.foldl (fun s e => e.2.run.foldl (fun s c => if c.reduces then collFail s e.1 c.idx 0xE else s) s) s

/-- ABORT cells due at the tick (R247). -/
def sendAborts (s : State) : State :=
  s.col.comms.foldl (fun s e =>
    let me := myRank s e.2
    let s := e.2.aborted.foldl (fun s a =>
      if a.2.2.1 = 0 then s else
        pushNotices s e.2 (((List.range e.2.size).filter (· ≠ me)).map fun r => abortCell s e.1 a.1 a.2.1 (rankCoord s e.2 r))) s
    modComm s e.1 fun m => { m with aborted := m.aborted.map fun a => (a.1, a.2.1, a.2.2.1 - 1, a.2.2.2) }) s

/-- The window of R249 closes: SUSPENDED goes to every other member once. -/
def noticeClose (s : State) (comm : Nat) : State :=
  match getComm s comm with
  | none => s
  | some m =>
    match m.notice, getDom s (commDom s m) with
    | some k, some d =>
      if k > s.folio || !d.suspended then s
      else
        let me := myRank s m
        let seq := ((m.run.head?).map Coll.seq).getD m.nextSeq
        let cells := ((List.range m.size).filter (· ≠ me)).map fun r => suspendedCell s comm seq (rankCoord s m r) (d.suspendedAt * s.F)
        modComm (pushNotices s m cells) comm fun m => { m with notice := none }
    | _, _ => s

/-- The windows of R249: opened at the suspension tick, forgotten on resume. -/
def noticeTick (s : State) : State :=
  s.col.comms.foldl (fun s e =>
    match getDom s (commDom s e.2) with
    | none => s
    | some d =>
      if !d.suspended then modComm s e.1 fun m => { m with notice := none }
      else if d.suspendedAt = s.folio && e.2.notice.isNone && !(e.2.run.isEmpty && e.2.stash.isEmpty) then
        modComm s e.1 fun m => { m with notice := some (s.folio + 1024) }
      else s) s

/-- Collectives at a tick. -/
def collTick (s : State) : State :=
  let s := { s with col := { s.col with back := [] } }
  let s := streamAdmit (noticeTick (collNoRdx (collErrors (sendAborts (collCollect s)))))
  let s := admitColls s
  collJobs (s.col.comms.foldl (fun s e => e.2.run.foldl (fun s c => collProgress s e.1 c.idx) s) s)

/-- What the crossbar cycle brings for collectives, once its commands and closes are through: digests that differ, collectives
whose job or QP has failed, slots granted, stages whose condition holds (R234, R238, R243, R247, R272). -/
def collCycle (s : State) : State :=
  if s.col.comms.isEmpty then s else
  let s := collErrors (collKilled (digestCycle (collCollect s)))
  let s := grantAll s.col.fifo.length s
  s.col.comms.foldl (fun s e => (List.range 10).foldl (fun s st => stageStarts 64 s e.1 st) s) s

/-- Stashed cells of a communicator whose 64 folios are over, and result cells that have waited as long for a page (R119, R138,
R245). -/
def collStashClose (s : State) (comm : Nat) : State :=
  match getComm s comm with
  | none => s
  | some m =>
    let old := (m.stash.filter fun y => y.2 + 64 ≤ s.folio).length
    let s := modComm s comm fun m => { m with stash := m.stash.filter fun y => !(y.2 + 64 ≤ s.folio) }
    let late := s.xl.accesses.filter fun a => a.fault.isSome && !a.dropped && a.folio + 64 ≤ s.folio && a.collComm = some comm
    let s := late.foldl giveUpCell s
    if old + late.length = 0 then s else bumpDom s (commDom s m) 10 (old + late.length)

end Sys2Proof.Machine
end

