-- ==== Sys2Proof/Machine/Sign.lean ====
section
/-! DEFINITION. Sign.lean: the security block's signing queue, measurements and link attestation (R472, R482 to R489). -/

namespace Sys2Proof.Machine

open Host (Outcome)

/-- Firmware runs: started, not halted, not restarting (R22 to R24). -/
def fwAlive (s : State) : Bool := s.glb.fwRunning && !s.glb.fwHalted && s.fw.restarting.isNone

/-- Both certificates are in the store (R482). -/
def certReady (s : State) : Bool := !s.sec.identCert.isEmpty && !s.sec.attCert.isEmpty

def modSec (s : State) (f : Sec → Sec) : State := { s with sec := f s.sec }

/-- A SHA-256 digest as 32 bytes in R2's order. -/
def shaBits (bs : List Byte) : BitVec 256 := ofBytes 256 (sha256 bs)

/-! ## Measurements (R483, R487) -/

/-- Measurement 4: SVN and VERSION of the running image (R487). -/
def meas4 (s : State) : BitVec 256 := layout 256 [(0, 7, s.sec.fwSvn), (32, 32, s.sec.fwVersion)]

/-- The 96 measurement bytes that end a CHAIN. -/
def measTail (s : State) : List Byte := bytesOf s.sec.bodyHash ++ bytesOf (meas4 s) ++ bytesOf s.sec.ownerHash

/-- The hardware state measurement 0x10 + c covers: descriptor, HDM_ACCESS and NPT_BIND bits, key check values. -/
def carrelState (s : State) (c : Nat) : List Nat :=
  match getDom s c with
  | none => []
  | some d =>
    d.cfg.granules ++ [d.cfg.qpBase, d.cfg.qpCount, d.cfg.regionBase, d.cfg.regionCount, d.cfg.ctxBase, d.cfg.ctxCount,
      d.cfg.keyBase, d.cfg.keyCount, d.cfg.trigBase, d.cfg.trigCount, d.cfg.jobQuota, d.cfg.commQuota, d.cfg.slotQuota,
      d.cfg.deferredQuota, d.cfg.transport, d.cfg.stashMib, d.cfg.vfs.toNat] ++ d.cfg.weights ++
    (s.cxl.hdmAccess.map fun r => r.inForce.toNat) ++ (s.near.map fun p => b2n (bitAt p.bind.inForce c)) ++
    ((s.keys.filter fun e => e.2.kind ≠ 0 && d.cfg.keyBase ≤ e.1 && e.1 < d.cfg.keyBase + d.cfg.keyCount).map fun e => e.2.kcv)

/-- Value of a measurement: 3 to 5 as R487 gives their bytes; the others are digests of what Table 19.4 lists, in an
encoding the rules do not give. -/
def measValue (s : State) (i : Nat) : BitVec 256 :=
  match i with
  | 3 => s.sec.bodyHash
  | 4 => meas4 s
  | 5 => s.sec.ownerHash
  | 2 => shaBits (Config.spdmBytes 2 [s.sec.svn, b2n s.sec.debugDisabled, b2n (s.sec.ownerHash0 ≠ 0), b2n (s.sec.ownerHash1 ≠ 0)])
  | 6 => shaBits (Config.spdmBytes 6 [s.cxl.cfg.toNat, s.sec.policy.toNat, s.time.cfg.toNat])
  | _ => shaBits (Config.spdmBytes i (if i ≥ 16 then carrelState s (i - 16) else []))

/-- Digest of measurements 1 to 6. -/
def measDigest (s : State) : BitVec 256 :=
  shaBits ([1, 2, 3, 4, 5, 6].flatMap fun i => bytesOf (measValue s i))

/-! ## Attestation messages (R487) -/

def challengeBody (s : State) (p : Nat) (nonce : BitVec 256) : List Byte :=
  bytesOf nonce ++ leBytes 1 p ++ leBytes 2 (myCoord s)

def chainBody (s : State) : List Byte :=
  leBytes 4 s.sec.identCert.length ++ leBytes 4 s.sec.attCert.length ++ s.sec.identCert ++ s.sec.attCert ++ measTail s

/-- A RESPONSE up to its signature. -/
def respBody (s : State) (es : List (Nat × BitVec 256 × Nat × Nat)) : List Byte :=
  padTo 8 (leBytes 1 1 ++ leBytes 1 es.length ++ leBytes 2 (myCoord s)) ++ bytesOf (measDigest s) ++
    bytesOf (shaBits (measTail s)) ++
    es.flatMap fun e => padTo 16 (leBytes 2 e.2.2.1 ++ leBytes 2 e.2.2.2) ++ bytesOf e.2.1

/-! ## The signing queue (R472, R485, R488, R499) -/

/-- A RESPONSE for every port that holds a far nonce now. -/
def linkJob (s : State) : SignJob :=
  .link (s.sec.linkQ.filterMap fun p => (getLat s p).farNonce.map fun x => (p, x.1, x.2.1, x.2.2))

/-- The block takes its next request: link admission first, then SPDM, then a checkpoint, then the certificate. -/
def sigPump (s : State) : State :=
  if s.sec.signing.isSome then s
  else if (s.sec.linkQ.any fun p => (getLat s p).farNonce.isSome) && certReady s then
    modSec s fun x => { x with signing := some (linkJob s), linkQ := [] }
  else match s.sec.spdmQ with
    | r :: rest => modSec s fun x => { x with signing := some (.spdm r), spdmQ := rest }
    | [] => match s.sec.ckptQ with
      | some j => modSec s fun x => { x with signing := some j, ckptQ := none }
      | none => if s.sec.certQ then modSec s fun x => { x with signing := some .certificate, certQ := false } else s

/-- A link attestation message waits for a port's survey slots, 16 bytes a fragment (R487, Table 12.5). -/
def attestSend (s : State) (p msg : Nat) (body : List Byte) : State :=
  let frag (i : Nat) : Line :=
    layout 512 [(0, 8, 1), (8, 8, msg), (16, 16, i), (32, 32, body.length), (64, 128, natOf ((body.drop (16 * i)).take 16))]
  modPort s p fun x => { x with linkq := x.linkq ++ (List.range (cdiv body.length 16)).map frag }

/-- The messages of both ends' admission start: CHALLENGE and CHAIN leave (R487). Nothing starts while firmware is not
there to serve it or a certificate is missing (R22, R482). -/
def attestStart (s : State) (p : Nat) : State :=
  if !fwAlive s || !certReady s || (getLat s p).state ≠ 3 || (getLat s p).nonce.isSome then s
  else
    let r := draw s 256
    let s := modPort r.2 p fun x => { x with nonce := some r.1 }
    attestSend (attestSend s p 1 (challengeBody s p r.1)) p 2 (chainBody s)

/-- A link whose checks and attestation have passed leaves ATTEST for TIMED (R334); while firmware restarts or is halted
admission is held (Table 1.11). -/
def linkAdmit (s : State) (p : Nat) : State :=
  let x := getLat s p
  if x.state = 3 && x.checked = some true && x.attested = some true && fwAlive s then
    modPort s p fun x => { x with
      state := 4, since := s.now, ready := false, near64 := 0, loadSt := 0, pairs := [], mean := none }
  else s

/-- LINK_REFUSED record: the check that failed (R489 in the order of its list; 0 for R32 and R149), then the port. -/
def linkRefused (s : State) (p check : Nat) : State := codexHand s 0x30 p 0xFF (codexCause check p)

/-- The check of R489 a far end fails, in the order of its list; 0 when it passes all. -/
def attestCheck (s : State) (p : Nat) (x : LatPort) (c : ChainMsg) (r : RespMsg) : Nat :=
  let meas := bytesOf c.bodyHash ++ bytesOf c.svnVersion ++ bytesOf c.ownerHash
  if !c.verifies then 1
  else if r.sigKey ≠ some c.attKey || r.version ≠ 1 || r.entries.length > 8 ||
      !(r.entries.any fun e => e.port = p && e.coord = myCoord s && some e.nonce = x.nonce) ||
      r.measDigest ≠ shaBits meas then 2
  else if fld c.svnVersion 0 7 < fld s.sec.policy 0 7 then 3
  else if bitAt s.sec.policy 7 && c.ownerHash ≠ s.sec.ownerHash then 4
  else if bitAt s.sec.policy 8 && c.bodyHash ≠ s.sec.bodyHash then 5
  else 0

/-- Verification of a far end, once its CHAIN and RESPONSE are there and firmware runs (R489). -/
def attestVerify (s : State) (p : Nat) : State :=
  let x := getLat s p
  match x.chain, x.resp with
  | some c, some r =>
    if x.state ≠ 3 || x.attested.isSome || !fwAlive s then s
    else
      let k := attestCheck s p x c r
      if k = 0 then linkAdmit (modPort s p fun x => { x with attested := some true }) p
      else linkRefused (modPort s p fun x => { x with attested := some false }) p k
  | _, _ => s

/-- After a firmware restart, what admission held goes on (R22, Table 19.7). -/
def attestResume (s : State) : State :=
  let s := s.sec.heldResp.foldl (fun s m => attestSend s m.1 3 m.2) (modSec s fun x => { x with heldResp := [] })
  sigPump ((List.range 8).foldl (fun s p => linkAdmit (attestVerify (attestStart s p) p) p) s)

/-- A CHALLENGE of the far end (R487). -/
def challengeHeard (s : State) (p : Nat) (nonce : BitVec 256) (farPort farCoord : Nat) : State :=
  if (getLat s p).state ≠ 3 then s
  else
    let s := modPort s p fun x => { x with farNonce := some (nonce, farPort, farCoord) }
    sigPump (modSec s fun x => { x with linkQ := if x.linkQ.contains p then x.linkQ else x.linkQ ++ [p] })

/-! ## A signature is there (R472, R485, R488, R499) -/

/-- A checkpoint's records: CHECKPOINT, then 225 fragments of 76 bytes (R499). Of the management cores 0x090 to 0x093 that
may write them (R7, Table 20.3) this model takes core 0, 0x090 (DESIGN CHOICE, log 94). -/
def checkpointRecords (s : State) (seq : Nat) (sig : List Byte) : State :=
  let s := codexHand s 0x04 0x090 0xFF (layout 624 [(0, 32, seq)]) true
  (List.range 225).foldl (fun s i =>
    codexHand s 0x05 0x090 0xFF
      (layout 624 [(0, 16, i), (16, 608, natOf ((sig.drop (76 * i)).take 76))]) true) s

/-- SIGNATURE_DONE: the job in the block ends with these bytes. -/
def signatureDone (s : State) (sig : List Byte) : State :=
  match s.sec.signing with
  | none => s
  | some j =>
    let s := modSec s fun x => { x with signing := none }
    let s := match j with
      | .link es =>
        let body := respBody s es ++ sig
        es.foldl (fun s e =>
          if fwAlive s then attestSend s e.1 3 body
          else modSec s fun x => { x with heldResp := x.heldResp ++ [(e.1, body)] }) s
      | .spdm r => if fwAlive s && r.code ≠ 0 then spdmEmit s r.bus r.code (Config.spdmBytes r.code r.args ++ sig) else s
      | .checkpoint seq _ _ =>
        if fwAlive s && s.codex.ckPending.isSome then
          checkpointRecords (modCodex s fun c => { c with ckSeq := seq, ckAt := s.now, ckPending := none }) seq sig
        else modCodex s fun c => { c with ckPending := none }
      | .certificate => modSec s fun x => { x with attCert := sig }
    sigPump s

end Sys2Proof.Machine
end

