-- ==== Sys2Proof/Machine/Codex.lean ====
section
/-! DEFINITION. Codex.lean: the codex writer, its chain, checkpoints, readout and the clearing of the first-fault region
(R494 to R505). -/

namespace Sys2Proof.Machine

open Host (Outcome)

/-! ## Writing (R495 to R498) -/

/-- Codes of class W and F (Table 20.3). -/
def firstFaultCodes : List Nat :=
  [0x02, 0x03, 0x10, 0x11, 0x12, 0x20, 0x22, 0x30, 0x31, 0x32, 0x33, 0x34, 0x35] ++
  [0x40, 0x41, 0x50, 0x51, 0x52, 0x60, 0x61, 0x62]

/-- Bytes 0 to 95 of a record (Table 20.2). -/
def codexBytes (r : CodexRec) : List Byte :=
  leBytes 8 r.stamp ++ leBytes 2 r.source ++ leBytes 2 r.code ++ leBytes 1 r.carrel ++
    leBytes 1 (b2n r.ff + 2 * b2n r.fw) ++ leBytes 4 r.seq ++ bytesOf r.data

/-- Write one record: its region, SEQUENCE and CHAIN (R495, R497, R498). -/
def codexPut (s : State) (r : CodexRec) : State :=
  let c := s.codex
  let ff := firstFaultCodes.contains r.code && c.first.length < 4096
  let r := { r with ff := ff, seq := c.nextSeq }
  let r := { r with chain := shaBits (bytesOf c.lastChain ++ codexBytes r) }
  let s := bump s (devCnt 11) 1
  modCodex s fun c => { c with
    first := if ff then c.first ++ [r] else c.first
    ring := if ff then c.ring else (r :: c.ring).take 520192
    ringPos := if ff then c.ringPos else if c.ringPos + 1 = 524288 then 4096 else c.ringPos + 1
    nextSeq := (c.nextSeq + 1) % 2 ^ 32, lastChain := r.chain }

/-- The OVERFLOW record of the records lost (R497). -/
def overflowRec (c : Codex) : CodexRec :=
  ⟨c.lostLast, 0x3FF, 0x03, 0xFF, false, false, 0, layout 624 [(0, 32, c.lost), (32, 64, c.lostFirst), (96, 64, c.lostLast)], 0⟩

/-- Space has returned: the OVERFLOW record is queued behind the records there are. -/
def overflowPump (c : Codex) : Codex :=
  if c.lost = 0 || c.queue.length ≥ 1024 then c
  else { c with queue := c.queue ++ [overflowRec c], lost := 0, overflowSeen := true }

/-- The record at the head of the queue is written. -/
def codexNext (s : State) : State :=
  match s.codex.queue with
  | [] => s
  | r :: rest =>
    let s := if s.codex.lost ≠ 0 && rest.length < 1024 then mark s 0x210000 45 else s
    codexPut (modCodex s fun c => overflowPump { c with queue := rest, freeAt := s.now + 2400 }) r

/-- The GTC at which the writer writes next: it is free, and the record is 2 µs old (R497). -/
def codexWhen (s : State) : Option Gtc :=
  match s.codex.queue, s.codex.handed with
  | _ :: _, _ => some s.codex.freeAt
  | [], r :: _ => some (max s.codex.freeAt (r.stamp + 32000))
  | [], [] => none

/-- Everything handed to the writer is in its queue: no later record can come before it (R510, R518). -/
def codexDrain (s : State) : State :=
  modCodex s fun c => { c with handed := [], queue := c.queue ++ c.handed }

/-! ## Power (R500) -/

/-- The writer resumes from the last whole record: a torn one, the last, is dropped and its position is empty. An empty MRAM
restarts the chain. -/
def codexResume (s : State) : State :=
  let held := !(s.codex.first.isEmpty && s.codex.ring.isEmpty)
  let from_ := if held then (s.codex.nextSeq + 2 ^ 32 - 1) % 2 ^ 32 else 2 ^ 32 - 1
  let torn := b2n s.codex.torn
  let s := modCodex s fun c => { c with
    resumed := true, handed := [], queue := [], lost := 0, freeAt := 0, lastChain := if held then c.lastChain else 0, torn := false }
  codexPut s ⟨0, 0x3FF, 0x01, 0xFF, false, false, 0, layout 624 [(0, 32, from_), (32, 1, torn), (33, 1, b2n !held), (40, 24, torn)], 0⟩

/-- The charge runs out while a record is being written: whether it has begun is free, and the oldest record of a full ring is
lost to one that has. -/
def codexTear (s : State) (r : CodexRec) : State :=
  let d := draw s 1
  if d.1 = 0 then d.2 else modCodex d.2 fun c => { c with
    torn := true
    ring := if (firstFaultCodes.contains r.code && c.first.length < 4096) then c.ring else c.ring.take 520191 }

/-- The supply falls: 20 µs of charge write at most 133 records, POWER_LOSS the last of them if it still fits; the one after
them may be left half-written. -/
def codexPowerLoss (s : State) : State :=
  let s := codexDrain s
  let last : CodexRec := ⟨s.now, 0x3FF, 0x02, 0xFF, false, false, 0, 0, 0⟩
  let all := s.codex.queue ++ [last]
  let s := (all.take 133).foldl codexPut s
  let s := match all.drop 133 with
    | r :: _ => codexTear s r
    | [] => s
  modCodex s fun c => { c with resumed := false, queue := [], lost := 0 }

/-! ## Checkpoints (R499) -/

/-- Records in both regions. -/
def codexHeld (c : Codex) : List CodexRec := c.first ++ c.ring

/-- The record with a SEQUENCE, if it is still held. -/
def codexFind (c : Codex) (seq : Nat) : Option CodexRec := (codexHeld c).find? fun r => r.seq = seq

/-- A checkpoint is due: 65,536 records after the one signed last, or 3600 s after it with a record since. -/
def checkpointDue (s : State) : Bool :=
  let c := s.codex
  let since := sub32 c.nextSeq (c.ckSeq + 1)
  (codexHeld c) ≠ [] && c.ckPending.isNone &&
    (65536 ≤ since || (s.now ≥ c.ckAt + 3600 * 16000000000 && (if c.ckAt = 0 then 0 else 226) < since))

/-- Firmware asks for a signature of the latest record. -/
def checkpoint (s : State) : State :=
  let seq := sub32 s.codex.nextSeq 1
  match codexFind s.codex seq with
  | none => s
  | some r =>
    if !fwAlive s || !checkpointDue s then s
    else
      let s := modCodex s fun c => { c with ckPending := some seq }
      sigPump (modSec s fun x => { x with ckptQ := some (.checkpoint seq r.stamp r.chain) })

/-! ## Readout (R501, R502) -/

/-- The records with SEQUENCE `first` to `first + count - 1` that are held, in sequence order. -/
def codexRange (c : Codex) (first count : Nat) : List CodexRec :=
  sortBy (fun a b => sub32 a.seq first ≤ sub32 b.seq first) ((codexHeld c).filter fun r => sub32 r.seq first < count)

/-- A record's 128 bytes. -/
def codexLine (r : CodexRec) : List Byte := codexBytes r ++ bytesOf r.chain

/-- CODEX_READ (R501). -/
def codexRead (s : State) (d : Line) : State :=
  let off := dfld d 16 0 39
  let count := dfld d 28 0 32
  if off % 64 ≠ 0 || (count ≠ 0 && !domNamed s 64 off (128 * count)) then mgrFail s d 3
  else
    let rs := codexRange s.codex (dfld d 24 0 32) count
    mgrOk (wrAlloc s 64 off (rs.flatMap codexLine)) d rs.length

/-! ## Clearing the first-fault region (R503) -/

/-- Bytes at an offset of PF0's allocation that a manager command reads: none where they are unreadable (R514). -/
def readBlock (s : State) (off len : Nat) : Option (List Byte) :=
  if domNamed s 64 off len && !allocPoison s 64 off len then rdAlloc s 64 off len else none

/-- The key's digest is the owner's, or the vendor root's while no owner fuse is burned (R476, R503). -/
def clearKeyOk (s : State) (key : List Byte) : Bool :=
  shaBits key = (if s.sec.ownerHash = 0 then Config.vendorRootHash else s.sec.ownerHash)

/-- "PLK-CDXCLR" -/
def clearTag : List Byte := [0x50, 0x4C, 0x4B, 0x2D, 0x43, 0x44, 0x58, 0x43, 0x4C, 0x52]

/-- The message a clear signs. -/
def clearMsg (count seq : Nat) : List Byte := clearTag ++ sha256 Config.identityKey ++ leBytes 4 count ++ leBytes 4 seq

/-- SEQUENCE of the newest first-fault record, 0 with none. -/
def newestFf (c : Codex) : Nat := (c.first.getLast?.map (·.seq)).getD 0

/-- CODEX_CLEAR: a signature over an earlier CLEAR_COUNT or SEQUENCE is stale, any other one fails the check. -/
def codexClear (s : State) (d : Line) : State :=
  match readBlock s (dfld d 16 0 39) 7888 with
  | none => mgrFail s d 3
  | some bs =>
    let key := bs.take 32
    let sig := bs.drop 32
    let c := s.codex
    let seq := newestFf c
    if !clearKeyOk s key then mgrFail s d 3
    else if Config.slhDsaVerify key (clearMsg c.clearCount seq) sig then
      let s := modCodex s fun c => { c with first := [], clearCount := (c.clearCount + 1) % 2 ^ 32 }
      mgrOk (codexHand s 0x06 0x090 0xFF (layout 624 [(0, 32, c.clearCount), (32, 32, seq)]) true) d
    else if (List.range (c.clearCount + 1)).any fun n => (List.range c.nextSeq).any fun q =>
        Config.slhDsaVerify key (clearMsg n q) sig then mgrFail s d 2
    else mgrFail s d 3

end Sys2Proof.Machine
end

