-- ==== Sys2Proof/Machine/Segments.lean ====
section
/-! DEFINITION. Segments.lean: contexts, segment entries and their withdrawal, ATS and PRI answers, fault records and
dirty logs (R402 to R421). -/

namespace Sys2Proof.Machine

open Host (Outcome)

/-! ## Contexts -/

def getCtx (s : State) (c : Nat) : Option Ctx := s.xl.ctxs.lookup c
def modCtx (s : State) (c : Nat) (f : Ctx → Ctx) : State := modXl s fun x => { x with ctxs := tupd x.ctxs c f }

/-! ## Dirty logs (R418, R419) -/

/-- Bytes of a segment's bitmap. -/
def bitmapLen (len : Nat) : Nat := cdiv len 32768

/-- A range of PF0's allocation is zeroed. -/
def zeroPf0 (s : State) (off len : Nat) : State := wrAlloc s 64 off (List.replicate len 0)

/-- START, HARVEST or STOP of a log whose bitmaps are `len` bytes long: the reason it fails with, or the log after it; a
harvest is completed at a later tick. -/
def logCommand (s : State) (l : Option DirtyLog) (op b0 b1 len : Nat) (d : Line) : Except Nat (State × DirtyLog) :=
  let live := l.filter fun l => match l.stopAt with | some k => decide (s.folio < k) | none => true
  match op, live with
  | 0, some _ => .error 2
  | 0, none =>
    if b0 % 64 ≠ 0 || b1 % 64 ≠ 0 || !domNamed s 64 b0 len || !domNamed s 64 b1 len then .error 3
    else .ok (zeroPf0 s b0 len, ⟨b0, b1, 0, s.folio + 1, none, none⟩)
  | 1, some l =>
    if l.stopAt.isSome || l.harvest.isSome then .error 2
    else .ok (zeroPf0 s (if l.active = 0 then l.bitmap1 else l.bitmap0) len, { l with harvest := some (s.folio + 1, d) })
  | 2, some l => if l.stopAt.isSome then .error 2 else .ok (s, { l with stopAt := some (s.folio + 1) })
  | 3, _ => .error 3
  | _, _ => .error 2

/-- DIRTY_LOG. -/
def dirtyLog (s : State) (d : Line) : State :=
  let c := dfld d 16 0 12
  let i := dfld d 18 0 4
  let op := dfld d 18 4 2
  match (getCtx s c).bind fun x => x.segs.lookup i with
  | none => mgrFail s d (if op = 3 then 3 else 1)
  | some g =>
    match logCommand s g.log op (dfld d 24 0 39) (dfld d 32 0 39) (bitmapLen g.len) d with
    | .error r => mgrFail s d r
    | .ok (s, l) =>
      let s := modCtx s c fun x => { x with segs := tupd x.segs i fun g => { g with log := some l } }
      if op = 1 then s else mgrOk s d

/-- A log at a tick: a harvest ends once `busy` says no write of the old bitmap is outstanding; a stop takes the log away. -/
def logAtTick (s : State) (l : DirtyLog) (busy : Nat → Bool) : Option DirtyLog × Option (Line × Nat) :=
  match l.harvest with
  | some (k, d) =>
    if k ≤ s.folio && !busy k then (some { l with harvest := none, active := 1 - l.active }, some (d, l.active)) else (some l, none)
  | none => (match l.stopAt with | some k => if k ≤ s.folio then none else some l | none => some l, none)

/-- Segment logs whose harvest or stop has come to its end (R418). -/
def dirtyTick (s : State) : State :=
  s.xl.ctxs.foldl (fun s e => e.2.segs.foldl (fun s g =>
    match g.2.log with
    | none => s
    | some l =>
      let r := logAtTick s l fun k => s.xl.accesses.any fun a => a.ctx = e.1 && a.seg = g.1 && a.write && a.folio < k && a.result.isNone
      let s := modCtx s e.1 fun x => { x with segs := tupd x.segs g.1 fun g => { g with log := r.1 } }
      match r.2 with
      | some (d, i) => mgrOk s d i
      | none => s) s) s

/-! ## Outcomes -/

/-- Accesses that waited for one of the 4096 faults to close go on (R411). -/
def wakeWaiters (s : State) : State :=
  s.xl.accesses.foldl (fun s a =>
    match a.fault with
    | some (i, _) => if i = noFaultYet && openFaults s < 4096 then tryAccess s a.id else s
    | none => s) s

/-- Every unit takes what its accesses have ended with; a harvest that waited for the last write of its bitmap ends (R418). -/
def settleAll (s : State) : State := dirtyTick (shadowPump (inboundPump (collCollect (movCollect (settle (wakeWaiters s))))))

/-! ## Contexts (R402, R403) -/

/-- CTX_CREATE: the lowest context free in the carrel's pool (Table 15.1). -/
def ctxCreate (s : State) (d : Line) : State :=
  let c := dfld d 16 0 7
  let fn := dfld d 18 0 16
  if c > 64 then mgrFail s d 3
  else match (if fn ≤ 512 && fnDom s fn = some c then getDom s c else none) with
    | none => mgrFail s d 1
    | some dom =>
      let i := freeFrom (fun i => (getCtx s i).isSome) s.xl.ctxs.length dom.cfg.ctxBase
      if i ≥ dom.cfg.ctxBase + dom.cfg.ctxCount || i ≥ 4096 then mgrFail s d 4
      else
        let x : Ctx := { dom := c, atsFn := fn, pasid := dfld d 20 0 20, pasidEn := dbit d 22 4, timeoutMs := max 1 (dfld d 24 0 16), segs := [] }
        mgrOk (modXl s fun t => { t with ctxs := tput t.ctxs i x }) d i

/-- A region, a window or an engine job names the context. -/
def ctxNamed (s : State) (c : Nat) : Bool :=
  (s.regions.any fun r => r.2.ctx = c) || (s.near.any fun p => p.windows.any fun w => w.2.len ≠ 0 && w.2.ctx = c) ||
  (s.zoo.jobs.any fun j => j.2.kind = 5 && ((j.2.op ≠ 2 && j.2.srcCtx = c) || j.2.dstCtx = c))

/-- CTX_DESTROY (Table 15.1). -/
def ctxDestroy (s : State) (d : Line) : State :=
  let c := dfld d 16 0 12
  match getCtx s c with
  | none => mgrFail s d 1
  | some x => if !x.segs.isEmpty || ctxNamed s c then mgrFail s d 2 else mgrOk (modXl s fun t => { t with ctxs := tdel t.ctxs c }) d

/-! ## SEG_SET (R404, R405, R408) -/

/-- The entry a SEG_SET describes; a HBM segment is pinned, its POLICY and UIO are ignored (R405). -/
def segOf (d : Line) : Seg :=
  let t := dfld d 19 0 3
  { target := t, pinned := dbit d 19 3 || t = 1, policy := dbit d 19 4 && t ≠ 1, invAbort := dbit d 19 5, uio := dbit d 19 6 && t = 0
    base := dfld d 24 0 57, len := dfld d 32 0 48, tbase := if t = 0 then dfld d 40 0 64 else if t = 1 then dfld d 40 0 39 else dfld d 40 0 56
    withdrawn := none, log := none }

/-- Check 2 of R404. -/
def segFields (g : Seg) : Bool :=
  g.target ≤ 5 && g.base % 4096 = 0 && g.len % 4096 = 0 && 4096 ≤ g.len && g.base + g.len ≤ 2 ^ 57 && (g.target = 1 || g.tbase % 4096 = 0)

/-- Check 4 of R404. -/
def segTarget (s : State) (dom : Nat) (g : Seg) : Bool :=
  if g.target = 1 then domNamed s dom g.tbase g.len
  else if g.target = 0 then decide (g.tbase + g.len ≤ 2 ^ 64) else decide (g.tbase + g.len ≤ 2 ^ 56)

/-- SEG_SET. -/
def segSet (s : State) (d : Line) (pins : List Pin) : State :=
  let c := dfld d 16 0 12
  let i := dfld d 18 0 4
  let g := segOf d
  match getCtx s c with
  | none => mgrFail s d 1
  | some x =>
    if (x.segs.lookup i).isSome then mgrFail s d 2
    else if !segFields g || (x.segs.any fun e => e.2.base < g.base + g.len && g.base < e.2.base + e.2.len) || !segTarget s x.dom g then
      mgrFail s d 3
    else if g.target = 1 && leaving s x.dom g.tbase g.len then mgrFail s d 2
    else match (if g.pinned then pinRange s x [(i, g, g.base, g.len)] pins else Except.ok s) with
      | .error r => mgrFail s d r
      | .ok s => mgrOk (modCtx s c fun x => { x with segs := tput x.segs i g }) d

/-! ## Withdrawing a segment (R415, R416) -/

/-- A ring lies in the entry. -/
def ringInSeg (s : State) (c i : Nat) : Bool :=
  let r (x : Ring) : Bool := x.seg = some (c, i) || x.shadowSeg = some (c, i)
  let q (x : CqRing) : Bool := x.seg = some (c, i) || x.shadowSeg = some (c, i)
  (s.qps.any fun e => (e.2.sq.map r).getD false || (e.2.rq.map r).getD false) || (s.cqs.any fun e => e.2.any q) ||
  s.fns.any fun e => (e.2.eq.map q).getD false

/-- [va, va + len) of a context meets the entry. -/
def Seg.meets (g : Seg) (va len : Nat) : Bool := va < g.base + g.len && g.base < va + len

/-- A range named by a key meets entry `g` of context `c`. -/
def keyMeets (s : State) (c : Nat) (g : Seg) (key va len : Nat) : Bool :=
  (s.regions.lookup (key / 256)).map (·.ctx) = some c && len ≠ 0 && g.meets va len

/-- A transfer that holds an entry (R406). -/
inductive Holder where
  /-- a descriptor's local buffer: QP and descriptor -/
  | op (qp idx : Nat)
  /-- an admitted segment, or a READ request at its responder: QP and sequence -/
  | seg (qp seq : Nat)
  | job (id : Nat)
  | coll (comm idx : Nat)
deriving DecidableEq, Repr

/-- An admitted descriptor has bytes of its local buffer still to read, or a READ has them to be filled. -/
def SendOp.reads (o : SendOp) : Bool :=
  match dOpcode o.desc, o.phase with
  | 4, .sending => true
  | 4, .waiting => true
  | 1, p | 2, p | 3, p | 5, p => match p with
    | .queued => true
    | .reading => true
    | .sending => !o.whole && (if o.onFlow then decide (o.ready < o.total) else decide (o.base + o.staged.length < o.total))
    | _ => false
  | _, _ => false

/-- Transfers that hold an entry: local buffers not yet read whole, or filled by a READ; segments being placed; READ requests not
yet read whole; MOV jobs; collectives. -/
def segHolders (s : State) (c : Nat) (g : Seg) : List Holder :=
  let meet := keyMeets s c g
  let ops := s.qps.flatMap fun e => (e.2.ops.filter fun o =>
    o.reads && meet (dLocalKey o.desc) (dLocalAddr o.desc) (dLength o.desc)).map fun o => Holder.op e.1 o.idx
  let segs := s.qps.flatMap fun e => (e.2.rx.filter fun r => !r.delivered &&
    ((r.recvs.any fun v => meet (dLocalKey v.desc) (dLocalAddr v.desc) (dLength v.desc)) ||
     ([2, 3].contains (hOpcode r.head) && meet (hRemoteKey r.head) (hRemoteAddr r.head) (hSegLen r.head)) ||
     (hOpcode r.head = 4 && meet (hRemoteKey r.head) (hRemoteAddr r.head) (hMsgLen r.head)))).map fun r => Holder.seg e.1 r.seq
  let reads := s.qps.flatMap fun e => (e.2.reads.filter fun r => (!r.started || r.toRead ≠ 0 || (r.cut + 1) * segBytes < r.len) && meet r.key r.addr r.len).map fun r =>
    Holder.seg e.1 r.seq
  let jobs := (s.zoo.jobs.filter fun j => j.2.kind = 5 &&
    ((j.2.op ≠ 2 && j.2.srcCtx = c && j.2.src.any fun e => g.meets e.1 e.2) || (j.2.dstCtx = c && j.2.dst.any fun e => g.meets e.1 e.2))).map
    fun j => Holder.job j.1
  let colls := s.col.comms.flatMap fun e => (e.2.run.filter fun r =>
    meet (dLocalKey r.desc) (dLocalAddr r.desc) (srcLen e.2 r (myRank s e.2)) || meet (dRemoteKey r.desc) (dRemoteAddr r.desc) (dstLen e.2 r)).map
    fun r => Holder.coll e.1 r.idx
  ops ++ segs ++ reads ++ jobs ++ colls

/-- End a holder at once (R415, INV_POLICY 1). -/
def abortHolder (s : State) : Holder → State
  | .op n idx => if ((getQp s n).map fun q => q.ops.any fun o => o.idx = idx).getD false then failOp s n idx 0xC else s
  | .seg n seq =>
    if ((getQp s n).map fun q => decide (q.state ≠ .error)).getD false then enterError (sendNak s n 6 seq) n none 0xC 3 true else s
  | .job id => killJob s id 0xC
  | .coll c idx => collFail s c idx 0xC

/-- SEG_INVALIDATE as accepted. -/
def segInvalidate (s : State) (d : Line) : State :=
  let c := dfld d 16 0 12
  let i := dfld d 18 0 4
  match (getCtx s c).bind fun x => x.segs.lookup i with
  | none => mgrFail s d 1
  | some g =>
    if g.withdrawn.isSome || ringInSeg s c i then mgrFail s d 2
    else
      let held := segHolders s c g
      let s := modCtx s c fun x => { x with segs := tupd x.segs i fun g => { g with withdrawn := some d } }
      settleAll (if g.invAbort then held.foldl abortHolder s else s)

/-- An unanswered request of a near port lies in the entry's target range. -/
def nearUnanswered (s : State) (g : Seg) : Bool :=
  g.target ≥ 2 && (getNear s (g.target - 2)).tags.any fun r => r.sent && !r.done && r.addr < g.tbase + g.len && g.tbase < r.addr + 64 * r.lines

/-- Nothing holds a withdrawn entry any more: the caches and pins of its range go, the command completes (R416). -/
def segDone (s : State) (c i : Nat) : State :=
  match getCtx s c with
  | none => s
  | some x =>
    match x.segs.lookup i with
    | none => s
    | some g =>
      match g.withdrawn with
      | none => s
      | some d =>
        if !(segHolders s c g).isEmpty || (s.xl.accesses.any fun a => a.ctx = c && a.seg = i) || nearUnanswered s g then s
        else
          let s := if g.target = 0 then modXl s fun t => { t with atc := t.atc.filter fun y => !y.covers x.atsFn x.pasidKey (g.tbase / 4096) (g.len / 4096) } else s
          let s := if g.pinned then unpinRange s x [(i, g, g.base, g.len)] else s
          let s := match g.log.bind (·.harvest) with | some (_, h) => mgrFail s h 1 | none => s
          mgrOk (modCtx s c fun x => { x with segs := tdel x.segs i }) d

/-! ## ATS and PRI (R407 to R409, R417) -/

/-- Translations the cache holds (R407). -/
def atcMax : Nat := 65536

/-- The entry an access goes through is pinned. -/
def accessPinned (s : State) (a : Access) : Bool :=
  (((getCtx s a.ctx).bind fun c => c.segs.lookup a.seg).map (·.pinned)).getD false

/-- Host accesses of a page that wait for its translation. -/
def asking (s : State) (fn pasid page : Nat) : List Access :=
  s.xl.accesses.filter fun a => a.xlatReq && a.place = .host && a.fn = fn && a.pasid.getD 0 = pasid && a.addr / 4096 = page

/-- A Translation Request is answered (R407 to R411): the result is cached, a lost pin is restored, faults being translated
again are resolved, and accesses go on or open a fault. -/
def atsResult (s : State) (fn pasid page : Nat) (r w : Bool) (target : Nat) : State :=
  if s.xl.stale.contains (fn, pasid, page) then modXl s fun x => { x with stale := x.stale.erase (fn, pasid, page) }
  else
    let s := { s with fns := tmap s.fns fun _ f => { f with awaits := f.awaits.erase (.xlat fn pasid page) } }
    let waits := asking s fn pasid page
    let due := s.xl.faults.filter fun f => !f.resolved && f.pri = 2 && f.key = .host fn pasid page
    let pin := s.xl.pinAsk.find? fun x => x.fn = fn && x.pasid = pasid && x.page = page
    if waits.isEmpty && due.isEmpty && pin.isNone then s
    else
      let s := match pin with
        | some x =>
          if r || w then
            let back := { x with target := target, readOk := r, writeOk := w }
            modXl s fun t => { t with pinAsk := t.pinAsk.erase x, pinned := t.pinned ++ [back] }
          else s
        | none =>
          if (waits.any fun a => if a.write then w else r) || (due.any fun f => if f.write then w else r) then
            let y : Xlat := ⟨fn, pasid, page, 1, target, r, w, 0⟩
            modXl s fun t => { t with atc := (y :: t.atc.filter fun z => !z.covers fn pasid page 1).take atcMax }
          else s
      let lost := s.xl.faults.filter fun f => !f.resolved && pin.isSome && (r || w) && f.cause = 4 &&
        (match f.key with
         | .host a b p => a = fn && b = pasid && (match pin with | some x => x.page ≤ p && p < x.page + x.pages | none => false)
         | _ => false)
      let s := (due ++ lost).foldl (fun s f => resolveFault s f.id) s
      settleAll (waits.foldl (fun s a =>
        if (if a.write then w else r) then tryAccess s a.id
        else match s.xl.accesses.find? fun b => b.id = a.id with
          | some b => meetFault s b (if accessPinned s b then 4 else 1) 12
          | none => s) s)

/-- Invalidations whose covered requests have all completed are answered (R417). -/
def atsPump (s : State) : State :=
  let busy (i : Nat × Nat × Nat × List Nat) : Bool := i.2.2.2.any fun id => s.xl.accesses.any fun a => a.id = id && a.issued && a.result.isNone
  let done := s.xl.atsInv.filter fun i => !busy i
  done.foldl (fun s i => emit s (.atsInvalidated i.1 i.2.1 i.2.2.1)) (modXl s fun x => { x with atsInv := x.atsInv.filter busy })

/-- An ATS Invalidation Request (R409, R417). -/
def atsInvalidate (s : State) (fn pasid page count : Nat) : State :=
  let s := bump s (cxlCnt 10) 1
  let mine (a : Access) : Bool := a.place = .host && a.fn = fn && a.pasid.getD 0 = pasid && page ≤ a.addr / 4096 && a.addr / 4096 < page + count
  let users := (s.xl.accesses.filter fun a => mine a && a.issued && a.result.isNone).map (·.id)
  let again := (s.xl.accesses.filter fun a => mine a && a.xlatReq)
  let hit := s.xl.pinned.filter fun x => x.covers fn pasid page count
  let reask := s.xl.faults.filter fun f => !f.resolved && f.pri = 2 &&
    (match f.key with | .host a b p => a = fn && b = pasid && page ≤ p && p < page + count | _ => false)
  let s := modXl s fun x => { x with
    atc := x.atc.filter fun y => !y.covers fn pasid page count
    pinned := x.pinned.filter fun y => !y.covers fn pasid page count
    pinAsk := x.pinAsk ++ hit
    atsInv := x.atsInv ++ [(fn, pasid, page, users)]
    stale := x.stale ++ again.map (fun a => (fn, pasid, a.addr / 4096)) ++ reask.map fun f => match f.key with | .host _ _ p => (fn, pasid, p) | _ => (fn, pasid, 0) }
  let ask (s : State) (p : Nat) (write : Bool) : State := bump (emit s (.atsRequest fn pasid p write)) (cxlCnt 8) 1
  let s := again.foldl (fun s a => ask s (a.addr / 4096) a.write) s
  let s := reask.foldl (fun s f => match f.key with | .host _ _ p => ask s p f.write | _ => s) s
  let s := hit.foldl (fun s x =>
    ask (codexHand s 0x62 (fnSource fn) (carrelField ((fnDom s fn).getD 64)) (codexCause 4 (x.page % 2 ^ 32))) x.page true) s
  atsPump s

/-- A Page Request Group response (Table 15.4, R411): Success translates the page again, the others end every waiter. -/
def prgAnswer (s : State) (id : Nat) (code : PrgCode) : State :=
  match s.xl.faults.find? fun f => f.id = id && !f.resolved && f.pri = 1 with
  | none => s
  | some f =>
    match f.key, code with
    | .host fn pasid page, .success =>
      let s := modXl s fun x => { x with faults := x.faults.map fun g => if g.id = id then { g with pri := 2 } else g }
      bump (emit s (.atsRequest fn pasid page f.write)) (cxlCnt 8) 1
    | .host _ _ _, .invalidRequest => settleAll (abortFault s id)
    | .host fn _ _, .responseFailure => settleAll (abortFault (modFn s fn fun x => { x with priStopped := true }) id)
    | .near _ _ _, _ => s

/-! ## Faults (R411 to R413) -/

/-- FAULT_RESUME. -/
def faultResume (s : State) (d : Line) : State :=
  let id := dfld d 16 0 32
  if !(s.xl.faults.any fun f => f.id = id && !f.resolved) then mgrFail s d 1
  else
    let s := if dbit d 20 0 then
        let s := abortFault s id
        modXl s fun x => { x with faults := x.faults.map fun f => if f.id = id then { f with resolved := true } else f }
      else resolveFault s id
    settleAll (mgrOk s d)

/-- A waiter's window closes: it ends by Table 15.6. -/
def waiterTimeout (s : State) (fault id : Nat) : State :=
  match s.xl.accesses.find? fun a => a.id = id && a.result.isNone && (match a.fault with | some (f, _) => f = fault | none => false) with
  | none => s
  | some _ => settleAll (closeEmptyFaults (endAccess s id 3))

/-- Close of the own window of an access that waits on a fault (R414). -/
def waiterAt (s : State) (fault id : Nat) : Option Gtc :=
  (s.xl.accesses.find? fun a => a.id = id && a.result.isNone && (match a.fault with | some (f, _) => f = fault | none => false)).bind
    fun a => a.fault.map fun f => f.2 + 16000000 * ((getCtx s a.ctx).map (·.timeoutMs)).getD 1

/-- The fault log takes records: entries and offset, none while disabled (Table 15.8). -/
def faultLog (s : State) : Option (Nat × Nat) :=
  let n := fld s.xl.logCfg 0 5
  if bitAt s.xl.logCfg 5 && 6 ≤ n && n ≤ 16 then some (n, fld s.xl.logBase 6 33 * 64) else none

/-- TARGET page address and PAGE_LOG2 of a key. -/
def FaultKey.page : FaultKey → Nat × Nat
  | .host _ _ p => (4096 * p, 12)
  | .near _ a l => (a, l)

/-- The record of a fault (Table 15.5). -/
def faultRecord (f : FaultRec) (phase : Nat) : Line :=
  layout 512 [(0, 64, f.opened), (64, 12, f.source), (76, 1, phase), (77, 1, b2n (f.resolved && !f.left)), (80, 8, f.cause),
    (88, 8, carrelField f.carrel), (96, 32, f.id), (128, 57, f.va), (192, 64, f.key.page.1), (256, 12, f.ctx), (272, 16, f.fn),
    (288, 3, f.target), (291, 1, b2n f.write), (292, 1, b2n f.pinned), (293, 1, b2n f.policy), (296, 8, f.key.page.2),
    (304, 16, min f.waiters 65535)]

/-- Faults opened before this tick are recorded and reported (R412). -/
def faultTick (s : State) : State :=
  let due := s.xl.faults.filter fun f => !f.recorded
  let s := modXl s fun x => { x with faults := (x.faults.filter fun f => !(f.resolved && !f.recorded)).map fun f => { f with recorded := true } }
  due.foldl (fun s f =>
    let s := match faultLog s with
      | some (n, base) =>
        modXl (wrAlloc s 64 (base + 64 * (f.id % 2 ^ n)) (bytesOf (faultRecord f (phaseOf f.id n)))) fun x => { x with logWrites := (x.logWrites + 1) % 2 ^ 32 }
      | none => s
    postEvent s 0 0x05 f.source (carrelField f.carrel) f.id 0) s

end Sys2Proof.Machine
end

