-- ==== Sys2Proof/Machine/HostLink.lean ====
section
/-! DEFINITION. HostLink.lean: the CXL link: loss and host reset, completions of device reads, CXL.mem, bias and
CXL.cache, configuration space and IDE (R378 to R401, R94). -/

namespace Sys2Proof.Machine

open Host (Outcome)

/-- Source number of the host link. -/
def cxlSource : Source := 0x30

/-! ## Restarting what the link held -/

/-- Pending vectors of a function that are enabled and unmasked are sent (R397). -/
def msixPump (s : State) (fn : Nat) : State :=
  if s.glb.fatal then s else (getFn s fn).msix.foldl (fun s v =>
    if v.2.pend then raiseMsix (modFn s fn fun f => { f with msix := tupd f.msix v.1 fun m => { m with pend := false } }) fn v.1 else s) s

/-- Rings of a function in host memory are fetched, and its pending vectors sent. -/
def fnKick (s : State) (fn : Nat) : State :=
  let onHost (r : Option Ring) : Bool := match r with | some r => r.place = .host | none => false
  let s := msixPump s fn
  let s := if onHost (some (getFn s fn).ctlSq) then startFetch s (.ctlSq fn) else s
  s.qps.foldl (fun s e =>
    if e.2.fn ≠ fn then s else
      let s := if onHost e.2.sq then startFetch s (.sq e.1) else s
      if onHost e.2.rq then startFetch s (.rq e.1) else s) s

/-- `f`, after which functions the link has come to carry go on. -/
def withKick (s : State) (f : State → State) : State :=
  let t := f s
  if s.glb.fatal then t else (0 :: (t.fns.map (·.1)).filter (· ≠ 0)).foldl (fun u n => if fnUp t n && !fnUp s n then fnKick u n else u) t

/-! ## Bias (R386 to R388) -/

/-- The next page of the oldest BIAS_SET starts to change; pages already in its bias are passed over. -/
def biasNext : Nat → State → State
  | 0, s => s
  | fuel + 1, s =>
    match s.cxl.biasJob with
    | [] => s
    | (d, page, left, host) :: rest =>
      match (List.range left).find? fun i => decide (s.cxl.hostBias.contains (page + i) ≠ host) with
      | none => biasNext fuel (mgrOk (modCxl s fun c => { c with biasJob := rest }) d)
      | some i =>
        let p := page + i
        let s := modCxl s fun c => { c with biasJob := (d, p, left - i, host) :: rest }
        if host || !cacheUp s then s
        else (List.range 64).foldl (fun s i =>
          let req := s.cxl.nextReq
          let s := bump (emit s (.cacheReq req (64 * p + i) 2)) (cxlCnt 7) 1
          modCxl s fun c => { c with nextReq := req + 1, cacheReqs := tput c.cacheReqs req ⟨64 * p + i, false, true, none, none⟩ }) s

/-- BIAS_SET (R387). -/
def biasSet (s : State) (d : Line) : State :=
  let first := dfld d 16 0 27
  let n := dfld d 20 0 27
  let host := dbit d 24 0
  if n = 0 || first < 4 * 2 ^ 18 || 288 * 2 ^ 18 < first + n then mgrFail s d 3
  else if host && (s.cxl.lost || !s.cxl.linkUp || s.cxl.hdmBase.isNone) then mgrFail s d 2
  else
    let idle := s.cxl.biasJob.isEmpty
    let s := modCxl s fun c => { c with biasJob := c.biasJob ++ [(d, first, n, host)] }
    if idle then biasNext 1 s else s

/-! ## CXL.mem and peer access (R384, R385, R391, R392) -/

/-- HDM_ACCESS allows the granule of an HDM offset; granules 0 to 3 never (R385). -/
def hdmAllowed (s : State) (addr : Nat) : Bool :=
  let g := addr / granuleSize
  4 ≤ g && g < 288 && bitAt (lget s.cxl.hdmAccess (g / 64) (rwt 0)).inForce (g % 64)

/-- Its granule is not under zero fill (R385). -/
def hdmFilled (s : State) (addr : Nat) : Bool := s.glb.filled.contains (addr / granuleSize)

def denyMem (s : State) : State :=
  bump (modCxl (mark s 0x190040 1) fun c => { c with deniedSeen := true, denied := sat (2 ^ 32 - 1) (c.denied + 1) }) (cxlCnt 6) 1

/-- A host write of some bytes of a line, as a run where they begin it (R71). -/
def notePlaced (s : State) (bytes : List Nat) (a : Nat) : State :=
  match bytes with
  | [] => s
  | i :: _ => modCyc s fun c => { c with placed := c.placed ++
      [if (List.range 8).all bytes.contains then (a, 8) else (a + i, 1)] }

/-- Bytes of a line a mask selects; ALLOC_DIRTY sees the write (R442). -/
def maskWrite (s : State) (a : Nat) (d : Line) (mask : BitVec 64) : State :=
  let s := notePlaced (logAlloc s a 64) ((List.range 64).filter fun i => bitAt mask i) a
  if mask = -1 then wrPhys s a (bytesOf d)
  else (List.range 64).foldl (fun s i => if bitAt mask i then wrByte s (a + i) (d.extractLsb' (8 * i) 8) else s)
    (bump s (devCnt 1) 1)

/-- A host or peer access to a line is served: read, or written with its mask and poison. HDM_ACCESS is that of its arrival
(R400), the zero fill that of its service (Table 14.10). -/
def serveMem (s : State) (addr : Nat) (w : Option (Line × BitVec 64 × Bool)) (allowed : Bool) : State :=
  let a := addr / 64 * 64
  match w with
  | none =>
    if !allowed || !hdmFilled s a then emit (denyMem s) (.memData a 0 false)
    else
      let bad := lineBad s (a / 64)
      emit (bwBytes (hbmLines (bump (bump s (cxlCnt 4) 1) (devCnt 0) 1) cxlSource none 1) 28 true 64) (.memData a (ofBytes 512 (readPhys s a 64)) bad)
  | some (d, mask, poison) =>
    if !allowed || !hdmFilled s a then denyMem s
    else
      let s := bwBytes (hbmLines (bump s (cxlCnt 5) 1) cxlSource none 1) 28 false 64
      if poison then bump (markPoison (notePlaced s [1] a) (a / 64)) (cxlCnt 16) 1 else maskWrite s a d mask

/-- An access arrives: it is discarded, waits for its page's bias change, or is served (R384, R388, R390). -/
def memArrive (s : State) (addr : Nat) (w : Option (Line × BitVec 64 × Bool)) : State :=
  if !s.cxl.linkUp || s.cxl.lost || s.cxl.hdmBase.isNone || !s.cxl.memEnable then s
  else if !linkAlive s then denyMem s
  else if biasChanging s addr then modCxl s fun c => { c with biasWait := c.biasWait ++ [.mem addr w (hdmAllowed s addr)] }
  else shadowPump (serveMem s addr w (hdmAllowed s addr))

/-- The accesses a page's change held, in arrival order (R388). -/
def serveHeld (s : State) (hs : List BiasHeld) : State :=
  hs.foldl (fun s h => match h with
    | .mem a w ok => shadowPump (serveMem s a w ok)
    | .dev id => tryAccess s id) s

/-- The bias bit of a page is set once its flushes are answered (R387). -/
def biasChange (s : State) (page : Nat) : State :=
  match s.cxl.biasJob with
  | [] => s
  | (d, p, left, host) :: rest =>
    if p ≠ page || (s.cxl.cacheReqs.any fun r => r.2.flush && r.2.line / 64 = p) then s
    else
      let held := s.cxl.biasWait
      let s := modCxl s fun c => { c with
        biasWait := [], biasJob := (d, p + 1, left - 1, host) :: rest
        hostBias := if host then p :: c.hostBias else c.hostBias.filter (· ≠ p) }
      settleAll (serveHeld (biasNext (rest.length + 1) s) held)

/-- A CXL.cache request is answered: the host's data stands in for HBM where it came (R386). -/
def cacheResponse (s : State) (req : Nat) (data : Option Line) : State :=
  match s.cxl.cacheReqs.lookup req with
  | none => s
  | some r =>
    let s := modCxl s fun c => { c with cacheReqs := tdel c.cacheReqs req }
    let s := match data with
      | some d => if r.write && !r.flush then wrPhys s (64 * r.line) (bytesOf d) else s
      | none => s
    let s := match r.job, data with
      | some j, some d => if r.write then s else modJob s j fun j => { j with hostLines := tput j.hostLines r.line d }
      | _, _ => s
    match r.access.bind fun id => s.xl.accesses.find? fun a => a.id = id with
    | none => s
    | some a =>
      let a' : Access := { a with
        left := a.left - 1, hostLines := match data with | some d => if r.write then a.hostLines else tput a.hostLines r.line d | none => a.hostLines }
      let s := modAccess s a.id fun _ => a'
      if a'.left = 0 then settleAll (finishHbm s a') else s

/-! ## Link loss and host reset (R94, R394, R396) -/

/-- Rings in host memory stop or go to the journal (R94). -/
def stopHostRings (s : State) : State :=
  let r (x : Ring) : Ring := if x.place = .host then { x with linkStop := true } else x
  let q (x : CqRing) : CqRing := if x.place = .host then { x with journalled := true } else x
  { s with
    qps := tmap s.qps fun _ p => { p with sq := p.sq.map r, rq := p.rq.map r }
    cqs := tmap s.cqs fun _ l => l.map q
    fns := tmap s.fns fun _ f => { f with ctlSq := r f.ctlSq, ctlCq := q f.ctlCq, eq := f.eq.map q } }

/-- Accesses the loss ends: host requests in flight end HOST_LINK_LOST, CXL.cache requests are resolved from HBM (R94,
R394). -/
def endHostAccesses (s : State) : State :=
  let s := modCxl s fun c => { c with reads := [], cacheReqs := [] }
  s.xl.accesses.foldl (fun s a =>
    if a.result.isSome then s
    else match a.place with
      | .host =>
        (match a.who with
         | .fetch _ => dropAccess s a.id
         | .record _ _ => endAccess s a.id 6
         | _ => if a.issued || a.xlatReq then endAccess s a.id 6 else s)
      | .hbm => if a.issued then finishHbm s a else s
      | .near _ => s) s

/-- Link loss is declared, once until the link is up again (R394): causes in the order of its list. -/
def linkLoss (s : State) (cause : Nat) : State :=
  if !s.cxl.linkUp || s.cxl.lost then s else
    let barWas := barUp s
    let s := modCxl (mark s 0x180008 2) fun c => { c with lost := true, lossSeen := true, losses := sat 255 (c.losses + 1) }
    let s := modCyc s fun c => { c with unstage := true }
    if s.glb.fatal then s else
    let s := stopHostRings (modCyc s fun c => { c with barWas := c.barWas || barWas })
    let jobs := s.cxl.biasJob
    let held := s.cxl.biasWait.filter fun h => match h with | .dev _ => true | .mem _ _ _ => false
    let s := modCxl s fun c => { c with hostBias := [], biasJob := [], biasWait := [] }
    let s := jobs.foldl (fun s j => if j.2.2.2 then mgrFail s j.1 2 else mgrOk s j.1) s
    let s := modXl (endHostAccesses (serveHeld s held)) fun x => { x with
      atc := [], pinAsk := [], stale := [], atsInv := [], faults := x.faults.map fun f => { f with pri := 0 } }
    let s := journalHeader { s with journal := { s.journal with losses := (s.journal.losses + 1) % 2 ^ 32, lossStamp := s.now } }
    let s := bump (codexHand s 0x52 cxlSource 0xFF (codexCause cause 0)) (cxlCnt 13) 1
    settleAll s

/-- Reset of the host interface, scope 0 (Table 14.5). -/
def hostReset (s : State) : State :=
  let s := modCxl s fun c => { c with
    vfEnable := false, numVfs := 0, memSpace := false, busMaster := false, cacheEnable := false, memEnable := false, hdmBase := none
    ideSecure := false }
  let s := modXl s fun x => { x with atc := [], pinned := [] }
  { s with
    fns := tmap s.fns fun _ f => { f with msix := [], msixEnable := false, msixMask := false, ats := false, pri := false, priStopped := false }
    sec := { s.sec with
      spdmDoe := (false, false, false), sessions := s.sec.sessions.filter fun x => x.bus ≠ .doe
      spdmQ := s.sec.spdmQ.filter fun r => r.bus ≠ .doe } }

/-- The data link goes down. -/
def linkDown (s : State) : State :=
  modCxl s fun c => { c with linkUp := false, lost := c.lost, width := 0, speed := 0, flit256 := false, ideSecure := false }

/-- The data link comes up (R397, Table 14.7). -/
def linkUpWith (s : State) (width speed : Nat) (flit256 : Bool) : State :=
  withKick s fun s => modCxl s fun c => { c with
    linkUp := true, lost := false, ideRequired := bitAt c.cfg 1, width := width, speed := speed, flit256 := flit256 }

/-! ## Completions of device reads (R389, R391, R395) -/

/-- A device request has been answered: a read with its data, a write with its completion (R86; log 110). -/
def readAnswer (s : State) (req : Nat) (data : List Byte) (status : HostStatus) (poison : Bool) : State :=
  match s.cxl.reads.lookup req with
  | none => s
  | some r =>
    let s := modCxl s fun c => { c with reads := tdel c.reads req }
    let s := if poison then bump s (cxlCnt 16) 1 else s
    let s := match status with
      | .success => if r.write then endAccess s r.access 0
        else endAccess (bwBytes s 28 false r.len) r.access 0 (padTo r.len data) poison
      | _ => endAccess s r.access 0xC
    settleAll (atsPump s)

/-- A device read timed out: its operation completes HOST_LINK_LOST. -/
def readTimeout (s : State) (req : Nat) : State :=
  match s.cxl.reads.lookup req with
  | none => s
  | some r =>
    if r.write then s else
    let s := bump (modCxl s fun c => { c with reads := tdel c.reads req }) (cxlCnt 17) 1
    settleAll (atsPump (endAccess s r.access 6))

/-! ## Configuration space (R397) -/

/-- A configuration write. -/
def configSet (s : State) (op : ConfigOp) : State :=
  withKick s fun s =>
    match op with
    | .vfEnable on => modCxl s fun c => { c with vfEnable := on }
    | .numVfs n => if n ≤ 512 then modCxl s fun c => { c with numVfs := n } else s
    | .memorySpace on => modCxl s fun c => { c with memSpace := on }
    | .busMaster on => modCxl s fun c => { c with busMaster := on }
    | .msixEnable fn on => msixPump (modFn s fn fun f => { f with msixEnable := on }) fn
    | .msixFunctionMask fn on => msixPump (modFn s fn fun f => { f with msixMask := on }) fn
    | .msixVectorMask fn v on =>
      if v < (if fn = 0 then 2048 else 64) then
        msixPump (modFn s fn fun f => { f with msix := tmod f.msix v Msix.reset fun m => { m with masked := on } }) fn
      else s
    | .ats fn on =>
      let s := modFn s fn fun f => { f with ats := on }
      if on then s else modXl s fun x => { x with
        atc := x.atc.filter fun y => y.fn ≠ fn, pinned := x.pinned.filter fun y => y.fn ≠ fn, pinAsk := x.pinAsk.filter fun y => y.fn ≠ fn }
    | .pri fn on => modFn s fn fun f => { f with pri := on, priStopped := f.priStopped && !on }
    | .cacheEnable on => modCxl s fun c => { c with cacheEnable := on }
    | .memEnable on => modCxl s fun c => { c with memEnable := on }

/-- The operands of a configuration write name a function. -/
def configFn : ConfigOp → Bool
  | .msixEnable fn _ => wfFn fn
  | .msixFunctionMask fn _ => wfFn fn
  | .msixVectorMask fn _ _ => wfFn fn
  | .ats fn _ => wfFn fn
  | .pri fn _ => wfFn fn
  | _ => true

end Sys2Proof.Machine
end

