-- ==== Sys2Proof/Machine/Ethernet.lean ====
section
/-! DEFINITION. Ethernet.lean: the Ethernet MACs: receive buffer, classification, raw frames, Fyton/UDP datagrams, PAUSE and
PFC, and the frames the MACs start (R353 to R377, R452). -/

namespace Sys2Proof.Machine

open Host (Outcome)

/-! ## MACs and counters -/

/-- MAC_CFG of the MAC of index k. -/
def macCfgOf (s : State) (k : Nat) : W64 := (lget s.macCfg (k / 2) (rwt 0)).inForce
/-- Mode of the near port of index k (R323). -/
def macMode (s : State) (k : Nat) : Nat := (getNear s (k / 4)).mode
/-- Index k is a MAC or sub-MAC of a port in an Ethernet mode (R353). -/
def macLive (s : State) (k : Nat) : Bool := macThere s (k / 2) (k % 2)
/-- Source number of index k: its MAC's (R353, Table 2.3). -/
def macSource (k : Nat) : Source := 0x20 + k / 2
/-- PAUSE_MODE, 3 taken as 0 (Table 13.7). -/
def pauseMode (s : State) (k : Nat) : Nat := let m := fld (macCfgOf s k) 14 2; if m = 3 then 0 else m

/-- Counter `i` of index k gains `n`; the compatibility counter of its MAC at the end of the cycle. -/
def macBump (s : State) (k i n : Nat) : State :=
  let s := bump s (macCnt k i) n
  if i ≤ 10 then modCyc s fun c => { c with compat := tmod c.compat (11 * (k / 2) + i) 0 (· + n) } else s

/-- Events of the cycle enter the compatibility counters at its end: after a read in it has cleared them (R376). -/
def compatCycle (s : State) : State :=
  { modCyc s fun c => { c with compat := [] } with
    compat := s.cyc.compat.foldl (fun t e => tmod t e.1 0 fun v => min (2 ^ 48 - 1) (v + e.2)) s.compat }

/-- A frame of `len` bytes has been transmitted, flow control included (Tables 13.10, 18.3). -/
def countTx (s : State) (k len : Nat) : State := bwBytes (macBump (macBump s k 8 1) k 9 len) (12 + k) true len

/-! ## Flow control sent (R369) -/

/-- Priority of a received frame (R357). -/
def framePrio (f : Frame) : Nat :=
  if f.tagged then f.pcp % 8 else
    match f.body with
    | .udp _ _ dscp _ _ _ _ _ _ _ _ _ _ _ => dscp / 8 % 8
    | .other ip dscp => if ip then dscp / 8 % 8 else 0
    | _ => 0

/-- Bytes of a receive buffer (R355). -/
def bufferSize (s : State) (k : Nat) : Nat := if macMode s k = 1 then 4 * 2 ^ 20 else 2 * 2 ^ 20

/-- Bytes held, of every priority (none) or of one. -/
def heldBytes (m : Mac) (p : Option Nat) : Nat :=
  m.buffer.foldl (fun n h => match p with
    | none => n + h.frame.len
    | some p => if framePrio h.frame = p then n + h.frame.len else n) 0

/-- Thresholds in bytes with their clamps: XOFF and XON (Table 13.8). -/
def xoffBytes (s : State) (k : Nat) : Nat := min (fld (getMac s k).pfc.inForce 0 12 * 1024) (bufferSize s k)
def xonBytes (s : State) (k : Nat) : Nat := min (fld (getMac s k).pfc.inForce 12 12 * 1024) (xoffBytes s k)
/-- QUANTA sent, 0 taken as 1. -/
def sendQuanta (s : State) (k : Nat) : Nat := max 1 (fld (getMac s k).pfc.inForce 32 16)

/-- GTC units of `q` quanta of 512 bit times (R367). -/
def quantaUnits (s : State) (k q : Nat) : Nat := if macMode s k = 1 then cdiv (q * 512) 100 else cdiv (q * 1024) 100

/-- Waiting flow-control frames go out while the link is up and no frame is in transmission. -/
def sendPauses (s : State) (k : Nat) : State :=
  let m := getMac s k
  if m.tx.isSome || !m.linkUp then s else
    m.ctlq.foldl (fun s e => countTx (macBump (emit s (.pauseOut k e.1 e.2)) k 10 1) k 64) (modMac s k fun m => { m with ctlq := [] })

/-- The priorities flow control acts for, as (key, priority of the frame, held bytes): one key in mode 1. -/
def flowKeys (s : State) (k : Nat) : List (Nat × Option Nat × Nat) :=
  let m := getMac s k
  if pauseMode s k = 1 then [(0, none, heldBytes m none)]
  else (List.range 8).filterMap fun p =>
    if bitAt m.pfc.inForce (24 + p) then some (p, some p, heldBytes m (some p)) else none

/-- Generation of flow control after the buffer has filled or drained (R369). -/
def flowGen (s : State) (k : Nat) : State :=
  if pauseMode s k = 0 || !bitAt (getMac s k).pfc.inForce 48 then modMac s k fun m => { m with xoff := [] } else
    sendPauses ((flowKeys s k).foldl (fun s e =>
      let on := ((getMac s k).xoff.lookup e.1).isSome
      if !on && e.2.2 ≥ xoffBytes s k then
        modMac s k fun m => { m with xoff := tput m.xoff e.1 s.now, ctlq := m.ctlq ++ [(e.2.1, sendQuanta s k)] }
      else if on && e.2.2 < xonBytes s k then
        modMac s k fun m => { m with xoff := tdel m.xoff e.1, ctlq := m.ctlq ++ [(e.2.1, 0)] }
      else s) s) k

/-- When the XOFF of a priority is due again: after half the quanta it announced (R369). -/
def xoffAt (s : State) (k p : Nat) : Option Gtc :=
  ((getMac s k).xoff.lookup p).map fun last => last + cdiv (quantaUnits s k (sendQuanta s k)) 2

/-- Half of the QUANTA time after the last XOFF of a priority: it is sent again (R369). -/
def xoffAgain (s : State) (k p : Nat) : State :=
  match (getMac s k).xoff.lookup p with
  | none => s
  | some _ =>
      match (flowKeys s k).find? fun e => e.1 = p with
      | some e =>
        if e.2.2 ≥ xonBytes s k then
          sendPauses (modMac s k fun m => { m with
            xoff := tput m.xoff p s.now, ctlq := m.ctlq ++ [(e.2.1, sendQuanta s k)] }) k
        else s
      | none => s

/-! ## Flow control received (R367, R368, R370) -/

/-- A pause of some priorities begins, restarts or ends. -/
def pausePrios (s : State) (k : Nat) (es : List (Nat × Nat)) : State :=
  modMac s k fun m => { m with pauses := es.foldl (fun t e =>
    if e.2 = 0 then tdel t e.1
    else tput t e.1 ⟨s.now + quantaUnits s k e.2, ((t.lookup e.1).map (·.began)).getD s.now⟩) m.pauses }

/-- The hold-off is over (R370). -/
def pauseHonoured (s : State) (k : Nat) : Bool :=
  match (getMac s k).holdoff with | some g => decide (g ≤ s.now) | none => true

/-- A received PAUSE: counted, and in mode 1 acted on for all eight priorities (R367, R368). -/
def pauseIn (s : State) (k quanta : Nat) : State :=
  let s := macBump s k 7 1
  if pauseMode s k = 1 && pauseHonoured s k then pausePrios s k ((List.range 8).map fun p => (p, quanta)) else s

/-- A received PFC frame: counted, and in mode 2 acted on for each enabled priority (R367, R368, Table 13.8). -/
def pfcIn (s : State) (k : Nat) (enable : BitVec 8) (quanta : List Nat) : State :=
  let s := macBump s k 7 1
  if pauseMode s k = 2 && pauseHonoured s k then
    pausePrios s k ((List.range 8).filterMap fun p =>
      if bitAt enable p && bitAt (getMac s k).pfc.inForce (24 + p) then some (p, quanta.getD p 0) else none)
  else s

/-- The pause timer of a priority closes; in mode 1 one timer holds all eight (R368). -/
def pauseClosed (s : State) (k p : Nat) : State :=
  match (getMac s k).pauses.lookup p with
  | none => s
  | some x =>
    modMac s k fun m => { m with
      pauses := if pauseMode s k = 1 then m.pauses.filter fun e => e.2.till ≠ x.till else tdel m.pauses p }

/-- Close of the watchdog of a paused priority, one for the whole MAC in mode 1; WD_MS 0 disables it (R370). -/
def watchdogAt (s : State) (k p : Nat) : Option Gtc :=
  let wd := fld (macCfgOf s k) 40 8
  ((getMac s k).pauses.lookup p).bind fun x =>
    if wd = 0 || (pauseMode s k = 1 && p ≠ 0) || x.till < x.began + wd * 16000000 then none
    else some (x.began + wd * 16000000)

/-- The watchdog of a priority closes while it is paused: every priority resumes and the hold-off opens (R370). -/
def watchdogClosed (s : State) (k p : Nat) : State :=
  match (getMac s k).pauses.lookup p with
  | none => s
  | some x =>
      let s := modMac (mark s (0x170180 + 8 * k) 6) k fun m => { m with
        pauses := [], holdoff := some (s.now + max 1 (fld (macCfgOf s k) 48 8) * 160000000), brokenSeen := true }
      eventAndCodex s 0x0A 0x50 (macSource k) (k + 16 * p) (evData [(20, 64, x.began), (28, 8, pauseMode s k)])

/-! ## Receive (R355 to R358, R364) -/

/-- A frame is dropped under a counter, with DROP_SEEN. -/
def dropFrame (s : State) (k i : Nat) : State := 
  modMac (mark (macBump s k i 1) (0x170180 + 8 * k) 7) k fun m => { m with dropSeen := true }

/-- A frame arrives whole: buffered, or dropped for want of space (R355). -/
def frameHeld (s : State) (k : Nat) (f : Frame) : State :=
  if heldBytes (getMac s k) none + f.len > bufferSize s k then dropFrame s k 4
  else flowGen (modMac s k fun m => { m with buffer := m.buffer ++ [⟨f, maxFrame s (k / 2), s.now⟩] }) k

/-- The datagram is discarded whole (R364). -/
def datagramBad (ipv6 sumZero sumOk : Bool) (udpLen version cells : Nat) : Bool :=
  version ≠ 1 || cells * 80 + 4 ≠ udpLen || (if ipv6 then sumZero || !sumOk else !sumZero && !sumOk)

/-- A Fyton/UDP datagram: discarded, or its cells enter the receive path (R364, R365). -/
def datagramIn (s : State) (k : Nat) (f : Frame) (ipv6 : Bool) (ecn sport dport : Nat) (srcIp dstIp : BitVec 128)
    (bad : Bool) (cells : List Cell) : State :=
  let s := macBump s k 11 1
  if bad then macBump s k 12 1
  else
    let s := if ecn = 3 then macBump s k 13 1 else s
    let via := Via.udp ⟨k, f.sa, ipv6, srcIp, dstIp, sport, dport⟩
    cells.foldl (fun s c =>
      let c := if ecn = 3 then { c with hdr := setFld c.hdr 7 1 1 } else c
      let dom := cellDom s c
      let s := modLat s fun l => { l with ejected := l.ejected ++ [(via, c)] }
      let s := match dom with | some d => bumpDom s d 2 1 | none => s
      prog s { code := 0x02, source := macSource k, dom := dom, cls := some 1, seg := none, units := 1, qp := qpOfCell s c }) s

/-- RAW_RECVs that hold a frame for a QP, none where it may not take one (R358, Tables 16.6, 16.7). -/
def rawRecvs (s : State) (n len : Nat) : Option (Qp × List Recv) :=
  (getQp s n).bind fun q =>
    if q.type = 1 && qpLive q && (q.fn = 0 || (getFn s q.fn).state = .enabled) && !(getFn s q.fn).fenced &&
        !((getDom s (qpDom s q)).map (·.suspended)).getD true then
      (takeRecvs 16 q.recvs s.folio len).map fun rs => (q, rs)
    else none

/-- A raw frame for a QP: admitted whole, dropped for want of RAW_RECVs, or dropped by the policer (R358, R455). -/
def rawIn (s : State) (k n : Nat) (f : Frame) : State :=
  match rawRecvs s n (f.len - 4) with
  | none => dropFrame s k 5
  | some (q, rs) =>
    let r := policed s (qpDom s q) (cdiv f.len 80)
    if !r.2 then r.1 else
      let seq := q.rx.foldl (fun m r => max m (r.seq + 1)) 4096
      let seg : RxSeg :=
        { seq := seq, head := layout 512 [(0, 8, 1), (32, 32, f.len - 4), (64, 64, f.stamp)], got := [], recvs := rs,
          stagedCells := [], writes := 0, delivered := false, opening := false, opened := false, paSent := [], lost := false,
          sc := false }
      let s := modQp r.1 n fun q => { q with rx := q.rx ++ [seg], recvs := q.recvs.drop rs.length }
      rawPump 4096 (placeBytes s n seg 0 (padTo (f.len - 4) f.bytes)) n

/-- A filter entry matches a frame that arrived on index k (R360). -/
def Filter.matches_ (e : Filter) (k : Nat) (f : Frame) : Bool :=
  2 * e.mac + e.sub = k && e.da = f.da && (!e.vlanMatch || (f.tagged && f.vid = e.vlan)) &&
    (!e.typeMatch || f.etherType = e.etherType)

/-- Steps 4 and 5 of Table 13.2. -/
def filterIn (s : State) (k : Nat) (f : Frame) : State :=
  match s.filters.find? fun e => e.2.matches_ k f with
  | some e => rawIn s k e.2.qp f
  | none => macBump s k 6 1

/-- A frame that passes step 1 of Table 13.2. -/
def goodFrame (s : State) (k : Nat) (f : Frame) : State :=
  let s := macBump (macBump s k 0 1) k 1 f.len
  if f.etherType = 0x8808 then
    match f.body with
    | .pause q => pauseIn s k q
    | .pfc en qs => pfcIn s k en qs
    | _ => s
  else
    match f.body with
    | .udp ipv6 ipOk _ ecn sport dport srcIp dstIp sumZero sumOk udpLen version n cells =>
      if f.da.toNat = fld (getMac s k).addr 0 48 && (if ipv6 then f.etherType = 0x86DD else f.etherType = 0x0800 && ipOk) &&
          dport = fld (macCfgOf s k) 16 16 then
        datagramIn s k f ipv6 ecn sport dport srcIp dstIp (datagramBad ipv6 sumZero sumOk udpLen version n) cells
      else filterIn s k f
    | _ => filterIn s k f

/-- A frame arrives: PAUSE and PFC act at its end (R368), any other frame is held. -/
def frameIn (s : State) (k : Nat) (f : Frame) : State :=
  let s := bwBytes s (12 + k) false f.len
  let flow : Bool := f.etherType = 0x8808 && (match f.body with | .pause _ => true | .pfc _ _ => true | _ => false)
  if flow && f.fcsOk && 64 ≤ f.len && f.len ≤ maxFrame s (k / 2) then goodFrame s k f else frameHeld s k f

/-- No other MAC of the port holds a frame that came before (R355). -/
def headOfPort (s : State) (k : Nat) (h : HeldFrame) : Bool :=
  (List.range 4).all fun j => match (getMac s (4 * (k / 4) + j)).buffer.head? with
    | some x => h.arrived ≤ x.arrived
    | none => true

/-- The buffer releases its oldest frame, once it is the oldest of its port (R355, R356, Table 13.2). -/
def frameRelease (s : State) (k : Nat) : State :=
  match (getMac s k).buffer with
  | [] => s
  | h :: rest =>
    if !headOfPort s k h then s else
    let s := modMac s k fun m => { m with buffer := rest }
    let f := h.frame
    let s := if !f.fcsOk then macBump s k 2 1
      else if f.len < 64 || f.len > h.maxFrame then macBump s k 3 1
      else goodFrame s k f
    settleAll (flowGen s k)

/-! ## Building frames (R359, R362 to R365) -/

/-- Big-endian bytes of a number. -/
def beBytes (k v : Nat) : List Byte := (leBytes k v).reverse

/-- Sum of 16-bit big-endian words. -/
def sum16 : List Byte → Nat
  | a :: b :: r => a.toNat * 256 + b.toNat + sum16 r
  | [a] => a.toNat * 256
  | [] => 0

/-- Internet checksum of RFC 1071. -/
def inetSum (bs : List Byte) : Nat :=
  let s := sum16 bs
  let f (x : Nat) : Nat := x % 65536 + x / 65536
  65535 - f (f (f s))

/-- FCS of a frame, in transmission order (set 0x1 of Table 10.4 is the CRC of IEEE 802.3). -/
def frameFcs (bs : List Byte) : List Byte :=
  match fixedSet 1 with
  | some c => leBytes 4 (crcResult c (crcRun c c.init bs))
  | none => []

/-- Addresses and fields of a datagram to be sent. -/
structure DgramOut where
  da : Nat
  vlan : Option Nat
  ipv6 : Bool
  dscp : Nat
  ect : Bool
  flow : Nat
  srcIp : Nat
  dstIp : Nat
  sport : Nat
  dport : Nat

/-- Ethernet overhead of a datagram's headers, without FCS and cells (R362). -/
def DgramOut.overhead (g : DgramOut) : Nat := 14 + (if g.vlan.isSome then 4 else 0) + (if g.ipv6 then 40 else 20) + 12

/-- The frame of a datagram with its FCS (R362, R363, R365). -/
def datagramBytes (s : State) (k : Nat) (g : DgramOut) (prio : Nat) (cells : List Cell) : List Byte :=
  let body := leBytes 4 (1 + 256 * cells.length) ++ cells.flatMap fun c => bytesOf c.hdr ++ bytesOf c.payload ++ bytesOf c.crc
  let ulen := 8 + body.length
  let tos := g.dscp * 4 + (if g.ect then 2 else 0)
  let ttl := max 1 (fld (macCfgOf s k) 32 8)
  let ports := beBytes 2 g.sport ++ beBytes 2 g.dport ++ beBytes 2 ulen
  let v4 (sum : Nat) : List Byte := [0x45, BitVec.ofNat 8 tos] ++ beBytes 2 (20 + ulen) ++ [0, 0, 0x40, 0, BitVec.ofNat 8 ttl, 17] ++
    beBytes 2 sum ++ beBytes 4 g.srcIp ++ beBytes 4 g.dstIp
  let pseudo := beBytes 16 g.srcIp ++ beBytes 16 g.dstIp ++ beBytes 4 ulen ++ [0, 0, 0, 17]
  let sum6 := inetSum (pseudo ++ ports ++ [0, 0] ++ body)
  let ip := if g.ipv6 then
      beBytes 4 (6 * 2 ^ 28 + tos * 2 ^ 20 + g.flow % 2 ^ 20) ++ beBytes 2 ulen ++ [17, BitVec.ofNat 8 ttl] ++
        beBytes 16 g.srcIp ++ beBytes 16 g.dstIp ++ ports ++ beBytes 2 (if sum6 = 0 then 65535 else sum6)
    else v4 (inetSum (v4 0)) ++ ports ++ [0, 0]
  let tag := match g.vlan with | some v => [0x81, 0x00] ++ beBytes 2 (prio * 8192 + v) | none => []
  let pre := leBytes 6 g.da ++ leBytes 6 (fld (getMac s k).addr 0 48) ++ tag ++ (if g.ipv6 then [0x86, 0xDD] else [0x08, 0x00]) ++
    ip ++ body
  pre ++ frameFcs pre

/-- The addresses of a QP's datagrams to a peer entry (R361, R362). -/
def peerDgram (s : State) (k n : Nat) (p : Peer) : DgramOut :=
    { da := p.nextHop.toNat, vlan := if p.vlanEn then some p.vlan else none, ipv6 := p.ipv6, dscp := p.dscp, ect := p.ecnEn, flow := n
      srcIp := p.localIp.toNat, dstIp := p.remoteIp.toNat, sport := 49152 + n % 16384, dport := fld (macCfgOf s k) 16 16 }

def qpDgram (s : State) (k n : Nat) (q : Qp) : Option DgramOut := (s.peers.lookup q.peerEntry).map (peerDgram s k n)

/-- The addresses of a reply: those of the datagram it answers, exchanged (R364). -/
def replyDgram (n : Nat) (g : Dgram) : DgramOut :=
  { da := g.sa.toNat, vlan := none, ipv6 := g.ipv6, dscp := 0, ect := false, flow := n
    srcIp := g.dstIp.toNat, dstIp := g.srcIp.toNat, sport := g.dport, dport := g.sport }

/-- A frame starts on a MAC. -/
def frameOut (s : State) (k : Nat) (bytes : List Byte) (prio : Nat) (raw : Option (Nat × Nat)) : State :=
  modMac (emit s (.frame k bytes)) k fun m => { m with tx := some ⟨bytes.length, prio, raw⟩ }

/-- A QP's carrel is bound to the port of index k (R366). -/
def macBound (s : State) (k n : Nat) : Bool := ((getQp s n).map fun q => nearBound s (k / 4) (qpDom s q)).getD true

/-- Control-tier cells at the head of a MAC's queue leave in one datagram (R364, R446). -/
def startControl (s : State) (k : Nat) (x : CtlCell) : State :=
  let o := getOut s (some k)
  let same := o.ctl.takeWhile fun y => y.qp = x.qp && y.reply = x.reply && y.entry = x.entry
  let g := match x.reply with
    | some d => some (replyDgram x.qp d)
    | none => match x.entry with
      | some i => (s.peers.lookup i).map (peerDgram s k x.qp)
      | none => (getQp s x.qp).bind fun q => qpDgram s k x.qp q
  match g with
  | none => modOut s (some k) fun o => { o with ctl := o.ctl.drop same.length }
  | some g =>
    let cells := same.take (max 1 (cmax (maxFrame s (k / 2)) g.vlan.isSome g.ipv6))
    let s := modOut s (some k) fun o => { o with ctl := o.ctl.drop cells.length }
    if !macBound s k x.qp then macBump s k 14 cells.length
    else
      let s := modOut s (some k) fun o => { o with ctlRun := o.ctlRun + 1 }
      let s := cells.foldl (fun s c => countSent s c.qp false) s
      frameOut s k (datagramBytes s k g 7 (cells.map (·.cell))) 7 none

/-- Waiting cells of a QP leave its queue, at most `fuel`, all of one priority, up to a cell whose copy reads as poisoned. That
one, in front, moves the QP to ERROR (Table 21.4). -/
def takeCells : Nat → State → Nat → Nat → List Cell → State × List Cell
  | 0, s, _, _, cs => (s, cs)
  | fuel + 1, s, n, prio, cs =>
    match (getQp s n).bind fun q => (nextEcCell q).map fun x => (q, x) with
    | some (q, t, i, again) =>
      if t.prio ≠ prio then (s, cs)
      else if (nextEcBad s n q).isSome then (if cs.isEmpty then copyPoisoned s n t else s, cs)
      else
        takeCells fuel (cellSent (countSent s n false) n t.seq i again) n prio (cs ++ [segCell s q t i false])
    | none => (s, cs)

/-- A datagram of a QP's waiting cells starts (R452); while the port is not bound to its carrel they are discarded
(R366). -/
def startDatagram (s : State) (k c n : Nat) (q : Qp) : State :=
  let prio := (headPrio s (some k) q).getD 0
  match qpDgram s k n q with
  | none => s
  | some g =>
    let r := takeCells (cellsAllowed s k c q g.vlan.isSome g.ipv6) s n prio []
    if r.2.isEmpty then r.1
    else if !macBound s k n then macBump r.1 k 14 r.2.length
    else
      let bytes := datagramBytes s k g prio r.2
      let s := chargeQueue r.1 (some k) [] c n (cdiv bytes.length 80) r.2.length
      frameOut (modOut s (some k) fun o => { o with ctlRun := 0 }) k bytes prio none

/-- A RAW_SEND starts, its last four bytes overwritten with the FCS; with the link down it is discarded (R359). -/
def startRaw (s : State) (k c n : Nat) (o : SendOp) : State :=
  if !(getMac s k).linkUp then
    doneOp (modOp (macBump s k 14 1) n o.idx fun o => { o with staged := [], total := 0 }) n o.idx 0
  else
    let pre := o.staged.take (o.staged.length - 4)
    let bytes := pre ++ frameFcs pre
    let s := modOp s n o.idx fun o => { o with phase := .waiting }
    let s := chargeQueue s (some k) [] c n (cdiv bytes.length 80) 0
    frameOut (modOut s (some k) fun o => { o with ctlRun := 0 }) k bytes (dPrio o.desc) (some (n, o.idx))

/-- A free MAC selects what it sends next (R446, R452). A datagram waits for the link; a RAW_SEND does not. -/
def frameStart (s : State) (k : Nat) : State :=
  if !macLive s k || (getMac s k).tx.isSome then s else
    let s := sendPauses s k
    let up := (getMac s k).linkUp
    let blocked := if up then [] else (s.qps.filter fun e => e.2.type ≠ 1).map (·.1)
    let r := refreshTags s (some k) blocked
    let s := r.1
    let o := getOut s (some k)
    let turn := up && !paused s (some k) 7 && (r.2.isEmpty || o.ctlRun < 8)
    match (if turn then o.ctl else []) with
    | x :: _ => startControl s k x
    | [] =>
      match selectQueue s (some k) r.2 with
      | none => s
      | some (c, n) =>
        match getQp s n with
        | none => s
        | some q =>
          if q.type = 1 then (match rawHead q with | some o => startRaw s k c n o | none => s)
          else startDatagram s k c n q

/-- The frame in transmission has been sent (R359, R371). -/
def frameEnd (s : State) (k : Nat) (stamp : Gtc) : State :=
  match (getMac s k).tx with
  | none => s
  | some t =>
    let s := countTx (modMac s k fun m => { m with tx := none }) k t.bytes
    let s := match t.raw with
      | some (n, idx) => doneOp (modOp s n idx fun o => { o with stampAt := some stamp }) n idx 0
      | none => s
    sendPauses s k

/-- Frames that MACs were told to start in the cycle. -/
def startCycle (s : State) : State := s.cyc.starts.foldl frameStart (modCyc s fun c => { c with starts := [] })

/-- The PHY of a MAC has its lasers: its engine is fit and its port enabled (R328, R347, Table 11.10). -/
def macLit (s : State) (k : Nat) : Bool :=
  (getNear s (k / 4)).enable && (match s.engs[8 + k / 2]? with | some x => !x.laserLow && !x.shutdown && x.temp ≥ 10 | none => false)

/-! ## Manager commands (R360, R361) -/

/-- A QP out of RESET uses the peer entry. -/
def peerHeld (s : State) (e : Nat) : Bool := s.qps.any fun x => x.2.udp && x.2.peerEntry = e && x.2.state ≠ .reset

/-- ETH_PEER_SET (Table 13.4). -/
def peerSet (s : State) (d : Line) : State :=
  let e := dfld d 16 0 12
  let p : Peer :=
    { mac := dfld d 18 0 3, sub := dfld d 18 3 2, ipv6 := dbit d 18 5, vlanEn := dbit d 18 6, ecnEn := dbit d 18 7
      dscp := dfld d 19 0 6, vlan := dfld d 20 0 12, fn := dfld d 22 0 16, nextHop := BitVec.ofNat 48 (dfld d 24 0 48)
      remoteIp := BitVec.ofNat 128 (dfld d 32 0 128), localIp := BitVec.ofNat 128 (dfld d 48 0 128) }
  if p.sub ≥ 2 || p.fn > 512 then mgrFail s d 3
  else if peerHeld s e || !(match fnDom s p.fn with | some c => nearBound s (p.mac / 2) c | none => false) then mgrFail s d 2
  else mgrOk { s with peers := tput s.peers e p } d

/-- ETH_FILTER_SET (Table 13.3). -/
def filterSet (s : State) (d : Line) : State :=
  let e := dfld d 16 0 10
  let f : Filter :=
    { mac := dfld d 18 0 3, sub := dfld d 18 3 2, vlanMatch := dbit d 18 6, typeMatch := dbit d 18 7, vlan := dfld d 20 0 12
      etherType := dfld d 22 0 16, da := BitVec.ofNat 48 (dfld d 24 0 48), qp := dfld d 32 0 20 }
  let raw := ((getQp s f.qp).map fun q => decide (q.type = 1)).getD false
  if dbit d 18 5 && !raw then mgrFail s d 1
  else if f.sub ≥ 2 then mgrFail s d 3
  else if dbit d 18 5 then mgrOk { s with filters := tput s.filters e f } d
  else mgrOk { s with filters := tdel s.filters e } d

/-! ## The commands -/

/-- A flow-control frame as it comes off the wire is a frame of 64 bytes that passes step 1 of Table 13.2. -/
def controlFrame (s : State) (k : Nat) : State := bwBytes (macBump (macBump s k 0 1) k 1 64) (12 + k) false 64

end Sys2Proof.Machine
end

