-- ==== Sys2Proof/Machine/Optics.lean ====
section
/-! DEFINITION. Optics.lean: lattice link states, survey cells and their measurements, calibration thresholds, port down
and engine temperature (R326 to R352). -/

namespace Sys2Proof.Machine

open Host (Outcome)

/-! ## Helpers -/

def optEnabled (s : State) (p : Nat) : Bool := bitAt s.optCfg p

/-- HOT_C in force (Table 12.9). -/
def hotC (s : State) : Int := max 60 (min 85 (fld s.optCfg 16 7))

def getEng (s : State) (e : Nat) : OptEng := lget s.engs e ⟨0, false, false, false, false, 0, [], false, [], 0⟩
def modEng (s : State) (e : Nat) (f : OptEng → OptEng) : State := { s with engs := lmod s.engs e f }
def modCal (s : State) (i : Nat) (f : Cal → Cal) : State := { s with cals := lmod s.cals i f }

/-- Its axis has more than one adapter: the ports of an axis of size 1 stay dark (R148). -/
def axisOk (s : State) (p : Nat) : Bool := if p % 4 < 2 then 1 < dimX s else 1 < dimY s

/-- The port may leave DARK (R148, R328, R333, R338, R347). -/
def bringUpOk (s : State) (p : Nat) : Bool :=
  let x := getLat s p
  let e := getEng s p
  optEnabled s p && axisOk s p && !x.damped && !x.wait && !e.laserLow && !e.shutdown && e.temp ≥ 10

/-- The port falls back to DARK and waits for its retry (R333). -/
def latDark (s : State) (p : Nat) : State :=
  let s := modSec s fun x => { x with linkQ := x.linkQ.filter (· ≠ p) }
  let s := modSched s fun x => { x with ctl := tdel x.ctl p }
  modPort s p fun x => { x with
    state := 0, since := s.now, wait := true, lag := 0, ready := false, near64 := 0, loadSt := 0, nonce := none, farNonce := none
    chain := none, resp := none, far := none, linkq := [], pairs := [], mean := none, checked := none, attested := none, uncWin := none
    uncCount := 0 }

/-- A failure before ACTIVE: no notice, counted (R345). -/
def preFail (s : State) (p : Nat) : State :=
  modCal (latDark s p) p fun c => { c with fails := sat 255 (c.fails + 1) }

/-- Stamps of declarations in the 60 s window opened by the first (R338). -/
def downWindow (ts : List Gtc) (now : Gtc) : List Gtc :=
  match ts with
  | t :: _ => if now < t + 960000000000 then ts ++ [now] else [now]
  | [] => [now]

/-- Results of the folio that ended are discarded for a port declared down in the cycle of the tick: the rate correction its
link gave the follower is the one before (R339, Table 12.13). -/
def discardResult (s : State) (p : Nat) : State :=
  match s.time.prior with
  | some (at_, slew, off, locked) =>
    if at_ = s.now && s.time.parent = some p then
      modTime s fun t => { t with slew := slew, offset := off, locked := locked, prior := none }
    else s
  | none => s

/-- A lattice port in ACTIVE is declared down (R338, R344): notice, event and record, CAL_STATUS, DARK. -/
def declareDown (s : State) (p cause lane : Nat) : State :=
  if (getLat s p).state ≠ 5 then s
  else
    let ts := downWindow (getLat s p).downs s.now
    let damped := ts.length ≥ 3
    let link := linkOf s p
    let s := latDark (discardResult s p) p
    let s := modPort s p fun x => { x with downs := ts, damped := x.damped || damped }
    let s := takeNotice s none 0 ⟨link, cause, s.sched.active.getD 0, s.now⟩
    let s := modCal (mark s (0x120040 + 8 * p) 5) p fun c => { c with downSeen := true, lastCause := cause, fails := sat 255 (c.fails + 1) }
    let s := eventAndCodex s 0x09 0x31 p p (evData [(20, 8, cause), (21, 8, lane)])
    if damped then codexHand s 0x33 p 0xFF (codexCause 0 p) else s

/-- A condition of Table 12.7 on a port in ACTIVE: it is declared down at the end of the cycle, with the lowest CAUSE met in
it (R343, R344). -/
def markDown (s : State) (p cause lane : Nat) : State :=
  if (getLat s p).state ≠ 5 then s
  else modCyc s fun c => match c.failing.find? fun f => f.1 = p with
    | none => { c with failing := c.failing ++ [(p, cause, lane)] }
    | some f => if cause < f.2.1 then
        { c with failing := c.failing.map fun x => if x.1 = p then (p, cause, lane) else x } else c

/-- The ports that met a condition in the cycle are declared down, in order of their numbers. -/
def declareCycle (s : State) : State :=
  (sortBy (fun a b => a.1 ≤ b.1) s.cyc.failing).foldl (fun s f => declareDown s f.1 f.2.1 f.2.2)
    (modCyc s fun c => { c with failing := [] })

/-- Ports whose L_ENABLE bit was cleared in the cycle are DARK, those declared down in it with what that brings (Table 12.13). -/
def darkenCycle (s : State) : State :=
  s.cyc.darken.foldl (fun s p => let s := if (getLat s p).state = 5 then latDark s p else s; modPort s p fun x => { x with wait := false })
    (modCyc s fun c => { c with darken := [] })

/-- A condition of Table 12.7 on a port in any state (R343, R345). -/
def portFails (s : State) (p cause lane : Nat) : State :=
  if (getLat s p).state = 5 then markDown s p cause lane
  else if (getLat s p).state = 0 then s
  else preFail s p

/-! ## Bring-up (R333, R334) -/

/-- A write of OPT_CFG (R333, R338, R348). -/
def optWrite (s : State) (v : W64) : State :=
  let old := s.optCfg
  let s := { s with optCfg := v &&& 0x7F00FF }
  (List.range 8).foldl (fun s p =>
    if bitAt old p && !bitAt v p then
      if (getLat s p).state = 5 then modCyc s fun c => { c with darken := c.darken ++ [p] }
      else modPort (if (getLat s p).state = 0 then s else latDark s p) p fun x => { x with wait := false }
    else if !bitAt old p && bitAt v p then
      modPort s p fun x => { x with wait := false, damped := false, downs := if x.damped then [] else x.downs }
    else s) s

/-- Length of a state's timeout (Table 12.3). -/
def latTimeout (st : Nat) : Option Nat :=
  match st with
  | 1 => some 80000000 | 2 => some 16000000 | 3 => some 4000000000 | 4 => some 160000000 | _ => none

/-- The timeout of a port runs: in ATTEST not after a failed check, in TIMED only while a time root exists and not on a
link whose load was refused (R49, R334, Table 12.3). -/
def timeoutRuns (s : State) (p : Nat) : Bool :=
  let x := getLat s p
  (x.state ≠ 3 || (x.checked ≠ some false && x.attested ≠ some false)) && (x.state ≠ 4 || (s.time.rootPri < 255 && x.loadSt ≠ 1))

/-! ## Survey cells (R336, R337, R342, R44) -/

/-- Survey cells this port has sent since they were last numbered. -/
def surveySent (x : LatPort) : Nat := (x.surveyNext - x.surveyFrom) / 1536

/-- TX_SEQ of its next survey cell. -/
def surveySeqNext (x : LatPort) : Nat := (x.surveySeq + surveySent x) % 65536

/-- TX_STAMP of this port's survey cell numbered `seq`, one every 1536 GTC units (Table 6.2, R336). -/
def surveyStamp (x : LatPort) (seq : Nat) : Option Gtc :=
  let back := (surveySeqNext x + 65535 - seq % 65536) % 65536
  if back < surveySent x then some (x.surveyNext - 1536 * (back + 1)) else none

/-- TIM_ASYM[p] in 1/16 GTC unit, signed. -/
def asymOf (s : State) (p : Nat) : Int := ((lget s.time.asym p 0).extractLsb' 0 20).toInt

/-- Twice θ and twice δ of a measurement pair, in 1/16 unit (R44). -/
def pairOf (s : State) (p t1 t2 t3 t4 : Nat) : Int × Int :=
  let a : Int := (t2 : Int) - t1
  let b : Int := (t4 : Int) - t3
  ((a - b) * 16 - asymOf s p, (a + b) * 16)

/-- Means of a folio's pairs (R44). -/
def meanOf (ps : List (Int × Int)) : Option (Int × Int) :=
  if ps.isEmpty then none
  else some (divEven ((ps.map (·.1)).sum) (2 * ps.length), divEven ((ps.map (·.2)).sum) (2 * ps.length))

/-- PRBS bits of a survey cell that differ from the sequence, by lane: payload bytes 32 to 39 are dibits 176 to 207
(R330, R342). -/
def countPrbs (s : State) (p : Nat) (got : BitVec 64) : State :=
  match (getLat s p).far with
  | none => s
  | some f =>
    let diff := got ^^^ prbsNext f.prbs
    (List.range 64).foldl (fun s i => if diff.getLsbD i then bump s (latCnt p (24 + i / 2 % 8)) 1 else s) s

/-- The checks of R32 and R149 on a survey cell in ATTEST; a failure is recorded once, and the link is admitted no more
until L_ENABLE is cleared (R334). -/
def surveyCheck (s : State) (p : Nat) (c : Cell) : State :=
  let pay := c.payload
  let ok := dfld pay 21 0 2 = s.time.fsize && dfld pay 22 0 10 = fld s.lat.cfg 0 10 && cSrc c = neighbour s p &&
    myX s < dimX s && myY s < dimY s
  if (getLat s p).state ≠ 3 || (getLat s p).checked = some false then s
  else if ok then linkAdmit (modPort s p fun x => { x with checked := some true }) p
  else linkRefused (modPort s p fun x => { x with checked := some false }) p 0

/-- STEP_ANNOUNCE payload (Table 12.5). -/
def stepPayload (n ks : Nat) : Line := layout 512 [(0, 8, 3), (32, 32, n), (64, 64, ks)]

/-- A received STEP_ANNOUNCE (R50, R337): recorded and flooded once; one for a tick already past is too late to act on. -/
def stepHeard (s : State) (p n ks : Nat) : State :=
  linkOnce s (some p) (3, n, ks) (stepPayload n ks) fun s =>
    if s.time.step.isSome || ks ≤ s.folio then s else modTime s fun t => { t with step := some (ks, n, 1) }

/-- A control payload from the far end of a port: a failure notice, by which this end's port of the link is declared down,
or a set announcement (R188, R193, Table 6.7). -/
def controlHeard (s : State) (p : Nat) (pay : Line) : State :=
  match dfld pay 0 0 8 with
  | 1 =>
    let n : Notice := ⟨dfld pay 2 0 12, dfld pay 2 12 4, dfld pay 4 0 32, dfld pay 8 0 64⟩
    let s := takeNotice s (some p) (dfld pay 1 0 8 + 1) n
    (List.range 8).foldl (fun s q => if linkOf s q = n.link then markDown s q n.cause 0xFF else s) s
  | 2 => announceHeard s p (dfld pay 4 0 32) (dfld pay 8 0 64) (dfld pay 16 0 8) (dfld pay 24 0 64)
  | _ => s

/-- The area of a survey cell: a control payload or a link payload; a reserved KIND is discarded and counted (R337). The
fragments of attestation messages are taken up where the whole message has come (log 99). -/
def surveyArea (s : State) (p : Nat) (pay : Line) : State :=
  let a : Line := pay >>> 320
  match dfld pay 20 4 2 with
  | 1 => controlHeard s p a
  | 2 =>
    match dfld a 0 0 8 with
    | 1 => s
    | 2 => epochHeard s p (dfld a 4 0 32) (dfld a 8 0 64)
    | 3 => stepHeard s p (dfld a 4 0 32) (dfld a 8 0 64)
    | 4 => loadedHeard s p (dfld a 4 0 32) (dfld a 8 0 10)
    | _ => bump s (latCnt p 13) 1
  | _ => s

/-! ## Survey cells sent (R336, R337) -/

/-- Bytes 24 and up of a control payload are zero: it may travel in a survey slot (R337). -/
def fitsArea (pay : Line) : Bool := pay >>> 192 = 0

/-- What waits for a survey slot of a port: failure notices, then other control payloads, then link payloads, each oldest
first: its AREA, its bytes, and the state without it (R337). -/
def areaNext (s : State) (p : Nat) : Nat × Line × State :=
  let q := ctlWaiting s p
  match (q.find? fun c => fitsArea c.payload && dfld c.payload 0 0 8 = 1) <|> q.find? fun c => fitsArea c.payload with
  | some c => (1, c.payload, modSched s fun x => { x with ctl := tput x.ctl p (q.erase c) })
  | none => match (getLat s p).linkq with
    | l :: rest => (2, l, modPort s p fun x => { x with linkq := rest })
    | [] => (0, 0, s)

/-- The payload of a port's next survey cell (Table 12.4); TX_STAMP is the slot's start, where the codeword starts (R332). -/
def surveyPayload (s : State) (p area : Nat) (data : Line) : Line :=
  let x := getLat s p
  layout 512 [(0, 64, x.surveyNext), (64, 64, (x.far.map (·.arrival)).getD 0), (128, 16, surveySeqNext x),
    (144, 16, (x.far.map (·.seq)).getD 0xFFFF), (160, 3, x.state), (163, 1, b2n x.ready), (164, 2, area), (168, 2, s.time.fsize),
    (176, 10, fld s.lat.cfg 0 10), (192, 8, s.time.rootPri), (200, 6, s.time.depth), (208, 10, s.time.rootIdx),
    (256, 64, (prbsNext x.prbs).toNat)] ||| (data <<< 320)

/-- A port's survey slot: its cell leaves; in the cycle in which the port is declared down it is lost (R174, R336). -/
def surveySend (s : State) (p : Nat) : State :=
  let r := areaNext s p
  let pay := surveyPayload s p r.1 r.2.1
  let slot := ((getLat s p).surveyNext / 6) % s.slots
  let s := modPort r.2.2 p fun x => { x with surveyNext := x.surveyNext + 1536, prbs := prbsNext x.prbs }
  if isFailing s p then s
  else bump (emit s (.latCell p slot (latCell (latHdr 8 0 0 (neighbour s p) false false (myCoord s) 0 0 0 false) pay))) (latCnt p 4) 1

/-! ## Survey cells received (R336, R342, R44) -/

/-- The cell tells that the root still sends: it is the root's own, or, where no neighbour is the root, it comes from nearer
the root than this adapter (R43; log 100). -/
def fromRoot (s : State) (p : Nat) (f : Far) : Bool :=
  f.rootPri < 255 && f.rootIdx = s.time.rootIdx &&
    (neighbour s p = f.rootIdx ||
      (!((List.range 8).any fun q => (getLat s q).state ≥ 2 && neighbour s q = f.rootIdx) && f.rootHops < s.time.depth))

/-- SURVEY_CELL_ARRIVAL (R336): discarded where its port, type or CRC is not right. -/
def surveyArrival (s : State) (p : Nat) (c : Cell) (arrival : Gtc) : State :=
  let x := getLat s p
  if x.state < 2 || cType c ≠ 8 || c.crc ≠ latCrc c.hdr c.payload then s
  else
    let pay := c.payload
    let s := bump s (latCnt p 5) 1
    let s := countPrbs s p ((pay >>> 256).setWidth 64)
    let s := surveyCheck s p c
    let rx := dfld pay 18 0 16
    let pair := if rx = 0xFFFF then none
      else (surveyStamp x rx).map fun t1 => pairOf s p t1 (dfld pay 8 0 64) (dfld pay 0 0 64) arrival
    let far : Far :=
      { state := dfld pay 20 0 3, ready := dbit pay 20 3, rootPri := dfld pay 24 0 8, rootHops := dfld pay 25 0 6
        rootIdx := dfld pay 26 0 10, heard := s.folio, seq := dfld pay 16 0 16, arrival := arrival
        prbs := (pay >>> 256).setWidth 64 }
    let s := modPort s p fun x => { x with far := some far, pairs := x.pairs ++ pair.toList }
    let s := if fromRoot s p far then modTime s fun t => { t with rootHeard := s.folio } else s
    surveyArea s p pay

/-! ## Thresholds (R328, R340, R342, R343, R347) -/

/-- An uncorrectable codeword (Table 12.7). -/
def uncorrectable (s : State) (p : Nat) : State :=
  let x := getLat s p
  if x.state < 2 then s
  else
    let s := bump s (latCnt p 14) 1
    let s := modCal s p fun c => { c with uncorr := sat 65535 (c.uncorr + 1) }
    let s := modEng s p fun g => { g with excluded := g.excluded + 1 }
    let fresh : Bool := match x.uncWin with | some g => decide (g + 1536 ≤ s.now) | none => true
    let n := if fresh then 1 else x.uncCount + 1
    let s := modPort s p fun x => { x with uncWin := if fresh then some s.now else x.uncWin, uncCount := n }
    if n ≥ max 1 (fld s.calCfg.inForce 32 3) then portFails s p 1 0xFF else s

/-- Corrected bits of ports (0 to 7 lattice, 8 to 11 near) by lane: counted and added to the calibration window (R342). -/
def countBits (s : State) (bits : List (Nat × Nat × Nat)) : State :=
  bits.foldl (fun s b =>
    modCal (bump s (if b.1 < 8 then latCnt b.1 (16 + b.2.1 % 8) else nearCnt (b.1 - 8) (16 + b.2.1 % 16)) b.2.2) b.1
      fun c => { c with bits := c.bits + b.2.2 }) s

/-- What forward error correction did in the folio that ends counts in it (R342, R459, R462). -/
def countCorrected (s : State) (inp : TickInputs) : State :=
  let s := countBits s inp.bits
  let s := inp.codewords.foldl (fun s x => bump s (latCnt x.1 15) x.2) s
  inp.symbols.foldl (fun s x => bump s (macCnt x.1 15) x.2) s

/-- A window of 16 folios that has ended and was not evaluated yet is evaluated with its corrected bits (R342). -/
def windowClose (s : State) : State :=
  let tick := s.folio / 16 * 16
  if tick ≤ s.calAt then s
  else
    (List.range 12).foldl (fun s i =>
      let n := (lget s.cals i Cal.reset).bits
      let s := modCal s i fun c => { c with bitsLast := sat 65535 n, bits := 0 }
      let s := if n ≥ max 1 (fld s.calCfg.inForce 0 16) then
          codexHand (modCal (mark s (0x120040 + 8 * i) 3) i fun c => { c with degraded := true }) 0x32 (if i < 8 then i else nearSource (i - 8)) 0xFF
            (codexCause 0 i)
        else s
      if i < 8 && n ≥ max 1 (fld s.calCfg.inForce 16 16) then portFails s i 2 0xFF else s) { s with calAt := tick }

/-- An engine fails: its lattice port is declared down at the next tick, or falls back at once; its near port goes down
(R328, R340, R347). -/
def engineFails (s : State) (e : Nat) : State :=
  if e < 8 then
    if (getLat s e).state = 5 then modEng s e fun x => { x with failNext := true }
    else if (getLat s e).state = 0 then s else preFail s e
  else macsLost (nearDown s ((e - 8) / 2)) ((e - 8) / 2) (if e % 2 = 0 then [0, 1] else [2, 3])

/-- State of the port an engine serves (Table 12.1): 0 DARK, 1 LIGHT, above that with light and lock. -/
def engPort (s : State) (e : Nat) : Nat := if e < 8 then (getLat s e).state else (getNear s ((e - 8) / 2)).state

/-- Heater steps of a tick (R339, R340): each listed ring of a port that is not DARK moves toward resonance, in LIGHT to any
power of its range (the sweep), later by at most 250 µW; one that stays at a limit with its error pointing further out for 4
ticks sets HEATER_LIMIT and fails its port. -/
def heaterTick (s : State) (errs : List (Nat × Int)) : State :=
  errs.foldl (fun s x =>
    let e := x.1 / 8
    if engPort s e = 0 then s
    else
      let r := draw s 16
      let step := if engPort s e = 1 then r.1.toNat % 40001 else r.1.toNat % 251
      let s := r.2
      let h := lget (getEng s e).heat (x.1 % 8) (0, 0)
      let out := (h.1 = 0 && x.2 < 0) || (h.1 = 40000 && x.2 > 0)
      let n := if out then h.2 + 1 else 0
      let power := if x.2 > 0 then min 40000 (h.1 + step) else if x.2 < 0 then h.1 - step else h.1
      let s := modEng s e fun g => { g with heat := lmod g.heat (x.1 % 8) fun _ => (power, n) }
      if n ≥ 4 then engineFails (modEng (mark s (0x130080 + 8 * e) 11) e fun g => { g with heaterLimit := true }) e else s) s

/-- A lane's equaliser takes its result of the folio that ended: every tap, and the linear stage, by a step of the LMS loop
(R341). Against the training pattern in LIGHT and decision-directed from ALIGN on, the gradient is the lane's signals'. -/
def Equaliser.adapt (q : Equaliser) (draw lane excluded : Nat) : Equaliser :=
  { ctle := q.ctle + Config.lmsStep draw lane 0 excluded
    ffe := q.ffe.zipIdx.map fun x => x.1 + Config.lmsStep draw lane (x.2 + 1) excluded
    dfe := q.dfe + Config.lmsStep draw lane 13 excluded }

/-- New taps on every lane of every port from LIGHT on (Table 12.6); a folio whose codewords were all uncorrectable gives no
gradient (R341), and a port that went down has no result (R339). -/
def equaliserTick (s : State) : State :=
  (List.range 16).foldl (fun s e =>
    let g := getEng s e
    if engPort s e = 0 then modEng s e fun g => { g with excluded := 0 }
    else if g.excluded ≥ (if e < 8 then s.slots else 2 * s.slots) then modEng s e fun g => { g with excluded := 0 }
    else
      modEng { s with draws := s.draws + 1 } e fun g => { g with
        eqs := g.eqs.zipIdx.map fun x => x.1.adapt s.draws x.2 g.excluded, excluded := 0 }) s

/-- Temperatures and carrier powers sampled at a tick (R347, R349). -/
def opticSample (s : State) (inp : TickInputs) : State :=
  let s := inp.laserPwr.foldl (fun s x => modEng s x.1 fun g => { g with laserPwr := sat 255 x.2 }) s
  inp.temps.foldl (fun s x =>
    let g := getEng s x.1
    let hot : Bool := decide (x.2 > hotC s)
    let s := modEng s x.1 fun g => { g with temp := x.2, hot := hot, shutdown := g.shutdown && decide ((75 : Int) ≤ x.2) }
    if hot && !g.hot then codexHand s 0x34 0x081 0xFF (codexCause 0 x.1) else s) s

/-- Ports whose engine failed since the last tick go down (Table 12.7). -/
def enginePorts (s : State) : State :=
  (List.range 8).foldl (fun s e =>
    if (getEng s e).failNext then markDown (modEng s e fun g => { g with failNext := false }) e 2 0xFF else s) s

end Sys2Proof.Machine
end

