-- ==== Sys2Proof/Machine/Time.lean ====
section
/-! DEFINITION. Time.lean: the time tree, slewing, loads and steps of the GTC, the root's reference, READY and ACTIVE of a
lattice link, folio size and the 1PPS output (R26 to R62, R335). -/

namespace Sys2Proof.Machine

open Host (Outcome)

/-! ## Changes of the GTC (R49 to R52) -/

/-- A ring of any function, or the manager's, is enabled (R33, R49, R50). -/
def anyRing (s : State) : Bool :=
  bitAt s.mgrCfg 4 || (s.fns.any fun e => bitAt e.2.ctlCfg 4 || e.2.eq.isSome) || (s.cqs.any fun e => !e.2.isEmpty) ||
  s.qps.any fun e => e.2.sq.isSome || e.2.rq.isSome

/-- Survey cells keep their numbers when the GTC moves; pairs measured before no longer hold. -/
def reanchor (s : State) : State :=
  { s with lports := s.lports.map fun x =>
    if x.state < 2 then x else
      let from_ := cdiv s.now 1536 * 1536
      { x with surveySeq := surveySeqNext x, surveyFrom := from_, surveyNext := from_, pairs := [], mean := none, near64 := 0 } }

/-- The GTC becomes `g` in one crossbar cycle: event, record, STEP_SEEN (R52). Ticks then fall at multiples of F of the
new value. -/
def changeGtc (s : State) (g : Gtc) (cause : Nat) : State :=
  let old := s.now
  let g := g % 2 ^ 64
  let s := modTime (mark s 0x110008 5) fun t => { t with gtc := g, gtcMem := g, frac := 0, tick := g / s.F, stepSeen := true }
  let s := reanchor s
  let s := modCnt (bump s (devCnt 9) 1) fun c => { c with
    stepped := true, carrelRings := tmap c.carrelRings fun _ r => { r with stepped := true } }
  eventAndCodex s 0x0B 0x20 0x80 0 (evData [(20, 64, old), (28, 64, g), (36, 8, cause)])

/-- A gate-list set is active or pending (R50, R55): announcements reach every adapter, so this one knows. -/
def setBusy (s : State) : Bool := s.sched.active.isSome || s.sched.pending.isSome

/-- A pending step whose tick has come (R50): n folios are skipped. It runs in the cycle that fires tick ks, which then
fires tick ks + n. While a gate-list set is active or pending no step is made: the announced one lapses at every adapter, and
a root that still has folios to step announces anew once it can (R55; log 98). -/
def stepTick (s : State) : State :=
  match s.time.step with
  | none => s
  | some (ks, n, cause) =>
    if s.folio < ks then s
    else
      let s := modTime s fun t => { t with step := none }
      if s.folio > ks || setBusy s then s
      else
        let s := modTime s fun t => { t with refOffset := t.refOffset.map (· - n * s.F * 65536) }
        changeGtc s (s.now + n * s.F) cause

/-- The root announces a step lattice-wide (R50). -/
def announceStep (s : State) (ks n cause : Nat) : State :=
  linkOnce s none (3, n, ks) (stepPayload n ks) fun s => modTime s fun t => { t with step := some (ks, n, cause) }

/-- GTC_STEP (R50, Table 2.9). -/
def gtcStep (s : State) (d : Line) : State :=
  let ks := dfld d 16 0 64
  let n := dfld d 24 0 21
  if !s.time.isRoot || setBusy s || s.time.step.isSome then mgrFail s d 2
  else if n = 0 || n > 2 ^ 20 || ks < s.folio + 8 then mgrFail s d 3
  else mgrOk (announceStep s ks n 1) d

/-! ## Root and parent (R40 to R43) -/

def rootPriority (s : State) : Nat := fld s.time.cfg 8 8

/-- The key of R40: lower leads. -/
def keyBefore (a b : Nat × Nat) : Bool := a.1 < b.1 || (a.1 = b.1 && a.2 < b.2)

/-- Ports through which a root is known: TIMED or ACTIVE, with a root other than this adapter, as (port, far end). -/
def rootPorts (s : State) : List (Nat × Far) :=
  (List.range 8).filterMap fun p =>
    let x := getLat s p
    match x.far with
    | some f => if x.state ≥ 4 && f.rootPri < 255 && f.rootIdx ≠ myCoord s then some (p, f) else none
    | none => none

/-- The key of the root of R40: none when nobody may lead (R41). -/
def bestRoot (s : State) : Option (Nat × Nat) :=
  let own := if rootPriority s < 255 then [(rootPriority s, myCoord s)] else []
  ((rootPorts s).map fun x => (x.2.rootPri, x.2.rootIdx)).foldl (fun b k => match b with
    | none => some k
    | some y => if keyBefore k y then some k else b) own.head?

/-- Choice of the parent: ACTIVE links first (a link still in TIMED only where there is none), then hops, plane and port
(R40). -/
def parentKey (s : State) (x : Nat × Far) : Nat := (if live s x.1 then 0 else 2 ^ 16) + x.2.rootHops * 16 + x.1

/-- REF_SELECT; 3 is treated as 0. -/
def refSelect (s : State) : Nat := let v := fld s.time.cfg 16 2; if v = 3 then 0 else v

/-- Firmware does not run because of a restart: a PTP-referenced root is in holdover (R22, R56). -/
def ptpHeld (s : State) : Bool := (s.fw.restarting.isSome || s.glb.fwHalted) && refSelect s = 2

/-- Root and parent are chosen afresh (R40, R43). An adapter that loses its root or its parent keeps its last rate correction,
of which the spec speaks only for an adapter with a parent, and a new root, which has no offset, reads OFFSET 0 (DESIGN
CHOICE, log 94). -/
def timeTree (s : State) : State :=
  match bestRoot s with
  | none => modTime s fun t => { t with
      isRoot := false, rootPri := 255, rootIdx := 0, parent := none, depth := 0, holdover := false }
  | some (pri, idx) =>
    let changed : Bool := decide (s.time.rootPri ≠ pri) || decide (s.time.rootIdx ≠ idx) || decide (s.time.rootPri = 255)
    if pri = rootPriority s && idx = myCoord s then
      if s.time.isRoot then modTime s fun t => { t with rootPri := pri, rootIdx := idx }
      else
        let led := s.time.rootPri < 255
        let s := modTime s fun t => { t with
          isRoot := true, rootPri := pri, rootIdx := idx, parent := none, depth := 0, traceable := bitAt t.cfg 18
          acquired := false, refOffset := none, refStep := false, loadDue := false, holdover := ptpHeld s, restartHold := ptpHeld s
          offset := 0 }
        if led then codexHand s 0x21 0x80 0xFF (codexCause 0 idx) else s
    else
      let ps := (rootPorts s).filter fun x => x.2.rootPri = pri && x.2.rootIdx = idx
      let best := ps.foldl (fun (b : Option (Nat × Far)) x => match b with
        | none => some x
        | some y => if parentKey s x < parentKey s y then some x else b) none
      modTime s fun t => { t with
        isRoot := false, rootPri := pri, rootIdx := idx, parent := best.map (·.1), holdover := false
        depth := min 63 ((best.map (·.2.rootHops)).getD 0 + 1)
        rootHeard := if changed then t.tick else t.rootHeard }

/-- ROOT_FAILOVER (R43): two folios without a survey cell from the root. What names it is forgotten; where this adapter is the
next by the key it leads at once, otherwise it re-parents at the next tick. -/
def rootFailover (s : State) : State :=
  if s.time.isRoot || s.time.rootPri = 255 || s.folio < s.time.rootHeard + 2 then s
  else
    let gone := s.time.rootIdx
    let s := modTime { s with lports := s.lports.map fun x => { x with
      far := x.far.map fun f => if f.rootIdx = gone then { f with rootPri := 255 } else f } }
      fun t => { t with rootHeard := t.tick }
    if bestRoot s = some (rootPriority s, myCoord s) then timeTree s else s

/-! ## Offset and slewing (R44, R47, R48) -/

/-- The correction of R47 for an offset in 1/16 unit: at most 100 ppm, that is 78 of 786432. -/
def slewFor (off : Int) : Int :=
  if off = 0 then 0 else
    let m : Int := min 78 (Config.slewRate off.natAbs)
    if off > 0 then m else -m

/-- The results of a folio's pairs take effect (R44). -/
def takeMeans (s : State) : State :=
  { s with lports := s.lports.map fun x => { x with mean := meanOf x.pairs, pairs := [] } }

/-- Offset to the parent, LOCKED and the rate correction of a follower (R47, R48). -/
def follow (s : State) (p : Nat) : State :=
  match (getLat s p).mean with
  | none => s
  | some (off, _) =>
    let s := modTime s fun t => { t with offset := off, locked := decide (off.natAbs ≤ 24 * 16), slew := slewFor off }
    if off.natAbs > 128 * 16 then markDown s p 3 0xFF else s

/-- What the root gained on its reference over the folio just ended, in 2^-16 units. -/
def folioGain (s : State) : Int := s.time.slew * (s.F * 65536 / cycleUnits s.time : Nat)

/-- The root's reference at a tick (R53 to R55): the load that is due, further steps, slewing; holdover keeps the last
correction, and with no measure yet the package reference clock gives the rate. -/
def refTick (s : State) : State :=
  let s := modTime s fun t => { t with refOffset := t.refOffset.map (· - folioGain s) }
  if !s.time.isRoot || s.time.holdover then s
  else
    match s.time.refOffset with
    | none => if s.time.acquired then s else modTime s fun t => { t with slew := 0 }
    | some r =>
      if s.time.loadDue then
        changeGtc (modTime s fun t => { t with refOffset := some 0, loadDue := false, slew := 0 })
          ((s.now : Int) + r / 65536).toNat 2
      else
        let n := (r / 65536 / (s.F : Int)).toNat
        let s := modTime s fun t => { t with slew := slewFor (r / 4096), refStep := t.refStep && decide (n ≥ 1) }
        if s.time.refStep && s.time.step.isNone && !setBusy s then announceStep s (s.folio + 8) (min (2 ^ 20) n) 2 else s

/-! ## Loads and link states (R45, R49, R181, R335) -/

/-- No lattice port is ACTIVE. -/
def noneActive (s : State) : Bool := s.lports.all fun x => x.state ≠ 5

/-- The load of R49 on the link to the parent in TIMED. -/
def tryLoad (s : State) (p : Nat) : State :=
  let x := getLat s p
  if x.state ≠ 4 || s.time.parent ≠ some p || x.loadSt = 2 || !noneActive s then s
  else
    match x.mean with
    | none => s
    | some (off, _) =>
      let u := divEven off 16
      if u < 0 && anyRing s then
        if x.loadSt = 1 then s
        else codexHand (modPort s p fun x => { x with loadSt := 1 }) 0x20 0x80 0xFF (codexCause 0 p)
      else changeGtc (modPort s p fun x => { x with loadSt := 2 }) ((s.now : Int) + u).toNat 0

/-- The load, if any, is done: the parent's link waits for it. -/
def loadSettled (s : State) (p : Nat) : Bool :=
  (getLat s p).loadSt = 2 || s.time.isRoot || !noneActive s || s.time.parent ≠ some p

/-- LAG on entry to ACTIVE for a delay in 1/16 unit (R181). -/
def lagFor (delay : Int) : Nat :=
  let need := (delay + 1024).toNat
  let n := cdiv need 96
  n + n % 2

/-- A lattice port at a tick: R45 and READY in TIMED, entry to ACTIVE, the delay check of Table 12.7 in ACTIVE. -/
def portTick (s : State) (p : Nat) : State :=
  let x := getLat s p
  if x.state = 4 then
    let s := if s.time.rootPri = 255 then modPort s p fun x => { x with since := x.since + s.F } else s
    match x.mean with
    | none => modPort s p fun x => { x with near64 := 0 }
    | some (off, delay) =>
      if delay < 80 * 16 || delay > 3200 * 16 then preFail s p
      else
        let n := if off.natAbs ≤ 64 * 16 then x.near64 + 1 else 0
        let ready := x.ready || (s.time.rootPri < 255 && (s.time.locked || s.time.isRoot) && n ≥ 4 && loadSettled s p)
        let s := modPort s p fun x => { x with near64 := n, ready := ready }
        if ready && ((x.far.map (·.ready)).getD false) then
          let lag := lagFor delay
          modPort s p fun x => { x with state := 5, since := s.now, lag := lag }
        else s
  else if x.state = 5 then
    match x.mean with
    | none => s
    | some (_, delay) =>
      let l : Int := x.lag
      if delay < l * 96 - 3072 || delay > l * 96 - 256 then markDown s p 2 0xFF else s
  else s

/-- The time unit at a tick: measurements of the last folio apply (R13). -/
def timeTick (s : State) : State :=
  let s := modTime (takeMeans s) fun t => { t with prior := some (t.gtc, t.slew, t.offset, t.locked) }
  let s := timeTree s
  let s := (match s.time.parent with | some p => follow s p | none => s)
  let s := refTick s
  let s := (List.range 8).foldl portTick s
  let s := timeTree s
  (match s.time.parent with | some p => tryLoad s p | none => s)

/-! ## Reference (R28, R29, R53 to R56) -/

/-- GTC of a reference second in traceable mode; none where R29 refuses it. -/
def refGtc (s : State) (sec : Nat) : Option Gtc :=
  let e := s.time.epochSeconds.toNat
  if sec < e then none else
    let g := (sec - e) * 16000000000
    if g < 2 ^ 63 then some g else none

/-- A refused or lost reference: REF_LOST and its record (R29, R54). -/
def refRecord (s : State) (cause : Nat) : State :=
  codexHand (modTime (mark s 0x110008 3) fun t => { t with refLost := true }) 0x22 0x80 0xFF (codexCause cause 0)

/-- Two edges that lie one second apart on a clock within the limits of Table 23.8 and R47: 151 ppm (log 101). -/
def secondApart (a b : Gtc) : Bool := a - b ≤ 16000000000 + 2416000 && 16000000000 - 2416000 ≤ a - b

/-- The reference of REF_SELECT is valid now: for 1 the second of two 1PPS edges one second apart came in this cycle, and the
10 MHz input is there (R55). -/
def refValid (s : State) : Bool :=
  match refSelect s with
  | 1 => s.time.tenMhz && (match s.time.ppsEdges with | a :: b :: _ => decide (a = s.now) && secondApart a b | _ => false)
  | 2 => true
  | _ => false

/-- The whole second of GTC that lies nearest to where the reference is taken to be, less the GTC, in 2^-16 units: a whole
second is what an edge, or a PTP second, marks (Table 2.5). -/
def phaseOffset (s : State) : Int :=
  let at_ : Int := s.now + (s.time.refOffset.getD 0) / 65536
  (((at_ + 8000000000) / 16000000000) * 16000000000 - s.now) * 65536

/-- REF_ACQUIRE (R55): the reference becomes valid at the root for the first time since it leads. A root that is not traceable
has no second to take: it follows the reference's seconds by slewing (R53, Table 2.1). -/
def refAcquire (s : State) (sec : Nat) : State :=
  if !s.time.isRoot || s.time.acquired || !refValid s then s
  else if !s.time.traceable then
    modTime s fun t => { t with acquired := true, holdover := false, restartHold := false, refOffset := some (phaseOffset s) }
  else
    match refGtc s sec with
    | none => refRecord s 3
    | some g =>
      let r : Int := (g : Int) - s.now
      let s := modTime s fun t => { t with
        acquired := true, holdover := false, restartHold := false, refOffset := some (r * 65536) }
      if noneActive s && !anyRing s then modTime s fun t => { t with loadDue := true }
      else if r ≥ s.F then
        let s := modTime s fun t => { t with refStep := true }
        if s.time.step.isSome || setBusy s then s
        else announceStep s (s.folio + 8) (min (2 ^ 20) (r.toNat / s.F)) 2
      else s

/-- PPS_IN_EDGE (R53, R55): the unit keeps the stamps of the last two edges; at a root that follows them, a valid edge
measures the phase anew. -/
def ppsEdge (s : State) : State :=
  let s := modTime s fun t => { t with ppsEdges := (s.now :: t.ppsEdges).take 2 }
  if s.time.isRoot && s.time.acquired && !s.time.holdover && !s.time.loadDue && refSelect s = 1 && refValid s then
    modTime s fun t => { t with refOffset := some (phaseOffset s) }
  else s

/-- The cause belongs to the reference the root follows, with its number in the record. -/
def lossCause (s : State) (c : RefLossCause) : Option Nat :=
  match c with
  | .ppsMissed => if refSelect s = 1 then some 0 else none
  | .tenMhzLost => if refSelect s = 1 then some 1 else none
  | .ptpSilent => if refSelect s = 2 then some 2 else none

/-- The root enters holdover (R54): it keeps its frequency correction. -/
def holdover (s : State) (cause : Nat) : State :=
  refRecord (modTime s fun t => { t with
    holdover := true, restartHold := false, refOffset := none, refStep := false, loadDue := false }) cause

/-- What the input pins show of a loss: no edges any more, or no 10 MHz. -/
def inputLost (s : State) (c : RefLossCause) : State :=
  match c with
  | .ppsMissed => modTime s fun t => { t with ppsEdges := [] }
  | .tenMhzLost => modTime s fun t => { t with tenMhz := false }
  | .ptpSilent => s

/-- REF_LOSS (R54). -/
def refLoss (s : State) (c : RefLossCause) : State :=
  let n := lossCause s c
  let s := inputLost s c
  match n with
  | none => s
  | some n => if s.time.isRoot && (!s.time.holdover || s.time.restartHold) then holdover s n else s

/-- REF_RETURN (R54): the root slews toward the reference; it never steps. -/
def refReturn (s : State) (sec : Nat) : State :=
  let s := modTime s fun t => { t with tenMhz := true }
  if !s.time.isRoot || !s.time.holdover || s.time.restartHold || refSelect s = 0 then s
  else if !s.time.traceable then
    modTime s fun t => { t with holdover := false, acquired := true, refOffset := some (phaseOffset s) }
  else
    match refGtc s sec with
    | none => refRecord s 3
    | some g => modTime s fun t => { t with
        holdover := false, acquired := true, refOffset := some (((g : Int) - s.now) * 65536) }

/-- A firmware restart puts a PTP-referenced root into holdover (R56). -/
def restartHold (s : State) : State :=
  if s.time.isRoot && refSelect s = 2 && !s.time.holdover then
    refRecord (modTime s fun t => { t with holdover := true, restartHold := true }) 2
  else s

/-- Firmware runs again: that holdover ends, and the root follows PTP as before (R56). -/
def restartRelease (s : State) : State :=
  if s.time.restartHold then modTime s fun t => { t with holdover := false, restartHold := false } else s

/-! ## Folio size and 1PPS (R33, R57, R60) -/

/-- A write of TIM_CFG (R33, Table 2.7): a FOLIO_SIZE that differs from the one written last is accepted only with every
lattice port dark and no ring enabled; a refused write changes nothing else. -/
def timWrite (s : State) (v : W64) : State :=
  let size := fld v 0 2
  if size = fld s.time.cfg 0 2 then modTime s fun t => { t with cfg := v &&& 0x7FFF03 }
  else if size = 3 || !allDark s || anyRing s then
    modTime (mark s 0x110008 4) fun t => { t with cfgReject := true }
  else
    let at_ := (s.now / 98304 + 1) * 98304
    modTime s fun t => { t with cfg := v &&& 0x7FFF03, fsNext := some (size, at_) }

/-- The accepted folio size takes effect: at the GTC multiple of 98304, whose cycle fires a tick under every size, folio
numbers become those of the new size (R33). It runs before that tick fires; past the multiple, after a step, the number is the
one of the present GTC (log 43). -/
def sizeChange (s : State) : State :=
  match s.time.fsNext with
  | none => s
  | some (c, g) => modTime s fun t => { t with
      fsize := c, fsNext := none, tick := if g ≤ s.now then s.now / folioLen c else g / folioLen c - 1 }

/-- GTC at which the 1PPS output rises next: a multiple of one second, the present one while its cycle lasts and its pulse
has not begun (R57). -/
def ppsRiseAt (s : State) : Option Gtc :=
  let g0 := s.now / 16000000000 * 16000000000
  if !bitAt s.time.cfg 19 then none
  else if s.now < g0 + 13 && s.pkg.ppsHigh ≠ some (g0 + 160000) then some g0 else some (g0 + 16000000000)

/-- PPS_OUT_PULSE (R57): the output rises, for 10 µs from the multiple. -/
def ppsRise (s : State) : State :=
  { s with pkg := { s.pkg with ppsHigh := some (s.now / 16000000000 * 16000000000 + 160000) } }

/-- PPS_OUT_PULSE_END (R57): it falls. PPS_OUT_EN cleared during a pulse does not shorten it (DESIGN CHOICE, log 94). -/
def ppsFall (s : State) : State := { s with pkg := { s.pkg with ppsHigh := none } }

end Sys2Proof.Machine
end

