-- ==== Sys2Proof/Machine/Boot.lean ====
section
/-! DEFINITION. Boot.lean: resets, the initialisation of Table 21.1, the boot of firmware and its restarts, error
containment, fatal errors and the pins of the package (R22 to R25, R474 to R479, R506 to R519, R545 to R554). -/

namespace Sys2Proof.Machine

open Host (Outcome)

/-! ## Device reset (R508 to R510) -/

/-- Every block at its reset value; fuses, flash and the codex are kept, HBM until its zero fill, and the writer keeps
what was handed to it (Table 21.2). Of the outputs only FATAL_N and THERM_N stay while it is held (R554). -/
def deviceReset (s : State) : State :=
  let c := (codexDrain s).codex
  { State.reset with
    pending := s.pending, draws := s.draws, outbox := s.outbox, wlog := s.wlog, wipe := s.wipe, hbm := s.hbm
    pkg := { Pkg.reset with
      rails := s.pkg.rails, refclk := s.pkg.refclk, mgmtMode := s.pkg.mgmtMode, addrSel := s.pkg.addrSel
      testMode := s.pkg.testMode, perst := s.pkg.perst, fatalN := s.pkg.fatalN, thermN := s.pkg.thermN, inReset := true }
    codex := { c with freeAt := 0, overflowSeen := false, readMiss := false, readSeq := 0, ckAt := 0, ckPending := none }
    sec := { Sec.reset with
      ownerHash0 := s.sec.ownerHash0, ownerHash1 := s.sec.ownerHash1, svn := s.sec.svn
      debugDisabled := s.sec.debugDisabled, boot := s.sec.boot, imageA := s.sec.imageA, imageB := s.sec.imageB
      identCert := s.sec.identCert, attCert := s.sec.attCert } }

/-- The release of a device reset: ignored while the reference clock is not valid (R545). The outputs are driven again:
FATAL_N is released, and MGMT_ALERT_N follows THERM_N (R554). -/
def resetRelease (s : State) : State :=
  if s.pkg.refclk then
    { s with pkg := { s.pkg with inReset := false, perstReset := false, fatalN := false, alertN := s.pkg.thermN } }
  else s

/-! ## Fatal errors (R517, R518) -/

/-- The actions of R518; of two causes in one cycle the lower is recorded (Table 21.9). -/
def goFatal (s : State) (cause : Nat) (src : Source) : State :=
  if s.glb.fatal then
    if s.now = s.glb.fatalStamp && cause < s.glb.fatalCause then
      modGlb s fun g => { g with fatalCause := cause, fatalSource := src } else s
  else
    let s := modGlb (codexDrain (journalFlush (writeEvents s))) fun g => { g with
      fatal := true, fatalCause := cause, fatalSource := src, fatalStamp := s.now, fwHalted := true }
    emit { s with pkg := { s.pkg with fatalN := true, alertN := true } } (.aer 2)

/-! ## Images and boot control (R474 to R478) -/

/-- VALID 1, PENDING 2, INVALID 3. -/
def BootRec.state (b : BootRec) (slot : Nat) : Nat := if slot = 0 then b.slotA else b.slotB
def BootRec.set (b : BootRec) (slot st : Nat) : BootRec := if slot = 0 then { b with slotA := st } else { b with slotB := st }

/-- The boot control copy with the higher sequence number. -/
def bootRec (s : State) : BootRec :=
  s.sec.boot.foldl (fun b x => if x.seq > b.seq then x else b) (s.sec.boot.headD ⟨0, 0, 0, 0⟩)

/-- A change is written to the other copy under the next sequence number. -/
def bootWrite (s : State) (f : BootRec → BootRec) : State :=
  let b := bootRec s
  let new := { f b with seq := b.seq + 1 }
  modSec s fun x => { x with boot := match x.boot with
    | [p, q] => if p.seq ≥ q.seq then [p, new] else [new, q]
    | l => l }

def slotImage (s : State) (slot : Nat) : List Byte := if slot = 0 then s.sec.imageA else s.sec.imageB
def setImage (s : State) (slot : Nat) (bs : List Byte) : State :=
  modSec s fun x => if slot = 0 then { x with imageA := bs } else { x with imageB := bs }

/-- Effective owner hash of the fuses (R476). -/
def ownerFuse (s : State) : BitVec 256 := if s.sec.ownerHash1 ≠ 0 then s.sec.ownerHash1 else s.sec.ownerHash0

/-- A field of an image header. -/
def imgFld (img : List Byte) (off n : Nat) : Nat := natOf ((img.drop off).take n)

/-- An image verifies (R475, R476). -/
def imageOk (s : State) (img : List Byte) : Bool :=
  let head := img.take 64
  let len := imgFld img 12 4
  let part (off n : Nat) : List Byte := (img.drop off).take n
  let body := part 15840 len
  imgFld img 0 4 = 0x504C4B37 && len ≤ 15 * 2 ^ 20 - 16000 && body.length = len &&
    shaBits (part 64 32) = Config.vendorRootHash && Config.slhDsaVerify (part 64 32) head (part 96 7856) &&
    bytesOf (shaBits body) = part 16 32 && s.sec.svn ≤ imgFld img 4 1 % 128 && imgFld img 4 1 % 128 ≤ 64 &&
    (ownerFuse s = 0 ||
      (shaBits (part 7952 32) = ownerFuse s && Config.slhDsaVerify (part 7952 32) head (part 7984 7856)))

/-- A slot's image is the running one: its header in the measurements (R477, R483). -/
def loadImage (s : State) (slot : Nat) : State :=
  let img := slotImage s slot
  modSec s fun x => { x with
    slot := slot, fwSvn := imgFld img 4 1 % 128, fwVersion := imgFld img 8 4, bodyHash := ofBytes 256 ((img.drop 16).take 32)
    measured := true }

/-- A PENDING slot is marked INVALID and the other slot preferred, before its image starts (R478). -/
def spendPending (s : State) (slot : Nat) : State :=
  if (bootRec s).state slot = 2 then bootWrite s fun b => { b.set slot 3 with preferred := 1 - slot } else s

/-! ## Initialisation (Table 21.1, R506, R507) -/

/-- INIT_DONE: the manager domain takes its granules, and a missing attestation-key certificate is asked for (R482,
R507). -/
def initCheck (s : State) : State :=
  let g := s.glb
  if g.bridgeUp && g.hbmReady && g.tablesReady && g.filled.contains 5 && g.filled.contains 4 && g.fwRunning && !g.initDone then
    let s := modGlb s fun g => { g with initDone := true }
    let s := { s with doms := tput s.doms 64 (Domain.new DomCfg.manager) }
    if s.sec.attCert.isEmpty then sigPump (modSec s fun x => { x with certQ := true }) else s
  else s

/-- Place of a granule in the order of the fill after reset: 0 to 3, then 5, 4, and 6 up. -/
def fillOrder (g : Nat) : Nat := if g = 5 then 4 else if g = 4 then 5 else g

/-- Granules of that fill that are done. -/
def fillDone (s : State) : Nat := (s.glb.filled.filter fun g => g < 4).length + s.glb.ready

/-- The zero fill of a granule ends: the next one of the fill after reset, or one released since (R275). -/
def fillEnd (s : State) (g : Nat) : State :=
  let n := fillDone s
  if s.glb.filled.contains g || !s.glb.hbmReady || n < fillOrder g then s
  else
    let s := { s with
      wipe := g :: s.wipe
      hbm := { s.hbm with poison := s.hbm.poison.filter fun l => ¬ (l / 2 ^ 24 = g) } }
    let s := modGlb s fun b => { b with
      filled := g :: b.filled, ready := if fillOrder g = n && 4 ≤ g then b.ready + 1 else b.ready
      tablesReady := b.tablesReady || fillOrder g = 3 }
    initCheck s

/-- The slots the ROM tries, in order: the preferred one if VALID or PENDING, then the other if VALID (R477). -/
def bootOrder (b : BootRec) : List Nat :=
  (if b.state b.preferred = 1 || b.state b.preferred = 2 then [b.preferred] else []) ++
    (if b.state (1 - b.preferred) = 1 then [1 - b.preferred] else [])

/-- The first slot, from the `from_`-th tried on, whose image verifies. -/
def bootChoice (s : State) (from_ : Nat) : Option Nat :=
  ((bootOrder (bootRec s)).drop from_).find? fun k => imageOk s (slotImage s k)

/-- The ROM starts the image it chooses; with none it stays in recovery (R477 to R479). -/
def romTry (s : State) (from_ : Nat) : State :=
  let s := modSec s fun x => { x with sensed := true, ownerHash := ownerFuse s }
  match bootChoice s from_ with
  | some k => initCheck (modGlb (loadImage (spendPending s k) k) fun g => { g with fwRunning := true })
  | none => codexHand (modGlb s fun g => { g with recovery := true }) 0x12 0x090 0xFF 0

/-! ## Firmware restarts (R22 to R25) -/

/-- Stamps of the restarts in the 10 s window that the first of them opened (R24, Table 2.2). -/
def restartWindow (ts : List Gtc) (now : Gtc) : List Gtc :=
  match ts with
  | t :: _ => if now < t + 160000000000 then ts ++ [now] else [now]
  | [] => [now]

/-- A restart begins: cause 0 watchdog, 1 activation, 2 management bus. An activation is not counted; the third other one
in 10 s halts firmware (R24, R490). -/
def beginRestart (s : State) (cause : Nat) : State :=
  let recent := if cause = 1 then s.fw.restarts else restartWindow s.fw.restarts s.now
  let s := bump (codexHand s 0x10 0x090 0xFF (codexCause cause 0)) (devCnt 10) 1
  let s := restartHold (clearStaging { s with fw := { s.fw with restarting := some cause, restarts := recent } })
  -- an update in progress is aborted; what firmware held for SPDM and the codex is dropped (Table 1.11, R485, R499)
  let s := match s.sec.staging with
    | some (cmd, slot, _) =>
      let s := bootWrite (modSec s fun x => { x with staging := none }) fun b => b.set slot 3
      { s with fw := { s.fw with redo := s.fw.redo ++ cmd.toList } }
    | none => s
  let s := modCodex (modSec s fun x => { x with
    spdmQ := [], ckptQ := none
    signing := match x.signing with | some (.spdm r) => some (.spdm { r with code := 0 }) | j => j }) fun c => { c with ckPending := none }
  if cause ≠ 1 && recent.length ≥ 3 then
    codexHand (modGlb { s with fw := { s.fw with restarting := none } } fun g => { g with fwHalted := true }) 0x11 0x090 0xFF 0
  else s

/-- Firmware runs again: it re-reads the manager commands it had not completed, and admission goes on (R22, R23). -/
def restartEnd (s : State) : State :=
  match s.fw.restarting with
  | none => s
  | some _ =>
    let redo := s.fw.redo.filter fun d => ¬ s.mgrSq.handed.contains d
    attestResume (restartRelease { s with
      fw := { s.fw with restarting := none, redo := [] }, mgrSq := { s.mgrSq with handed := redo ++ s.mgrSq.handed } })

/-! ## Containment (R513 to R516) -/

/-- The HBM_UNCORRECTABLE record of R515. -/
def structRecord (s : State) (code obj : Nat) : State := aerContained (codexHand s 0x61 0x3FF 0xFF (codexCause code obj))

/-- The descriptor a QP is working on. -/
def currentOp (q : Qp) : Option Nat := (q.ops.find? fun o => match o.phase with | .done _ => false | _ => true).map (·.idx)

/-- A key slot that is lost: its QPs and jobs end KEY_INVALID. -/
def loseKey (s : State) (slot : Nat) : State :=
  let s := { s with keys := zeroKeys s.keys fun n _ => n = slot }
  let s := s.qps.foldl (fun s e =>
    if e.2.sealed && e.2.hadPeer && e.2.state ≠ .reset && (e.2.txSlot = slot || e.2.rxSlot = slot) then
      enterError s e.1 (currentOp e.2) 0xC 3 true else s) s
  (s.zoo.jobs.filter fun j => j.2.kind = 3 && j.2.keySlot = slot).foldl (fun s j => killJob s j.1 0xC) s

/-- A trigger counter that is lost: 0, and the QPs whose pairs watch it enter ERROR. -/
def loseTrig (s : State) (t : Nat) : State :=
  let s := { s with trig := tdel s.trig t }
  s.qps.foldl (fun s e =>
    if e.2.pairs.any fun p => dfld p.slot 16 0 16 = t then enterError s e.1 none 0xA 3 true else s) s

/-- The reduction slots in use, numbered over communicators and their collectives: communicator, collective and the slot's
place in its grant. -/
def slotUsers (s : State) : List (Nat × Nat × Nat) :=
  s.col.comms.flatMap fun e => e.2.run.flatMap fun c => (List.range (e.2.slots + c.granted)).map fun j => (e.1, c.idx, j)

/-- A reduction slot that is lost: every block it holds is poisoned (R215). -/
def loseSlot (s : State) (n : Nat) : State :=
  match (slotUsers s)[n]? with
  | none => s
  | some (comm, idx, j) =>
    { s with col := { s.col with comms := tupd s.col.comms comm fun m =>
        let run := m.run.map fun c => if c.idx = idx then
          { c with acc := c.acc.map fun e => if e.1 % max 1 (m.slots + c.granted) = j then (e.1, e.2.map fun _ => none) else e } else c
        { m with run := run } } }

/-- A held cell that is lost: the oldest stashed cell of a QP of that number, or else the oldest one absorbed on that
plane. -/
def loseCell (s : State) (n : Nat) : State :=
  match (getQp s n).map fun q => (q, q.stash) with
  | some (q, _ :: rest) => bumpDom (modQp s n fun q => { q with stash := rest }) (qpDom s q) 10 1
  | _ =>
    match absorbOf s (n % 2) with
    | a :: rest => dropCell (setAbsorb s (n % 2) rest) a.port (cellDom s a.cell) a.cell
    | [] => s

/-- The line buffer of MOV engine `e` is lost: its job reads the lines again. -/
def bufferLost (s : State) (e : Nat) : State :=
  s.zoo.jobs.foldl (fun s x =>
    if x.2.kind ≠ 5 || x.2.engine ≠ some e then s else
      let s := closeEmptyFaults (modXl s fun t => { t with accesses := t.accesses.filter fun a => match a.who with | .mov i _ => i ≠ x.1 | _ => true })
      let s := modJob s x.1 fun j => { j with buffer := [] }
      if x.2.pieces = [] then s else movCollect (movAhead s x.1)) s

/-- Table 21.5. -/
def structLost (s : State) (code obj : Nat) : State :=
  let s := match code with
    | 1 => match getQp s obj with
      | some q => enterError s obj (currentOp q) 0xA 3 true
      | none => s
    | 2 => { s with regions := tupd s.regions obj fun r => { r with valid := false } }
    | 3 => loseKey s obj
    | 4 => loseTrig s obj
    | 5 => loseSlot s obj
    | 6 => modLat s fun l => { l with routes := tdel l.routes obj }
    | 7 => voidFlow s obj
    | 8 => loseCell s obj
    | 9 => match (getMac s obj).buffer with
      | _ :: rest => flowGen (dropFrame (modMac s obj fun m => { m with buffer := rest }) obj 4) obj
      | [] => s
    | 10 => bufferLost s obj
    | 11 => killJob s obj 0xA
    | _ => s
  settleAll (structRecord s code obj)

/-- An uncorrectable bridge word: a cell is lost and counted, an HBM line poisoned for its access, which is of this cycle;
BRIDGE_LIMIT of them in 1 ms are fatal (R516). -/
def bridgeBad (s : State) (line : Option Nat) : State :=
  let s := match line with
    | none => modLat s fun l => { l with drops := l.drops + 1 }
    | some l => modCyc s fun c => { c with bridged := l :: c.bridged }
  let s := aerContained s
  let fresh := match s.glb.bridgeWin with | some g => decide (g + 16000000 ≤ s.now) | none => true
  let s := modGlb s fun g => { g with
    bridgeWin := if fresh then some s.now else g.bridgeWin, bridgeCount := if fresh then 1 else g.bridgeCount + 1 }
  if s.glb.bridgeCount ≥ max 1 (fld s.glb.errCfg 8 8) then goFatal s 2 0x3FF else s

/-- THERM_N (Table 23.7); MGMT_ALERT_N with it (R554). -/
def thermal (s : State) (die hbm : Int) : State :=
  if die ≥ 100 || hbm ≥ 95 then
    { s with pkg := { s.pkg with thermN := true, alertN := s.pkg.alertN || (!s.pkg.thermN && !s.pkg.inReset) } }
  else if die < 95 && hbm < 90 then { s with pkg := { s.pkg with thermN := false } }
  else s

end Sys2Proof.Machine
end

