-- ==== Sys2Proof/Machine/Security.lean ====
section
/-! DEFINITION. Security.lean: owner binding, anti-rollback, certificates, firmware update and the SPDM responder (R480 to
R486, R490). -/

namespace Sys2Proof.Machine

open Host (Outcome)

/-! ## Owner, SVN, certificates (R480 to R482) -/

/-- "PLK-BIND" -/
def bindTag : List Byte := [0x50, 0x4C, 0x4B, 0x2D, 0x42, 0x49, 0x4E, 0x44]

/-- SEC_OWNER_BIND: the hash applies from the next boot. -/
def ownerBind (s : State) (d : Line) : State :=
  match readBlock s (dfld d 16 0 39) 7888 with
  | none => mgrFail s d 3
  | some bs =>
    let key := bs.take 32
    if !Config.slhDsaVerify key (Config.identityKey ++ bindTag) (bs.drop 32) then mgrFail s d 3
    else if s.sec.ownerHash0 ≠ 0 && s.sec.ownerHash1 ≠ 0 then mgrFail s d 2
    else mgrOk (modSec s fun x =>
      if x.ownerHash0 = 0 then { x with ownerHash0 := shaBits key } else { x with ownerHash1 := shaBits key }) d

/-- SEC_SVN_COMMIT: the running slot is VALID and PREFERRED. -/
def svnCommit (s : State) (d : Line) : State :=
  if (bootRec s).state (1 - s.sec.slot) = 2 then mgrFail s d 2
  else
    let s := modSec s fun x => { x with svn := min 64 (max x.svn x.fwSvn) }
    mgrOk (bootWrite s fun b => { b.set s.sec.slot 1 with preferred := s.sec.slot }) d

/-- Length of a DER object with a two-byte length, which a certificate of this size has. -/
def derLength (head : List Byte) : Option Nat :=
  match head with
  | [t, f, h, l] => if t = 0x30 && f = 0x82 then some (h.toNat * 256 + l.toNat + 4) else none
  | _ => none

/-- SEC_CERT_INSTALL. -/
def certInstall (s : State) (d : Line) (names : Bool) : State :=
  let off := dfld d 16 0 39
  match ((readBlock s off 4).bind derLength).bind fun n => readBlock s off n with
  | some bs =>
    if !names then mgrFail s d 3
    else
      let s := mgrOk (modSec s fun x => { x with identCert := bs }) d
      sigPump ((List.range 8).foldl (fun s p => attestVerify (attestStart s p) p) s)
  | none => mgrFail s d 3

/-! ## Firmware update (R490) -/

/-- The slot an update is written to: the one that is not running; in recovery, where none is, slot A. -/
def updateSlot (s : State) : Nat := if s.glb.recovery then 0 else 1 - s.sec.slot

/-- An image starts to be written: its slot is INVALID until it has been verified (Table 19.7). -/
def stageImage (s : State) (cmd : Option Line) (img : List Byte) : State :=
  let k := updateSlot s
  bootWrite (modSec (setImage s k []) fun x => { x with staging := some (cmd, k, img) }) fun b => b.set k 3

/-- FW_STAGE: one image at a time. -/
def fwStage (s : State) (d : Line) : State :=
  let len := dfld d 24 0 32
  if s.sec.staging.isSome then mgrFail s d 2
  else if len > 15 * 2 ^ 20 then mgrFail s d 3
  else match readBlock s (dfld d 16 0 39) len with
    | none => mgrFail s d 3
    | some img => stageImage s (some d) img

/-- A halted firmware is reloaded from the management bus (R24): the image that has verified starts, and the count of restarts
begins anew. -/
def reload (s : State) (k : Nat) : State :=
  let s := loadImage (spendPending (modGlb s fun g => { g with fwHalted := false }) k) k
  beginRestart { s with fw := { s.fw with restarts := [] } } 2

/-- The image has been written, and is verified where it lies: PENDING and PREFERRED, or INVALID. -/
def updateEnd (s : State) : State :=
  match s.sec.staging with
  | none => s
  | some (cmd, k, img) =>
    let s := setImage (modSec s fun x => { x with staging := none }) k img
    let ok := imageOk s img
    let s := if ok then bootWrite s fun b => { b.set k 2 with preferred := k } else s
    match cmd with
    | some d => if ok then mgrOk s d else mgrFail s d 3
    | none =>
      let s := mctpEmit s (.mctpUpdate (b2n !ok))
      if ok && s.glb.fwHalted then reload s k else s

/-- FW_ACTIVATE: the PENDING slot is verified again, spent, and its image started; SPDM sessions end. -/
def fwActivate (s : State) (d : Line) : State :=
  let b := bootRec s
  match [0, 1].find? fun k => b.state k = 2 with
  | none => mgrFail s d 2
  | some k =>
    if !imageOk s (slotImage s k) then mgrFail s d 3
    else
      let s := loadImage (spendPending s k) k
      beginRestart (mgrOk (modSec s fun x => { x with sessions := [] }) d) 1

/-! ## SPDM (R484, R485) -/

/-- ERROR response with an error code of SPDM. -/
def spdmError (s : State) (bus : SpdmBus) (code : Nat) : State := spdmEmit s bus 0x7F [BitVec.ofNat 8 code]

/-- A response that needs no signature. -/
def spdmAnswer (s : State) (bus : SpdmBus) (code : Nat) (args : List Nat) (extra : List Byte := []) : State :=
  spdmEmit s bus code (Config.spdmBytes code args ++ extra)

/-- What a bus has agreed so far: version, capabilities, algorithms. -/
def spdmAgreed (s : State) (bus : SpdmBus) : Bool × Bool × Bool :=
  match bus with | .doe => s.sec.spdmDoe | .mctp => s.sec.spdmMctp
def setAgreed (s : State) (bus : SpdmBus) (a : Bool × Bool × Bool) : State :=
  match bus with
  | .doe => modSec s fun x => { x with spdmDoe := a }
  | .mctp => modSec s fun x => { x with spdmMctp := a }

/-- Requests are answered while firmware runs and, over DOE, while the host reaches PF0 (R22, R484). -/
def spdmHeard (s : State) (bus : SpdmBus) : Bool :=
  fwAlive s && (match bus with | .doe => s.cxl.linkUp && s.glb.initDone | .mctp => true)

/-- The effect of an SPDM request that needs the algorithms agreed: UnexpectedRequest before. -/
def spdmReady (s : State) (bus : SpdmBus) (f : State → State) : State :=
  if !spdmHeard s bus then s
  else if (spdmAgreed s bus).2.2 then f s else spdmError s bus 0x04

/-- A request that needs a signature joins the queue (R485); with a certificate absent it is refused (R482). -/
def spdmSign (s : State) (bus : SpdmBus) (code : Nat) (args : List Nat) : State :=
  if !certReady s then spdmError s bus 0x07
  else sigPump (modSec s fun x => { x with spdmQ := x.spdmQ ++ [⟨bus, code, args, s.now⟩] })

/-- Indices of measurements a request asks for (R483): 0 asks for their number. -/
def measIndices (i : Nat) : Option (List Nat) :=
  let all := [1, 2, 3, 4, 5, 6] ++ (List.range 65).map (· + 0x10)
  if i = 0 then some [] else if i = 0xFF then some all else if all.contains i then some [i] else none

/-- GET_MEASUREMENTS (R483, R484). -/
def getMeasurements (s : State) (bus : SpdmBus) (i : Nat) (nonce : BitVec 256) (signed : Bool) : State :=
  match measIndices i with
  | none => spdmError s bus 0x01
  | some is =>
    let args := i :: nonce.toNat :: is.map fun k => (measValue s k).toNat
    if signed then spdmSign s bus 0x60 args else spdmAnswer s bus 0x60 args

/-- KEY_EXCHANGE (R485): four sessions over both transports. -/
def keyExchange (s : State) (bus : SpdmBus) (reqId : Nat) : State :=
  if s.sec.sessions.length ≥ 4 then spdmError s bus 0x0A
  else if !certReady s then spdmError s bus 0x07
  else
    let id := s.sec.nextSession
    spdmSign (modSec s fun x => { x with nextSession := id + 1, sessions := x.sessions ++ [⟨id, bus, false⟩] }) bus 0x64 [reqId, id]

/-- A session of a bus. -/
def getSession (s : State) (bus : SpdmBus) (id : Nat) : Option Session :=
  s.sec.sessions.find? fun x => x.id = id && x.bus = bus
def dropSession (s : State) (id : Nat) : State :=
  modSec s fun x => { x with sessions := x.sessions.filter fun y => y.id ≠ id }

/-- FINISH: the session is established, or ends when the requester's data is wrong. -/
def finishSession (s : State) (bus : SpdmBus) (id : Nat) (ok : Bool) : State :=
  match getSession s bus id with
  | none => spdmError s bus 0x02
  | some x =>
    if x.established then spdmError s bus 0x04
    else if !ok then spdmError (dropSession s id) bus 0x06
    else spdmAnswer (modSec s fun y => { y with
      sessions := y.sessions.map fun z => if z.id = id then { z with established := true } else z }) bus 0x65 [id]

/-- A request of an established session. -/
def inSession (s : State) (bus : SpdmBus) (id : Nat) (f : State → State) : State :=
  match getSession s bus id with
  | some x => if x.established then f s else spdmError s bus 0x04
  | none => spdmError s bus 0x02

end Sys2Proof.Machine
end

