-- ==== Sys2Proof/Machine/Counters.lean ====
section
/-! DEFINITION. Counters.lean: latching, device and carrel dumps, bandwidth windows and the sampler (R458 to R470). -/

namespace Sys2Proof.Machine

open Host (Outcome)

/-- Every byte of a range of PF0's allocation exists (R460, R466). -/
def pf0Covers (s : State) (off len : Nat) : Bool :=
  match getDom s 64 with
  | some d => allocCovers d.cfg off len
  | none => false

/-- Dump period in folios, as a power of two (Table 18.6). -/
def dumpEvery (s : State) : Nat := 2 ^ min 10 (fld s.cnt.dumpCfg.inForce 4 4)

/-- Header of a dump at tick `k` (Table 18.1). -/
def dumpHeader (s : State) (k src kind carrel seq len : Nat) (stepped : Bool) (prev bwEnd : Nat) : List Byte :=
  bytesOf (layout 512 [(0, 64, k * s.F), (64, 12, src), (80, 8, kind), (88, 8, carrel), (96, 32, seq), (128, 64, k),
    (192, 32, len), (224, 2, s.time.fsize), (226, 1, b2n stepped), (227, 1, b2n s.cnt.commit), (256, 64, prev), (320, 64, bwEnd)])

/-- Counters as bytes: `n` of them from a key, eight bytes a counter. -/
def cntBytes (t : Tbl Nat) (key step n : Nat) : List Byte := (List.range n).flatMap fun i => leBytes 8 (tget t (key + step * i) 0)

/-- The bandwidth window reported: the one that has just closed, or the last. -/
def bwReport (s : State) : Nat × Tbl Nat := s.cnt.bwDue.getD (s.cnt.bwEnd, s.cnt.bwLast)

/-- A device dump (Table 18.2). -/
def deviceDump (s : State) (k : Nat) : List Byte :=
  let r := bwReport s
  dumpHeader s k 0x3FF 1 0xFF s.cnt.dumpSeq 18880 s.cnt.stepped s.cnt.prevTick r.1 ++
    cntBytes s.cnt.latched 64 8 2032 ++ cntBytes r.2 0 1 64 ++ cntBytes s.cnt.latchedProg 0 1 256

/-- Counters of PROGRAMMABLE a carrel sees: CARREL_EN with its number (R468). -/
def visibleTo (s : State) (c i : Nat) : Bool :=
  match s.cnt.sel.lookup i with
  | some r => bitAt r.inForce 10 && fld r.inForce 11 7 = c
  | none => false

/-- A carrel dump (R468). -/
def carrelDump (s : State) (k c : Nat) (r : CarrelRing) : List Byte :=
  let vis : BitVec 256 := (List.range 256).foldl (fun x i => if visibleTo s c i then x ||| (1#256 <<< i) else x) 0
  dumpHeader s k (0x300 + c) 2 c r.seq 2304 r.stepped r.prevTick 0 ++ cntBytes s.cnt.latched (domCnt c 0) 8 16 ++
    bytesOf vis ++ List.replicate 32 0 ++
    (List.range 256).flatMap fun i => leBytes 8 (if visibleTo s c i then tget s.cnt.latchedProg i 0 else 0)

/-! ## At a tick -/

/-- Every counter is latched (R459), and the bandwidth window whose close tick this is ends (R463). -/
def latchTick (s : State) : State :=
  let k := s.folio
  let n := max 1 (fld s.cnt.bwCfg.inForce 0 16)
  let s := modCnt s fun c => { c with latched := c.fixed, latchedProg := c.prog, commit := false }
  if s.cnt.bwFrom ≥ k then modCnt s fun c => { c with
    bwOpen := [], bwFrom := if c.bwFrom > k + n then cdiv k n * n else c.bwFrom }
  else if s.cnt.bwFrom + n ≤ k then modCnt s fun c => { c with bwDue := some (c.bwFrom + n, c.bwOpen), bwOpen := [], bwFrom := k / n * n }
  else s

/-- The window whose close tick has come closes, and its bytes become reportable. -/
def bwClose (s : State) : State :=
  match s.cnt.bwDue with
  | some (k, t) => modCnt s fun c => { c with bwDue := none, bwEnd := k, bwLast := t }
  | none => s

/-- A new value takes effect. -/
def Rwt.commit (r : Rwt) : Rwt := { r with inForce := r.written }
def Rwt.changes (r : Rwt) : Bool := r.written ≠ r.inForce

/-- New dump, sampler and bandwidth settings take effect (R460, R463, R466). -/
def cntCommit (s : State) : State :=
  let k := s.folio
  modCnt s fun c =>
    let c := if c.dumpBase.changes || c.dumpCfg.changes then { c with dumpSeq := 0, prevTick := 0 } else c
    let c := if c.sampleBase.changes || c.sampleCfg.changes then { c with sampleSeq := 0, samples := [] } else c
    let n := max 1 (fld c.bwCfg.written 0 16)
    let c := if c.bwCfg.changes then { c with bwOpen := [], bwFrom := cdiv k n * n } else c
    { c with
      dumpBase := c.dumpBase.commit, dumpCfg := c.dumpCfg.commit, sampleBase := c.sampleBase.commit
      sampleCfg := c.sampleCfg.commit, bwCfg := c.bwCfg.commit
      carrelRings := c.carrelNext.foldl (fun t e => tput t e.1 e.2) c.carrelRings, carrelNext := [] }

/-- New selections take effect: their counters restart (R464). -/
def selCommit (s : State) : State :=
  modCnt s fun c => { c with
    prog := c.sel.foldl (fun t e => if e.2.changes then tput t e.1 0 else t) c.prog
    sel := tmap c.sel fun _ r => r.commit }

/-- The device dump of a tick (R460). -/
def dumpDevice (s : State) : State :=
  let k := s.folio
  let n := min 12 (fld s.cnt.dumpCfg.inForce 0 4)
  let off := fld s.cnt.dumpBase.inForce 6 33 * 64 + 18880 * (s.cnt.dumpSeq % 2 ^ n)
  if !bitAt s.cnt.dumpCfg.inForce 8 || k % dumpEvery s ≠ 0 then s
  else
    let s := if pf0Covers s off 18880 then modCnt (wrAlloc s 64 off (deviceDump s k)) fun c => { c with lastDump := k }
      else mark (modCnt s fun c => { c with dumpMiss := true }) 0x1F0028 0
    modCnt s fun c => { c with dumpSeq := (c.dumpSeq + 1) % 2 ^ 32, prevTick := k, stepped := false }

/-- The carrel dumps of a tick (R468). -/
def dumpCarrels (s : State) : State :=
  let k := s.folio
  if k % dumpEvery s ≠ 0 then s
  else s.cnt.carrelRings.foldl (fun s e =>
    let r := e.2
    if !r.enable then s
    else
      let off := r.offset + 2304 * (r.seq % 2 ^ r.log2)
      let ok := match getDom s e.1 with | some d => allocCovers d.cfg off 2304 | none => false
      if ok then
        modCnt (wrAlloc s e.1 off (carrelDump s k e.1 r)) fun c => { c with
          carrelRings := tupd c.carrelRings e.1 fun r => { r with seq := (r.seq + 1) % 2 ^ 32, prevTick := k, stepped := false } }
      else mark (modCnt s fun c => { c with carrelMiss := true }) 0x1F0028 1) s

/-- What the counters do at a tick once configurations have committed: settings, dumps, then selections (Table 18.7). -/
def cntTick (s : State) : State := selCommit (dumpCarrels (dumpDevice (cntCommit s)))

/-! ## Commands of the manager and the sampler -/

/-- CNT_CARREL_DUMP (R467): in force at the next tick. -/
def carrelDumpSet (s : State) (d : Line) : State :=
  let c := dfld d 16 0 7
  let off := dfld d 20 0 39
  let n := dfld d 28 0 4
  let r : CarrelRing := { offset := off, log2 := n, enable := dbit d 28 4, seq := 0, prevTick := 0, stepped := false }
  if c ≥ 64 then mgrFail s d 3
  else match getDom s c with
    | none => mgrFail s d 1
    | some x =>
      if off % 64 ≠ 0 || !allocNamed x.cfg off (2304 * 2 ^ n) then mgrFail s d 3
      else if r.enable && leaving s c off (2304 * 2 ^ n) then mgrFail s d 2
      else mgrOk (modCnt s fun t => { t with carrelNext := tput t.carrelNext c r }) d

/-- A sample record (Table 18.5). -/
def sampleRec (s : State) (e : SampleEvent) (skid : Nat) : Line :=
  let i := fld s.cnt.sampleCfg.inForce 0 8
  let code := match s.cnt.sel.lookup i with | some r => fld r.inForce 0 8 | none => 0
  layout 512 [(0, 64, e.stamp), (64, 12, e.source), (80, 8, code), (88, 8, e.carrel), (96, 32, s.cnt.sampleSeq), (128, 8, i),
    (136, 2, skid), (138, 2, e.cls), (160, 20, e.qp), (192, 57, e.va), (256, 12, e.ctx), (268, 4, e.seg), (288, 32, e.units)]

/-- The oldest sample that was raised is captured; it describes the event `skid` after the crossing one, if that has come
(R466). -/
def capture (s : State) (skid : Nat) : State :=
  match s.cnt.samples with
  | [] => s
  | x :: rest =>
    match x.events[skid]? with
    | none => s
    | some e =>
      let off := fld s.cnt.sampleBase.inForce 6 33 * 64 + 64 * (s.cnt.sampleSeq % 2 ^ fld s.cnt.sampleCfg.inForce 8 5)
      let s := if pf0Covers s off 64 then wrAlloc s 64 off (bytesOf (sampleRec s e skid))
        else mark (modCnt s fun c => { c with sampleMiss := true }) 0x1F0028 2
      bump (modCnt s fun c => { c with samples := rest, sampleSeq := (c.sampleSeq + 1) % 2 ^ 32 }) (devCnt 14) 1

/-- The last of the 16 cycles in which the oldest sample must be captured: which of the events so far it describes is free
(R466). -/
def captureDue (s : State) : State :=
  match s.cnt.samples with
  | [] => s
  | x :: _ => let d := draw s 2; capture d.2 (d.1.toNat % max 1 x.events.length)

end Sys2Proof.Machine
end

