-- ==== Sys2Proof/Machine/Swap.lean ====
section
/-! DEFINITION. Swap.lean: export and import of a carrel, and the log of its allocation (R439 to R442). -/

namespace Sys2Proof.Config

/-- What the body of an image written by another adapter holds (R439 leaves the body to the device; log 58). -/
opaque importedBody : List Byte → Machine.Export

end Sys2Proof.Config

namespace Sys2Proof.Machine

open Host (Outcome)

/-! ## Export (R439) -/

/-- Bound on the length of an image. -/
def exportBound (f : DomCfg) : Nat :=
  65536 + 320 * f.qpCount + 64 * f.regionCount + 1024 * f.ctxCount + 4 * f.trigCount + 128 * f.deferredQuota + 256 * f.commQuota

/-- Bytes 16 to 63 of the SEG_SET that sets an entry. -/
def segEntry (c i : Nat) (g : Seg) : List Byte :=
  bytesOf (layout 384 [(0, 12, c), (16, 4, i), (24, 3, g.target), (27, 1, b2n g.pinned), (28, 1, b2n g.policy), (29, 1, b2n g.invAbort),
    (30, 1, b2n g.uio), (64, 57, g.base), (128, 48, g.len), (192, 64, g.tbase)])

/-- Segment entries of a carrel, in context and index order; withdrawn ones are gone. -/
def carrelSegs (s : State) (c : Nat) : List (List Byte) :=
  (s.xl.ctxs.filter fun e => e.2.dom = c).flatMap fun e =>
    (e.2.segs.filter fun g => g.2.withdrawn.isNone).map fun g => segEntry e.1 g.1 g.2

/-- What the body of a carrel's image holds. -/
def snapshot (s : State) (c : Nat) (f : DomCfg) (body : List Byte) : Export :=
  let qps := s.qps.filter fun e => f.qpBase ≤ e.1 && e.1 < f.qpBase + f.qpCount
  let slots := qps.flatMap fun e => if e.2.sealed then [e.2.txSlot, e.2.rxSlot] else []
  { body := body
    qps := tmap qps fun _ q => { q with sqdWait := none, flushWait := [] }
    kcvs := slots.filterMap fun k => (heldKey s k).map fun x => (k, x.kcv)
    regions := (s.regions.filter fun e => f.regionBase ≤ e.1 && e.1 < f.regionBase + f.regionCount && e.2.valid)
    ctxs := tmap (s.xl.ctxs.filter fun e => e.2.dom = c) fun _ x => { x with segs := [] }
    trig := s.trig.filter fun e => f.trigBase ≤ e.1 && e.1 < f.trigBase + f.trigCount
    comms := s.col.comms.filter fun e => fnDom s e.2.fn = some c
    cqs := s.cqs.filter fun e => fnDom s e.1 = some c
    eqs := s.fns.filterMap fun e => if fnDom s e.1 = some c then e.2.eq.map fun q => (e.1, q) else none }

/-- CARREL_EXPORT: header, descriptor, segment entries and a body of 64 bytes whose values the spec leaves to the device. -/
def carrelExport (s : State) (d : Line) : State :=
  let c := dfld d 16 0 6
  let off := dfld d 24 0 39
  match getDom s c with
  | none => mgrFail s d 1
  | some dom =>
    if !dom.quiesced then mgrFail s d 2
    else if dfld d 32 0 32 < exportBound dom.cfg || !domNamed s 64 off (dfld d 32 0 32) then mgrFail s d 3
    else
      let (b, s) := draw s 512
      let body := bytesOf b
      let segs := carrelSegs s c
      let segOff := 64 + 704
      let bodyOff := segOff + 48 * segs.length
      let head : Line := layout 512 [(0, 8, 1), (16, 10, myCoord s), (32, 32, (crc32c body).toNat), (64, 32, segOff), (96, 32, segs.length),
        (128, 32, bodyOff), (160, 32, 64)]
      let s := wrAlloc s 64 off (bytesOf head ++ carrelBytes c dom.cfg ++ segs.flatten ++ body)
      mgrOk { s with exports := snapshot s c dom.cfg body :: s.exports } d (bodyOff + 64)

/-! ## Import (R440) -/

/-- The carrel owns an object. -/
def ownsObjects (s : State) (c : Nat) (f : DomCfg) : Bool :=
  (s.qps.any fun e => f.qpBase ≤ e.1 && e.1 < f.qpBase + f.qpCount) || (s.regions.any fun e => f.regionBase ≤ e.1 && e.1 < f.regionBase + f.regionCount) ||
  (s.xl.ctxs.any fun e => e.2.dom = c) || commCount s c ≠ 0

/-- Same bases, counts at least those of the image. -/
def rangesFit (f g : DomCfg) : Bool :=
  f.qpBase = g.qpBase && f.regionBase = g.regionBase && f.ctxBase = g.ctxBase && f.keyBase = g.keyBase && f.trigBase = g.trigBase &&
  g.qpCount ≤ f.qpCount && g.regionCount ≤ f.regionCount && g.ctxCount ≤ f.ctxCount && g.keyCount ≤ f.keyCount && g.trigCount ≤ f.trigCount

/-- Set a segment of the image, none where R404 refuses it. -/
def importSeg (s : State) (c : Nat) (e : List Byte) : Option State :=
  let d : Line := ofBytes 512 (List.replicate 16 0 ++ e)
  let g := segOf d
  (getCtx s (dfld d 16 0 12)).bind fun x =>
    if x.dom ≠ c || (x.segs.lookup (dfld d 18 0 4)).isSome || !segFields g || !segTarget s c g ||
        (x.segs.any fun e => e.2.base < g.base + g.len && g.base < e.2.base + e.2.len) then none
    else match (if g.pinned then pinRange s x [(dfld d 18 0 4, g, g.base, g.len)] [] else Except.ok s) with
      | .error _ => none
      | .ok s => some (modCtx s (dfld d 16 0 12) fun x => { x with segs := tput x.segs (dfld d 18 0 4) g })

/-- QPs as they arrive: a local read that was under way starts again. -/
def importQp (q : Qp) : Qp :=
  let again (o : SendOp) : SendOp :=
    if o.phase = .reading then { o with phase := .queued, staged := [], bad := [], toRead := 0 }
    else if o.toRead > 0 then { o with staged := o.staged.take o.ready, toRead := 0 } else o
  { q with ops := q.ops.map again, reads := q.reads.map fun r => if r.toRead > 0 then { r with started := false, staged := [], toRead := 0 } else r }

/-- QPs that enter ERROR on arrival: sealed ones whose slot holds another key, COLLECTIVE ones on another coordinate. No descriptor
causes it: the event carries KEY_INVALID and CAUSE 3 (DESIGN CHOICE, log 116). -/
def importErrors (s : State) (x : Export) (moved : Bool) : State :=
  x.qps.foldl (fun s e =>
    let q := e.2
    let stale := q.sealed && q.hadPeer && [q.txSlot, q.rxSlot].any fun k =>
      x.kcvs.lookup k ≠ (heldKey s k).map (·.kcv)
    if stale || (moved && q.type = 2) then enterError s e.1 none 0xC 3 true else s) s

/-- Event rings as they arrive. -/
def importEqs (s : State) (l : Tbl CqRing) : State :=
  l.foldl (fun s e => modFn s e.1 fun f => { f with eq := some e.2 }) s

/-- What a body stands for: the snapshot this adapter wrote it for, otherwise what another adapter put into it, of which the
objects inside the ranges and functions of the importing carrel arrive (log 58). -/
def bodyOf (s : State) (c : Nat) (f : DomCfg) (body : List Byte) : Export :=
  match s.exports.find? fun x => x.body = body with
  | some x => x
  | none =>
    let x := Config.importedBody body
    let mine (n : Nat) : Bool := fnDom s n = some c
    { x with
      qps := x.qps.filter fun e => f.qpBase ≤ e.1 && e.1 < f.qpBase + f.qpCount && mine e.2.fn
      regions := x.regions.filter fun e => f.regionBase ≤ e.1 && e.1 < f.regionBase + f.regionCount && mine e.2.fn
      ctxs := x.ctxs.filter fun e => f.ctxBase ≤ e.1 && e.1 < f.ctxBase + f.ctxCount
      trig := x.trig.filter fun e => f.trigBase ≤ e.1 && e.1 < f.trigBase + f.trigCount
      comms := x.comms.filter fun e => mine e.2.fn, cqs := x.cqs.filter fun e => mine e.1, eqs := x.eqs.filter fun e => mine e.1 }

/-- CARREL_IMPORT. -/
def carrelImport (s : State) (d : Line) : State :=
  let c := dfld d 16 0 6
  let off := dfld d 24 0 39
  match getDom s c with
  | none => mgrFail s d 1
  | some dom =>
    if !dom.suspended || ownsObjects s c dom.cfg then mgrFail s d 2
    else if !domNamed s 64 off 768 || allocPoison s 64 off 768 then mgrFail s d 3
    else match rdAlloc s 64 off 768 with
      | none => mgrFail s d 3
      | some h =>
        if !rangesFit dom.cfg (parseCarrel (h.drop 64)).2 then mgrFail s d 2
        else
          let bo := bfld h 16 0 32
          let bl := bfld h 20 0 32
          let so := bfld h 8 0 32
          let sn := bfld h 12 0 32
          let ok (o n : Nat) : Bool := domNamed s 64 (off + o) n && !allocPoison s 64 (off + o) n
          match (if ok bo bl then rdAlloc s 64 (off + bo) bl else none), (if ok so (48 * sn) then rdAlloc s 64 (off + so) (48 * sn) else none) with
          | some body, some segs =>
              let x := bodyOf s c dom.cfg body
              if (crc32c body).toNat ≠ bfld h 4 0 32 || bfld h 0 0 8 ≠ 1 then mgrFail s d 3
              else
                let withCtx := modXl s fun t => { t with ctxs := x.ctxs.foldl (fun t e => tput t e.1 { e.2 with dom := c }) t.ctxs }
                match (List.range sn).foldl (fun s i => s.bind fun s => importSeg s c ((segs.drop (48 * i)).take 48)) (some withCtx) with
                | none => mgrFail s d 3
                | some s =>
                  let moved := decide (bfld h 2 0 10 ≠ myCoord s)
                  let s := { s with
                    qps := x.qps.foldl (fun t e => tput t e.1 (importQp e.2)) s.qps
                    regions := x.regions.foldl (fun t e => tput t e.1 e.2) s.regions
                    regionGen := x.regions.foldl (fun t e => tput t e.1 e.2.gen) s.regionGen
                    trig := x.trig.foldl (fun t e => tput t e.1 e.2) s.trig
                    cqs := x.cqs.foldl (fun t e => tput t e.1 e.2) s.cqs
                    col := { s.col with comms := if moved then s.col.comms else x.comms.foldl (fun t e => tput t e.1 e.2) s.col.comms } }
                  mgrOk (importErrors (importEqs s x.eqs) x moved) d
          | _, _ => mgrFail s d 3

/-! ## ALLOC_DIRTY (R442) -/

/-- ALLOC_DIRTY. -/
def allocDirty (s : State) (d : Line) : State :=
  let c := dfld d 16 0 6
  let op := dfld d 17 0 2
  match getDom s c with
  | none => mgrFail s d 1
  | some dom =>
    let len := (dom.cfg.granules.length - dom.cfg.transport) * 32768
    match logCommand s dom.allocLog op (dfld d 24 0 39) (dfld d 32 0 39) len d with
    | .error r => mgrFail s d r
    | .ok (s, l) =>
      let s := modDom s c fun x => { x with allocLog := some l }
      if op = 1 then s else mgrOk s d

/-- Allocation logs at a tick: every write so far has landed. -/
def allocDirtyTick (s : State) : State :=
  s.doms.foldl (fun s e =>
    match e.2.allocLog with
    | none => s
    | some l =>
      let r := logAtTick s l fun _ => false
      let s := modDom s e.1 fun x => { x with allocLog := r.1 }
      match r.2 with
      | some (d, i) => mgrOk s d i
      | none => s) s

end Sys2Proof.Machine
end

