-- ==== Sys2Proof/Machine/Flags.lean ====
section
/-! DEFINITION. Flags.lean: what each register of BAR0 and of a VF BAR reads as: the status words computed from State, bit
by bit as their field maps say, and the set-up words as written (R522 to R536). -/

namespace Sys2Proof.Machine

/-! ## Words -/

/-- A register from its fields: (low bit, width, value). -/
def word (fs : List (Nat × Nat × Nat)) : W64 := layout 64 fs

/-- Index of a register in an array of `n` registers from offset `base`. -/
def arrayAt (o base n : Nat) : Option Nat := if base ≤ o && o < base + 8 * n then some ((o - base) / 8) else none

/-- A signed value held in `w` bits. -/
def signedIn (w : Nat) (v : Int) : Nat := (BitVec.ofInt w v).toNat

/-- Number of set bits among the first `n`. -/
def bitCount {n : Nat} (x : BitVec n) : Nat := ((List.range n).filter fun i => bitAt x i).length

/-! ## GLB and TIM (Tables 21.8, 22.5, 22.6, 2.8) -/

def glbStatus (s : State) : W64 :=
  let g := s.glb
  word [(0, 1, b2n g.bridgeUp), (1, 1, b2n g.hbmReady), (2, 1, b2n g.tablesReady), (3, 1, b2n (fwAlive s)),
    (4, 1, b2n g.initDone), (5, 1, b2n g.fatal), (6, 1, b2n g.recovery), (7, 1, b2n g.fwHalted), (16, 9, g.ready)]

def glbReg (s : State) (o : Nat) : W64 :=
  match o with
  | 0x00 => word [(0, 16, 0x7264), (16, 8, 0x01), (32, 16, 0x1E98)]
  | 0x08 => glbStatus s
  | 0x10 => word [(0, 8, s.glb.fatalCause), (8, 12, s.glb.fatalSource)]
  | 0x18 => BitVec.ofNat 64 s.glb.fatalStamp
  | 0x20 => s.glb.errCfg
  | 0x30 => word [(0, 1, b2n s.glb.narrowSeen), (1, 1, b2n s.glb.mgmtWriteSeen), (8, 24, s.glb.lastOffset)]
  | _ => 0

/-- OFFSET: the last folio's offset in GTC units, saturating (Table 2.8). -/
def timOffset (t : TimeUnit) : Nat := signedIn 16 (max (-32767) (min 32767 (divEven t.offset 16)))

def timStatus (t : TimeUnit) : W64 :=
  word [(0, 1, b2n t.locked), (1, 1, b2n t.isRoot), (2, 1, b2n t.holdover), (3, 1, b2n t.refLost), (4, 1, b2n t.cfgReject),
    (5, 1, b2n t.stepSeen), (8, 6, min 63 t.depth), (16, 16, timOffset t), (32, 10, t.rootIdx), (48, 8, t.rootPri)]

def timReg (s : State) (o : Nat) : W64 :=
  match o with
  | 0x00 => s.time.cfg
  | 0x08 => timStatus s.time
  | 0x10 => BitVec.ofNat 64 s.now
  | 0x18 => s.time.epochSeconds
  | _ => match arrayAt o 0x40 8 with | some p => lget s.time.asym p 0 | none => 0

/-! ## CAL, OPT, LAT, SCH (Tables 12.9 to 12.12, 5.1, 5.9, 5.10, 6.13, 17.2, 17.3) -/

def calStatus (s : State) (i : Nat) : W64 :=
  let c := lget s.cals i Cal.reset
  let lat := i < 8
  let x := getLat s i
  word [(0, 3, if lat then x.state else 0), (3, 1, b2n c.degraded), (4, 1, b2n (decide lat && x.damped)), (5, 1, b2n c.downSeen),
    (8, 4, if lat then c.lastCause else 0), (16, 16, sat 65535 c.bitsLast), (32, 16, sat 65535 c.uncorr), (48, 8, sat 255 c.fails)]

def optStatus (s : State) (e : Nat) : W64 :=
  let x := getEng s e
  word [(0, 8, signedIn 8 x.temp), (8, 1, b2n x.laserLow), (9, 1, b2n x.hot), (10, 1, b2n x.shutdown),
    (11, 1, b2n x.heaterLimit), (16, 8, sat 255 x.laserPwr)]

def calReg (s : State) (o : Nat) : W64 :=
  if o = 0 then s.calCfg.written else match arrayAt o 0x40 12 with | some i => calStatus s i | none => 0

def optReg (s : State) (o : Nat) : W64 :=
  if o = 0 then s.optCfg else match arrayAt o 0x80 16 with | some e => optStatus s e | none => 0

/-- PORT_UP: bit n while Ln is active (Table 5.10). -/
def portsUp (s : State) : Nat := ((List.range 8).map fun p => if live s p then 2 ^ p else 0).sum

def latStatus (s : State) : W64 :=
  word [(0, 1, s.lat.epoch), (1, 1, b2n s.lat.switch.isSome), (2, 1, b2n s.lat.oldUntil.isSome), (3, 1, b2n s.lat.tableMiss),
    (4, 1, b2n s.lat.cfgReject), (8, 8, portsUp s)]

def latReg (s : State) (o : Nat) : W64 :=
  match o with
  | 0x00 => s.lat.cfg
  | 0x08 => latStatus s
  | 0x10 => s.lat.ccCfg.written
  | _ => 0

def schStatus (s : State) : W64 :=
  let c := s.sched
  word [(0, 1, b2n c.active.isSome), (1, 1, b2n c.contLink.isSome), (2, 1, b2n (c.pending.isSome || switchWaits s)),
    (3, 1, b2n c.lateBase), (4, 1, b2n c.loadError),
    (5, 1, b2n (match c.lastLoaded with | some id => latticeHas s id | none => false)), (8, 8, c.loadRule),
    (16, 12, c.contLink.getD 0), (32, 16, c.voids.length)]

def schPolice (s : State) (c : Nat) : W64 :=
  let p := tget s.police c ⟨0, 0, false⟩
  word [(0, 1, b2n p.limitSeen), (8, 32, sat (2 ^ 32 - 1) p.count), (40, 24, sat (2 ^ 24 - 1) p.drops)]

def schReg (s : State) (o : Nat) : W64 :=
  match o with
  | 0x00 => schStatus s
  | 0x08 => BitVec.ofNat 64 (s.sched.active.getD 0)
  | 0x10 => s.prioWeight.written
  | _ =>
    match arrayAt o 0x40 8, arrayAt o 0x400 65 with
    | some p, _ => word [(0, 16, schLag s p)]
    | none, some c => schPolice s c
    | none, none => 0

/-! ## NPT and MAC (Tables 11.10, 11.11, 13.7 to 13.9) -/

def nptStatus (p : NearPort) : W64 :=
  word [(0, 3, p.state), (3, 1, b2n p.scRead), (4, 1, b2n p.cfgReject), (5, 1, b2n p.downSeen), (8, 8, sat 255 p.resets),
    (16, 16, sat 65535 p.delay), (32, 16, sat 65535 p.lateSc)]

def nptReg (s : State) (o : Nat) : W64 :=
  match arrayAt o 0 4, arrayAt o 0x40 4, arrayAt o 0x80 4 with
  | some n, _, _ => let p := getNear s n; word [(0, 1, b2n p.enable), (1, 2, p.modeNext.getD p.mode)]
  | _, some n, _ => nptStatus (getNear s n)
  | _, _, some n => (getNear s n).bind.written
  | _, _, _ => 0

/-- TX_PAUSED and RX_XOFF; link PAUSE holds every priority (Table 13.9). -/
def pausedBits (ks : List Nat) (all : Bool) : Nat :=
  if all then (if ks.isEmpty then 0 else 0xFF) else (ks.map (2 ^ ·)).sum

def macStatus (s : State) (k : Nat) : W64 :=
  let m := getMac s k
  word [(0, 1, b2n m.linkUp), (1, 1, b2n m.fecLock), (2, 1, b2n m.localFault), (3, 1, b2n m.remoteFault), (4, 1, b2n m.hiSer),
    (5, 1, b2n (!pauseHonoured s k)), (6, 1, b2n m.brokenSeen), (7, 1, b2n m.dropSeen),
    (8, 8, pausedBits (m.pauses.map (·.1)) false), (16, 8, pausedBits (m.xoff.map (·.1)) (pauseMode s k = 1))]

def macReg (s : State) (o : Nat) : W64 :=
  match arrayAt o 0 8, arrayAt o 0x80 16, arrayAt o 0x100 16, arrayAt o 0x180 16 with
  | some e, _, _, _ => (lget s.macCfg e (rwt 0)).written
  | _, some k, _, _ => (getMac s k).addr
  | _, _, some k, _ => (getMac s k).pfc.written
  | _, _, _, some k => macStatus s k
  | _, _, _, _ => 0

/-! ## CXL, HDM, CAR (Tables 14.7 to 14.9, 16.10, 16.11, 22.8) -/

def cxlStatus (c : Cxl) : W64 :=
  word [(0, 1, b2n c.linkUp), (1, 1, b2n c.ideSecure), (2, 1, b2n c.lossSeen), (3, 1, b2n c.retrainSeen), (4, 1, b2n c.ideFail),
    (8, 5, if c.linkUp then c.width else 0), (13, 3, if c.linkUp then c.speed else 0), (16, 1, b2n (c.linkUp && c.flit256)),
    (24, 8, sat 255 c.losses), (32, 16, sat 65535 c.retrains)]

def cxlReg (s : State) (o : Nat) : W64 :=
  match o with
  | 0 => s.cxl.cfg
  | 8 => cxlStatus s.cxl
  | _ => 0

def hdmReg (s : State) (o : Nat) : W64 :=
  match arrayAt o 0 5 with
  | some i => (lget s.cxl.hdmAccess i (rwt 0)).written
  | none =>
    if o = 0x40 then
      word [(0, 1, b2n s.cxl.hdmBase.isSome), (1, 1, b2n s.cxl.deniedSeen), (8, 32, sat (2 ^ 32 - 1) s.cxl.denied)]
    else 0

/-- A change of the domain commits at the next tick. -/
def changeWaits (s : State) (c : Nat) (d : Option Domain) : Bool :=
  (s.stages.lookup c).isSome ||
  (match d with | some d => d.suspendNext.isSome || d.destroyNext.isSome || !d.schedNext.isEmpty | none => false)

def carStatus (s : State) (c : Nat) : W64 :=
  let staged := b2n (changeWaits s c (getDom s c))
  match getDom s c with
  | none => word [(3, 1, staged)]
  | some d => word [(0, 2, if d.suspended then 2 else 1), (2, 1, b2n d.quiesced), (3, 1, staged),
      (4, 1, b2n (d.allocLog.bind fun l => l.bitmap s.folio).isSome),
      (8, 9, (d.cfg.granules.filter (· ≠ hole)).length), (32, 10, bitCount d.cfg.vfs)]

def vfStateCode : VfState → Nat
  | .disabled => 0
  | .enabled => 1
  | .quiescing => 2

/-- CARREL of a VF: 0x7F while in none. -/
def vfCarrel (s : State) (n : Nat) : Nat := (fnDom s n).getD 0x7F

def carVf (s : State) (n : Nat) : W64 :=
  let f := getFn s n
  word [(0, 1, b2n f.enable), (1, 2, vfStateCode f.state), (3, 1, b2n (f.enableNext || (f.state = .quiescing && f.endEnabled))), (4, 1, b2n f.resetSeen),
    (8, 7, vfCarrel s n), (16, 16, sat 65535 f.resets)]

def carVfStatus (s : State) (n : Nat) : W64 :=
  let susp := ((fnDom s n).bind fun c => getDom s c).map (·.suspended)
  word [(0, 2, vfStateCode (getFn s n).state), (2, 1, b2n (susp.getD false)), (16, 7, vfCarrel s n)]

def carReg (s : State) (o : Nat) : W64 :=
  match arrayAt o 0 65, arrayAt o 0x1000 512 with
  | some c, _ => carStatus s c
  | none, some i => carVf s (i + 1)
  | none, none => 0

/-! ## TRN, COL, ENG, KEY (Tables 3.2, 3.14, 15.8, 22.3, 22.7, 9.8, 9.9, 10.1) -/

def ctlCfgReg (f : Fn) : W64 := f.ctlCfg ||| word [(19, 1, b2n f.ctlErr)]

def journalCfgReg (s : State) : W64 :=
  s.journal.cfg ||| word [(7, 1, b2n (decide (s.journal.writes ≥ 2 ^ fld s.journal.cfg 0 5)))]

def xlatStatus (s : State) : W64 :=
  word [(0, 13, (s.xl.faults.filter fun f => !f.resolved).length), (16, 22, s.xl.pinned.length),
    (38, 1, b2n (s.fns.any fun e => e.2.priStopped)), (39, 1, b2n s.xl.faultFullSeen)]

def trnReg (s : State) (o : Nat) : W64 :=
  match o with
  | 0x00 => (getFn s 0).ctlBase
  | 0x08 => ctlCfgReg (getFn s 0)
  | 0x10 => s.mgrBase
  | 0x18 => s.mgrCfg ||| word [(19, 1, b2n s.mgrErr)]
  | 0x20 => s.journal.base
  | 0x28 => journalCfgReg s
  | 0x30 => s.xl.logBase
  | 0x38 => s.xl.logCfg ||| word [(32, 32, s.xl.logWrites)]
  | 0x40 => xlatStatus s
  | _ => 0

def colStatus (s : State) : W64 :=
  word [(0, 12, sharedFree s), (12, 12, (s.col.comms.map (·.2.slots)).sum), (24, 16, sat 65535 s.col.fifo.length),
    (40, 1, b2n s.col.noSlotSeen), (41, 13, s.col.comms.length)]

def engReg (s : State) (o : Nat) : W64 :=
  match o with
  | 0x00 => word (s.zoo.fenced.map fun b => (b, 1, 1))
  | 0x08 => s.zoo.scrubCfg.written
  | 0x10 => word [(0, 24, sat (2 ^ 24 - 1) s.zoo.passes), (24, 24, sat (2 ^ 24 - 1) s.zoo.corrected),
      (48, 16, sat 65535 s.zoo.uncorrected)]
  | _ => 0

/-- KEY_SLOT_INFO[slot]: no key byte is in it. -/
def slotInfo (s : State) (slot : Nat) : W64 :=
  let pool := match slotCarrel s slot with
    | some c => word [(40, 6, c), (46, 1, 1)]
    | none => 0
  match s.keys.lookup slot with
  | none => pool
  | some k => pool ||| word [(0, 2, k.kind), (2, 3, k.du), (5, 1, b2n (!k.used)), (6, 10, k.owner), (16, 24, k.kcv)]

def keyReg (s : State) (o : Nat) : W64 :=
  let k := s.keyLoad
  match o with
  | 0x00 => k.ctl
  | 0x08 => word [(0, 1, b2n k.error), (1, 3, k.code), (8, 8, k.mask), (16, 24, k.kcv)]
  | _ => match arrayAt o 0x4000 2048 with | some n => slotInfo s n | none => 0

/-! ## CNT, SEC, CDX (Tables 18.6, 19.6, 20.4) -/

/-- A CNT_SEL entry nothing has written. -/
def selReset : Rwt := rwt 0x0000FFF000000000

def cntReg (s : State) (o : Nat) : W64 :=
  let c := s.cnt
  match o with
  | 0x00 => c.dumpBase.written
  | 0x08 => c.dumpCfg.written
  | 0x10 => c.bwCfg.written
  | 0x18 => c.sampleBase.written
  | 0x20 => c.sampleCfg.written
  | 0x28 => word [(0, 1, b2n c.dumpMiss), (1, 1, b2n c.carrelMiss), (2, 1, b2n c.sampleMiss), (8, 56, c.lastDump)]
  | _ => match arrayAt o 0x800 256 with | some i => (tget c.sel i selReset).written | none => 0

/-- Table 19.6. The fuse fields read their reset value 0 until the ROM has sensed the fuses (example of R479). -/
def secReg (s : State) (o : Nat) : W64 :=
  match o with
  | 0 => word [(0, 1, s.sec.slot), (1, 2, (bootRec s).slotA), (3, 2, (bootRec s).slotB),
      (5, 1, b2n (s.sec.sensed && decide (ownerFuse s ≠ 0))), (6, 1, b2n (s.sec.sensed && s.sec.debugDisabled)),
      (7, 1, b2n (certReady s)), (8, 7, if s.sec.sensed then s.sec.svn else 0),
      (16, 7, s.sec.fwSvn), (32, 32, s.sec.fwVersion)]
  | 8 => s.sec.policy
  | _ => 0

/-- The record whose SEQUENCE is in CDX_READ_SEQ (R502). -/
def cdxSelected (s : State) : Option CodexRec := codexFind s.codex (fld s.codex.readSeq 0 32)

def cdxReg (s : State) (o : Nat) : W64 :=
  let c := s.codex
  match o with
  | 0x00 => word [(0, 32, c.nextSeq), (32, 13, c.first.length), (45, 1, b2n c.overflowSeen), (46, 1, b2n c.readMiss)]
  | 0x08 => word [(0, 32, c.clearCount), (32, 32, (c.ring.getLast?.map (·.seq)).getD 0)]
  | 0x10 => c.readSeq
  | _ =>
    match arrayAt o 0x80 16, cdxSelected s with
    | some i, some r => ofBytes 64 (((codexLine r).drop (8 * i)).take 8)
    | _, _ => 0

/-! ## The register file (Tables 22.1, 22.2, 22.4, 22.9) -/

/-- The block register at offset `o` of the block at `b` (0x10 is GLB). -/
def blockReg (s : State) (b o : Nat) : W64 :=
  match b with
  | 0x10 => glbReg s o
  | 0x11 => timReg s o
  | 0x12 => calReg s o
  | 0x13 => optReg s o
  | 0x14 => latReg s o
  | 0x15 => schReg s o
  | 0x16 => nptReg s o
  | 0x17 => macReg s o
  | 0x18 => cxlReg s o
  | 0x19 => hdmReg s o
  | 0x1A => carReg s o
  | 0x1B => trnReg s o
  | 0x1C => if o = 0 then colStatus s else 0
  | 0x1D => engReg s o
  | 0x1E => keyReg s o
  | 0x1F => cntReg s o
  | 0x20 => secReg s o
  | 0x21 => cdxReg s o
  | _ => 0

/-- BAR0 offset of the register a block and an offset in it name. -/
def inBlocks (off : Nat) : Bool := 0x100000 ≤ off && off < 0x220000
/-- BAR0 offset inside the compatibility block. -/
def inCompat (off : Nat) : Bool := 0xF00000 ≤ off && off < 0xF00800

/-- A compatibility register: MAC_COMPAT_LAYOUT, or counter i of MAC e (R536). -/
def compatReg (s : State) (off : Nat) : W64 :=
  let o := off - 0xF00000
  if o = 0x400 then word [(0, 8, 8), (8, 8, 11), (16, 16, 0x80)]
  else if o < 0x400 && o % 0x80 / 8 < 11 then BitVec.ofNat 64 (tget s.compat (11 * (o / 0x80) + o % 0x80 / 8) 0)
  else 0

end Sys2Proof.Machine
end

