-- ==== Sys2Proof/Machine/Registers.lean ====
section
/-! DEFINITION. Registers.lean: writes of registers, over a BAR and over the management bus, and the reads that have a row
(R522 to R536, R4, R15, R376, R553). -/

namespace Sys2Proof.Machine

open Host (Outcome)

/-! ## Access (R522, R535) -/

/-- An access R522 refuses. -/
def narrowSeen (s : State) (off : Nat) : State :=
  modGlb (mark s 0x100030 0) fun g => { g with narrowSeen := true, lastOffset := off / 256 }
/-- A management-bus write R535 ignores. -/
def mgmtIgnoredWrite (s : State) (off : Nat) : State :=
  modGlb (mark s 0x100030 1) fun g => { g with mgmtWriteSeen := true, lastOffset := off / 256 }

/-- An RWT register is written: the value reads back at once (R15). -/
def Rwt.write (r : Rwt) (v : W64) : Rwt := { r with written := v }

/-! ## Writes of block registers, by block -/

/-- GLB (Tables 21.8, 22.6); GLB_CTL acts only with its key (R509). -/
def glbWrite (s : State) (o : Nat) (v : W64) : State :=
  match o with
  | 0x20 => modGlb s fun g => { g with errCfg := v &&& 0xFF01 }
  | 0x28 => if fld v 0 8 = 0xD5 && bitAt v 8 then resetRelease (deviceReset s) else s
  | 0x30 => modGlb s fun g => { g with
      narrowSeen := g.narrowSeen && !bitAt v 0, mgmtWriteSeen := g.mgmtWriteSeen && !bitAt v 1 }
  | _ => s

/-- TIM (Tables 2.7, 2.8, R62). -/
def timRegWrite (s : State) (o : Nat) (v : W64) : State :=
  match o with
  | 0x00 => timWrite s v
  | 0x08 => modTime s fun t => { t with
      refLost := t.refLost && !bitAt v 3, cfgReject := t.cfgReject && !bitAt v 4, stepSeen := t.stepSeen && !bitAt v 5 }
  | 0x18 => modTime s fun t => { t with epochSeconds := v }
  | _ =>
    match arrayAt o 0x40 8 with
    | some p => modTime s fun t => { t with asym := lmod t.asym p fun _ => v &&& 0xFFFFF }
    | none => s

/-- CAL (Tables 12.11, 12.12). -/
def calWrite (s : State) (o : Nat) (v : W64) : State :=
  if o = 0 then { s with calCfg := s.calCfg.write (v &&& 0x7FFFFFFFF) } else
    match arrayAt o 0x40 12 with
    | some i => modCal s i fun c => { c with degraded := c.degraded && !bitAt v 3, downSeen := c.downSeen && !bitAt v 5 }
    | none => s

/-- OPT (Tables 12.9, 12.10). -/
def optRegWrite (s : State) (o : Nat) (v : W64) : State :=
  if o = 0 then optWrite s v else
    match arrayAt o 0x80 16 with
    | some e => modEng s e fun g => { g with heaterLimit := g.heaterLimit && !bitAt v 11 }
    | none => s

/-- LAT (Tables 5.1, 5.9, 5.10). -/
def latRegWrite (s : State) (o : Nat) (v : W64) : State :=
  match o with
  | 0x00 => latCfgWrite s v
  | 0x08 => modLat s fun l => { l with tableMiss := l.tableMiss && !bitAt v 3, cfgReject := l.cfgReject && !bitAt v 4 }
  | 0x10 => modLat s fun l => { l with ccCfg := l.ccCfg.write (v &&& 0x1FFFFFFFFFFFF) }
  | _ => s

/-- SCH (Tables 6.13, 17.2, 17.3). -/
def schWrite (s : State) (o : Nat) (v : W64) : State :=
  match o with
  | 0x00 => modSched s fun c => { c with lateBase := c.lateBase && !bitAt v 3, loadError := c.loadError && !bitAt v 4 }
  | 0x10 => { s with prioWeight := s.prioWeight.write v }
  | _ =>
    match arrayAt o 0x400 65 with
    | some c => { s with police := tupd s.police c fun p => { p with limitSeen := p.limitSeen && !bitAt v 0 } }
    | none => s

/-- NPT (Tables 11.10, 11.11, R322). -/
def nptRegWrite (s : State) (o : Nat) (v : W64) : State :=
  match arrayAt o 0 4, arrayAt o 0x40 4, arrayAt o 0x80 4 with
  | some n, _, _ => nptWrite s n v
  | _, some n, _ => modNear s n fun p => { p with cfgReject := p.cfgReject && !bitAt v 4, downSeen := p.downSeen && !bitAt v 5 }
  | _, _, some n => modNear s n fun p => { p with bind := p.bind.write v }
  | _, _, _ => s

/-- MAC (Tables 13.7 to 13.9, R373). -/
def macWrite (s : State) (o : Nat) (v : W64) : State :=
  match arrayAt o 0 8, arrayAt o 0x80 16, arrayAt o 0x100 16, arrayAt o 0x180 16 with
  | some e, _, _, _ => { s with macCfg := lmod s.macCfg e fun r => r.write (v &&& 0xFFFFFFFFFFFFFF) }
  | _, some k, _, _ => modMac s k fun m => { m with addr := v &&& 0xFFFFFFFFFFFF }
  | _, _, some k, _ => modMac s k fun m => { m with pfc := m.pfc.write (v &&& 0x1FFFFFFFFFFFF) }
  | _, _, _, some k => modMac s k fun m => { m with brokenSeen := m.brokenSeen && !bitAt v 6, dropSeen := m.dropSeen && !bitAt v 7 }
  | _, _, _, _ => s

/-- CXL (Tables 14.7, 14.8). -/
def cxlWrite (s : State) (o : Nat) (v : W64) : State :=
  match o with
  | 0 => modCxl s fun c => { c with cfg := v &&& 7 }
  | 8 => modCxl s fun c => { c with
      lossSeen := c.lossSeen && !bitAt v 2, retrainSeen := c.retrainSeen && !bitAt v 3, ideFail := c.ideFail && !bitAt v 4 }
  | _ => s

/-- Writable bits of HDM_ACCESS[i] (R400). -/
def hdmMask (i : Nat) : W64 := if i = 0 then 0xFFFFFFFFFFFFFFF0 else if i = 4 then 0xFFFFFFFF else 0xFFFFFFFFFFFFFFFF

/-- HDM (R400, Table 14.9). -/
def hdmWrite (s : State) (o : Nat) (v : W64) : State :=
  match arrayAt o 0 5 with
  | some i => modCxl s fun c => { c with hdmAccess := lmod c.hdmAccess i fun r => r.write (v &&& hdmMask i) }
  | none => if o = 0x40 then modCxl s fun c => { c with deniedSeen := c.deniedSeen && !bitAt v 1 } else s

/-- CAR (Table 16.11). -/
def carWrite (s : State) (o : Nat) (v : W64) : State :=
  match arrayAt o 0x1000 512 with
  | some i => vfWrite s (i + 1) v
  | none => s

/-- TRN_CTL_CFG of a function (Table 3.2). -/
def ctlWrite (s : State) (fn : Nat) (v : W64) : State :=
  let v := unmarked s (0x4000000 + fn) v
  let s := if fn = 0 then s else modCyc s fun c => { c with ctlWas := c.ctlWas ++ [(fn, getFn s fn)] }
  if bitAt v 4 then ctlEnable s fn v else ctlDisable s fn v

/-- TRN_CTL_BASE of a function (R64): the ring takes it when it is enabled next. -/
def ctlBaseWrite (s : State) (fn : Nat) (v : W64) : State := modFn s fn fun f => { f with ctlBase := v &&& 0x1FFFFFFFFFFFFC0 }

/-- TRN (Tables 22.3, 3.14, 15.8). -/
def trnWrite (s : State) (o : Nat) (v : W64) : State :=
  match o with
  | 0x00 => ctlBaseWrite s 0 v
  | 0x08 => ctlWrite s 0 v
  | 0x10 => { s with mgrBase := v &&& 0x7FFFFFFFC0 }
  | 0x18 => if bitAt v 4 then mgrEnable s v else mgrDisable s v
  | 0x20 => journalDrain (journalHeader { s with journal := { s.journal with base := v &&& 0x7FFFFFF000 } })
  | 0x28 => journalWrite s v
  | 0x30 => modXl s fun x => { x with logBase := v &&& 0x7FFFFFFFC0 }
  | 0x38 =>
    let n := fld v 0 5
    modXl s fun x => { x with logCfg := word [(0, 5, n), (5, 1, b2n (bitAt v 5 && 6 ≤ n && n ≤ 16))] }
  | 0x40 => modXl s fun x => { x with faultFullSeen := x.faultFullSeen && !bitAt v 39 }
  | _ => s

/-- ENG (Table 9.9): PERIOD_H waits for the tick, ENABLE acts at once. -/
def engWrite (s : State) (o : Nat) (v : W64) : State :=
  if o = 8 then
    let r := s.zoo.scrubCfg
    { s with zoo := { s.zoo with scrubCfg := { written := v &&& 0x1FF, inForce := (r.inForce &&& 0xFF) ||| (v &&& 0x100) } } }
  else s

/-- KEY (Table 10.1, R534). -/
def keyWrite (s : State) (o : Nat) (v : W64) : State :=
  match o with
  | 0x00 =>
    if fld v 40 2 = 1 then keyGo s v true
    else if fld v 40 2 = 2 then keyGo s v false
    else { s with keyLoad := { s.keyLoad with ctl := v &&& 0x3FF1F07FF } }
  | 0x08 => { s with keyLoad := { s.keyLoad with error := s.keyLoad.error && !bitAt v 0 } }
  | _ => match arrayAt o 0x40 8 with
    | some i => keyStage s i v
    | none => s

/-- CNT (Table 18.6). -/
def cntWrite (s : State) (o : Nat) (v : W64) : State :=
  modCnt s fun c =>
    match o with
    | 0x00 => { c with dumpBase := c.dumpBase.write (v &&& 0x7FFFFFFFC0) }
    | 0x08 => { c with dumpCfg := c.dumpCfg.write (v &&& 0x1FF) }
    | 0x10 => { c with bwCfg := c.bwCfg.write (v &&& 0xFFFF) }
    | 0x18 => { c with sampleBase := c.sampleBase.write (v &&& 0x7FFFFFFFC0) }
    | 0x20 => { c with sampleCfg := c.sampleCfg.write (v &&& 0xFFFFFFFF00001FFF) }
    | 0x28 => { c with
        dumpMiss := c.dumpMiss && !bitAt v 0, carrelMiss := c.carrelMiss && !bitAt v 1, sampleMiss := c.sampleMiss && !bitAt v 2 }
    | _ =>
      match arrayAt o 0x800 256 with
      | some i => { c with sel := tput c.sel i ((tget c.sel i selReset).write (v &&& 0xFFFFFFFFFF07FFFF)) }
      | none => c

/-- CDX (Table 20.4). -/
def cdxWrite (s : State) (o : Nat) (v : W64) : State :=
  match o with
  | 0x00 => modCodex s fun c => { c with
      overflowSeen := c.overflowSeen && !bitAt v 45, readMiss := c.readMiss && !bitAt v 46 }
  | 0x10 => modCodex s fun c => { c with readSeq := v &&& 0xFFFFFFFF }
  | _ => s

/-- A write of the block register at offset `o` of block `b`, each field by its access code (R4, R523); a W1C bit set in
this cycle stays set (R525). -/
def blockWrite (s : State) (b o : Nat) (v : W64) : State :=
  let v := unmarked s (b * 0x10000 + o) v
  match b with
  | 0x10 => glbWrite s o v
  | 0x11 => timRegWrite s o v
  | 0x12 => calWrite s o v
  | 0x13 => optRegWrite s o v
  | 0x14 => latRegWrite s o v
  | 0x15 => schWrite s o v
  | 0x16 => nptRegWrite s o v
  | 0x17 => macWrite s o v
  | 0x18 => cxlWrite s o v
  | 0x19 => hdmWrite s o v
  | 0x1A => carWrite s o v
  | 0x1B => trnWrite s o v
  | 0x1C => if o = 0 then { s with col := { s.col with noSlotSeen := s.col.noSlotSeen && !bitAt v 40 } } else s
  | 0x1D => engWrite s o v
  | 0x1E => keyWrite s o v
  | 0x1F => cntWrite s o v
  | 0x20 => if o = 8 then modSec s fun x => { x with policy := v &&& 0x1FF } else s
  | 0x21 => cdxWrite s o v
  | _ => s

/-! ## BARs (Tables 22.1, 22.4) -/

/-- Offset of the PBA and number of vectors of a function. -/
def msixVectors (fn : Nat) : Nat := if fn = 0 then 2048 else 64

/-- An aligned 4- or 8-byte write inside a function's MSI-X table; a vector that comes to be unmasked is sent when
pending (R522, R397). -/
def msixWrite (s : State) (fn o width : Nat) (v : W64) : State :=
  if (width ≠ 4 && width ≠ 8) || o % width ≠ 0 then s else
    let vec := o / 16
    let part (i : Nat) (old : Nat) : Nat :=
      if i = o / 4 % 4 then fld v 0 32 else if width = 8 && i = o / 4 % 4 + 1 then fld v 32 32 else old
    let f (m : Msix) : Msix :=
      { m with
        addr := word [(0, 32, part 0 (fld m.addr 0 32)), (32, 32, part 1 (fld m.addr 32 32))]
        data := BitVec.ofNat 32 (part 2 m.data.toNat), masked := part 3 (b2n m.masked) % 2 = 1 }
    msixPump (modFn s fn fun x => { x with msix := tmod x.msix vec Msix.reset f }) fn

/-- A doorbell-region write: narrower than 8 bytes or unaligned, it is ignored and counted (R70). -/
def bellWrite (s : State) (fn off width : Nat) (v : W64) : State :=
  if width ≠ 8 || off % 8 ≠ 0 then badBell s fn else doorbell s fn (off / 8) (fld v 32 8) (fld v 0 32)

/-- A write through PF0 BAR0. -/
def bar0Write (s : State) (off width : Nat) (v : W64) : State :=
  if off < 0x80000 then bellWrite s 0 off width v
  else if off < 0x88000 then msixWrite s 0 (off - 0x80000) width v
  else if inBlocks off || inCompat off then
    if width ≠ 8 || off % 8 ≠ 0 then narrowSeen s off
    else if inBlocks off then blockWrite s (off / 0x10000) (off % 0x10000) v else s
  else s

/-- A write through a VF BAR (R423, R531). -/
def vfBarWrite (s : State) (fn off width : Nat) (v : W64) : State :=
  if !barOpen s fn then badBell s fn
  else if off < 0x80000 then bellWrite s fn off width v
  else if off < 0x80400 then msixWrite s fn (off - 0x80000) width v
  else if 0x90000 ≤ off && off < 0x90020 then
    if width ≠ 8 || off % 8 ≠ 0 then modGlb (mark s 0x100030 0) fun g => { g with narrowSeen := true }
    else if off = 0x90000 then ctlBaseWrite s fn v
    else if off = 0x90008 then ctlWrite s fn v
    else s
  else s

/-- Blocks that answer in the fatal state (R518). -/
def fatalBlock (off : Nat) : Bool := off / 0x10000 = 0x10 || off / 0x10000 = 0x21

/-- A write that reaches a BAR: none before INIT_DONE (R507); in the fatal state GLB and CDX alone take it (R518). -/
def barWrite (s : State) (fn off width : Nat) (v : W64) : State :=
  if !barUp s || !s.glb.initDone || (s.glb.fatal && !(fn = 0 && fatalBlock off)) then s
  else if fn = 0 then bar0Write s off width v
  else vfBarWrite s fn off width v

/-! ## Compatibility counters (R376, R522, R536) -/

/-- A read of the compatibility block: the value, and an aligned 8-byte read of a counter clears it. -/
def compatRead (s : State) (off width : Nat) : State :=
  if !inCompat off then s
  else if width ≠ 8 || off % 8 ≠ 0 then emit (narrowSeen s off) (.regData 0)
  else
    let o := off - 0xF00000
    let v := compatReg s off
    let s := if o < 0x400 && o % 0x80 / 8 < 11 then { s with compat := tdel s.compat (11 * (o / 0x80) + o % 0x80 / 8) } else s
    emit s (.regData v)

/-! ## Management bus (R535, R553) -/

/-- A misaligned offset, or one at or beyond 32 MiB. -/
def mgmtBad (off : Nat) : Bool := off % 8 ≠ 0 || off ≥ 2 ^ 25

/-- The value a management-bus read returns (R535, R518, R507). -/
def mgmtValue (s : State) (off : Nat) : W64 :=
  let b := off / 0x10000
  if !inBlocks off then 0
  else if b = 0x10 then glbReg s (off % 0x10000)
  else if b = 0x21 then (if s.codex.resumed then cdxReg s (off % 0x10000) else 0)
  else if s.glb.fatal || !s.glb.initDone then 0
  else blockReg s b (off % 0x10000)

/-- A read of CDX_READ_DATA whose record is no longer held sets READ_MISS (R502). -/
def readEffect (s : State) (off : Nat) : State :=
  if 0x210080 ≤ off && off < 0x210100 && s.codex.resumed && (cdxSelected s).isNone then
    modCodex (mark s 0x210000 46) fun c => { c with readMiss := true }
  else s

/-- A register-access read. -/
def mgmtRead (s : State) (off : Nat) : State :=
  if mgmtBad off then emit (narrowSeen s off) (.mgmtData 0)
  else emit (readEffect s off) (.mgmtData (mgmtValue s off))

/-- The registers the management bus writes (R535). -/
def mgmtWritable (off : Nat) : Bool := [0x100020, 0x100028, 0x100030, 0x210000, 0x210010].contains off

/-- A register-access write; a wrong PEC in SMBus mode ignores the transaction. Where a BAR0 write of the cycle could reach the
register first, it waits for the end of the cycle (R535). -/
def mgmtWrite (s : State) (off : Nat) (v : W64) (pecOk : Bool) : State :=
  if !pecOk && !s.pkg.mgmtMode then s
  else if mgmtBad off then narrowSeen s off
  else if !mgmtWritable off then mgmtIgnoredWrite s off
  else if off / 0x10000 = 0x21 && !s.codex.resumed then s
  else if off = 0x100028 then glbWrite s 0x28 v
  else modCyc s fun c => { c with mgmt := c.mgmt ++ [(off, v)] }

/-- The management-bus writes of the cycle act, behind its BAR0 writes (R535). -/
def mgmtCycle (s : State) : State :=
  s.cyc.mgmt.foldl (fun s x => blockWrite s (x.1 / 0x10000) (x.1 % 0x10000) x.2) (modCyc s fun c => { c with mgmt := [] })

/-! ## Meanings -/

end Sys2Proof.Machine
end

