-- ==== Sys2Proof/Machine/Close.lean ====
section
/-! DEFINITION. Close.lean: the windows that are open, when each closes and what its close does (R34 to R36, R51, Table 2.2);
the passing of time; the wrappers of the commands' meanings: a window whose close has come is closed before anything else
of its cycle (R36). -/

namespace Sys2Proof.Machine

open Host (Outcome)

/-! ## Windows (Table 2.2) -/

/-- A window, or another event that time alone brings. -/
inductive Timed where
  | refetch (ring : RingRef)
  | ahead (ring : RingRef)
  | arming (ring : RingRef)
  | moderation (ring : RingRef)
  | retx (qp : Nat)
  | round (qp : Nat)
  | pageWait (qp : Nat)
  | ctxLoad (qp : Nat)
  | stash (qp : Nat)
  | stream (comm idx : Nat)
  | slotWait (comm idx : Nat)
  | notice (comm : Nat)
  | collStash (comm : Nat)
  | promise (flow : Nat)
  | waiter (fault access : Nat)
  | survey (p : Nat)
  | latTimeout (p : Nat)
  | latRetry (p : Nat)
  | nearTimeout (n : Nat)
  | nearRetry (n : Nat)
  | nearReset (n : Nat)
  | nearParam (n : Nat)
  | nearAsk (n : Nat)
  | nearMaint (n : Nat)
  | watchdog (k prio : Nat)
  | pause (k prio : Nat)
  | holdoff (k : Nat)
  | xoff (k prio : Nat)
  | absorbed (plane : Nat)
  | oldTable
  | bandwidth
  | rootSilent
  | ppsRise
  | ppsFall
  | vfReset (n : Nat)
  | sample
  | codexWrite
deriving DecidableEq, Repr

/-- Descriptor rings that may hold a window of R74. -/
def sqRefs (s : State) : List RingRef :=
  .mgrSq :: (s.fns.map fun e => .ctlSq e.1) ++ s.qps.flatMap fun e => [.sq e.1, .rq e.1]

/-- Rings that may hold a window of R92. -/
def cqRefs (s : State) : List RingRef :=
  (s.cqs.flatMap fun e => e.2.map fun q => .cq e.1 q.num) ++ s.fns.map fun e => .eq e.1

/-- Check ticks of a flow's descriptors and streams (R192, R246). -/
def promiseTicks (s : State) (f : Nat) : List Nat :=
  (s.qps.flatMap fun e => e.2.ops.filterMap fun o =>
    if dSc o.desc && dScFlow o.desc = f && !o.late && o.phase = .sending then o.sc.map fun x => x.1 + x.2 + 5 else none) ++
  s.col.comms.flatMap fun e => e.2.run.flatMap fun c => c.tx.filterMap fun t => if t.flow = some f then t.check else none

/-- Flows that carry a promise. -/
def promisedFlows (s : State) : List Nat :=
  ((s.qps.flatMap fun e => e.2.ops.filterMap fun o => if dSc o.desc && o.sc.isSome then some (dScFlow o.desc) else none) ++
   s.col.comms.flatMap fun e => e.2.run.flatMap fun c => c.tx.filterMap fun t => if t.check.isSome then t.flow else none).foldl (fun l f => if l.contains f then l else l ++ [f]) []

/-- The smallest of a list. -/
def least (l : List Nat) : Option Nat := l.foldl (fun m x => some (match m with | some y => min y x | none => x)) none

/-- When a window closes; none while it is not open. -/
def closeAt (s : State) : Timed → Option Deadline
  | .refetch r => (getRing s r).bind fun q => q.window.bind fun o =>
      if q.refetches < 8 then some (.at (o + 3840 * (q.refetches + 1))) else none
  | .ahead r => (getRing s r).bind fun q => q.window.map fun o => .at (o + 32000)
  | .arming r => (getCq s r).bind fun q => if q.armed then q.raiseAt.map .at else none
  | .moderation r => (getCq s r).bind fun q => if q.armed then q.winFolio.map fun f => .tick (f + q.modFolios) else none
  | .retx n => (getQp s n).bind fun q => q.timer.map fun t => .at (t.1 + t.2)
  | .round n => (getQp s n).bind fun q => q.round.map fun x => .tick x.2
  | .pageWait n => (getQp s n).bind fun q => (least (q.paWaits.map (·.2))).map .tick
  | .ctxLoad n => (getQp s n).bind fun q => q.loading.map fun g => .at (g + 6400)
  | .stash n => (getQp s n).bind fun q =>
      (least ((q.stash.map (·.folio)) ++ s.xl.accesses.filterMap fun a => match a.placing with
        | some (m, _) => if m = n && a.fault.isSome && !a.dropped then some a.folio else none
        | none => none)).map fun f => .tick (f + 64)
  | .stream m i => (getComm s m).bind fun x => (x.run.find? fun c => c.idx = i).bind fun c => c.timer.map fun t => .at (t.1 + t.2)
  | .slotWait m i => (getComm s m).bind fun x =>
      (x.run.find? fun c => c.idx = i).bind fun c => c.waits.map fun o => .at (o + x.waitUs * 16000)
  | .notice m => (getComm s m).bind fun x => x.notice.map .tick
  | .collStash m => (getComm s m).bind fun x => (least ((x.stash.map (·.2)) ++ s.xl.accesses.filterMap fun a =>
      if a.collComm = some m && a.fault.isSome && !a.dropped then some a.folio else none)).map fun f => .tick (f + 64)
  | .promise f => (least (promiseTicks s f)).map .tick
  | .waiter f i => (waiterAt s f i).map .at
  | .survey p => let x := getLat s p; if x.state ≥ 2 then some (.at x.surveyNext) else none
  | .latTimeout p => if timeoutRuns s p then (latTimeout (getLat s p).state).map fun d => .at ((getLat s p).since + d) else none
  | .latRetry p => let x := getLat s p; if x.state = 0 && x.wait then some (.at (x.since + 160000000)) else none
  | .nearTimeout n => (nearTimeout (getNear s n).state).map fun d => .at ((getNear s n).since + d)
  | .nearRetry n => let p := getNear s n
      if p.state = 0 && p.enable && p.since ≠ 0 then some (.at (p.since + 160000000)) else none
  | .nearReset n => (getNear s n).lreset.map fun r => .at (r.start + 320000)
  | .nearParam n => let p := getNear s n; if p.mode = 0 && p.state = 3 && !p.paramRecv then some (.at p.paramNext) else none
  | .nearAsk n => (getNear s n).lreset.bind fun r => if r.heard then none else some (.at r.next)
  | .nearMaint n => let p := getNear s n; if p.mode = 0 && p.state = 4 then some (.at p.maintNext) else none
  | .watchdog k p => (watchdogAt s k p).map .at
  | .pause k p => ((getMac s k).pauses.lookup p).map fun x => .at x.till
  | .holdoff k => (getMac s k).holdoff.map .at
  | .xoff k p => (xoffAt s k p).map .at
  | .absorbed l => (least ((absorbOf s l).map (·.at_))).map fun a => .at (a + 96)
  | .oldTable => s.lat.oldUntil.map .tick
  | .bandwidth => s.cnt.bwDue.map fun x => .tick x.1
  | .rootSilent => if s.time.isRoot || s.time.rootPri = 255 then none else some (.tick (s.time.rootHeard + 2))
  | .ppsRise => (ppsRiseAt s).map .at
  | .ppsFall => s.pkg.ppsHigh.map .at
  | .codexWrite => if s.codex.resumed then (codexWhen s).map .at else none
  | .sample => (s.cnt.samples.head?).map fun x => .at (x.at_ + 115)
  | .vfReset n => (getFn s n).fence.bind fun k => if (getFn s n).cleaned then some (.at (k * s.F + 14400000)) else none

/-- What the close of a window does, in the cycle of the close. -/
def closed (s : State) : Timed → State
  | .refetch r => refetchSlot s r
  | .ahead r => match getRing s r with
    | some q => aheadClose s r q
    | none => s
  | .arming r | .moderation r => match getCq s r with
    | some q => raiseRing s r q
    | none => s
  | .retx n => match (getQp s n).bind fun q => q.timer.map fun t => (q, t.2) with
    | some (q, len) => retxClose s n q len
    | none => s
  | .round n => match (getQp s n).bind (·.round) with
    | some (seq, _) => streamResend (roundClose s n seq) n
    | none => s
  | .pageWait n => pageProbe s n
  | .ctxLoad n => contextLoaded s n
  | .stash n => stashClose s n
  | .stream m i => match (getComm s m).bind fun x => (x.run.find? fun c => c.idx = i).bind fun c => c.timer.map fun t => (x, c, t.2) with
    | some (x, c, len) => streamTimeout s m x c len
    | none => s
  | .slotWait m i => slotWaitClose s m i
  | .notice m => noticeClose s m
  | .collStash m => collStashClose s m
  | .promise f => streamCheck (promiseCheck s f) f
  | .waiter f i => waiterTimeout s f i
  | .survey p => surveySend s p
  | .latTimeout p => preFail s p
  | .latRetry p => modPort s p fun x => { x with wait := false }
  | .nearTimeout n => nearDark s n
  | .nearRetry n => modNear s n fun p => { p with since := 0 }
  | .nearReset n => nearDown s n
  | .nearParam n => paramSend s n
  | .nearAsk n => resetAsk s n
  | .nearMaint n => maintSend s n
  | .watchdog k p => watchdogClosed s k p
  | .pause k p => pauseClosed s k p
  | .holdoff k => modMac s k fun m => { m with holdoff := none }
  | .xoff k p => xoffAgain s k p
  | .absorbed l => ageAbsorbed s l
  | .oldTable => epochRetire s
  | .bandwidth => bwClose s
  | .rootSilent => rootFailover s
  | .ppsRise => ppsRise s
  | .ppsFall => ppsFall s
  | .sample => captureDue s
  | .codexWrite => codexNext s
  | .vfReset n => vfResetDone s n

/-- Every window that may be open, in the order in which those of one cycle close (DESIGN CHOICE, log 7). -/
def windows (s : State) : List Timed :=
  [.oldTable, .rootSilent, .ppsRise, .ppsFall, .bandwidth, .sample, .codexWrite, .absorbed 0, .absorbed 1] ++
  (List.range 8).flatMap (fun p => [.survey p, .latTimeout p, .latRetry p]) ++
  (List.range 4).flatMap (fun n => [.nearTimeout n, .nearRetry n, .nearReset n, .nearParam n, .nearAsk n, .nearMaint n]) ++
  (List.range 16).flatMap (fun k => (getMac s k).pauses.flatMap (fun e => [.watchdog k e.1, .pause k e.1]) ++
    [.holdoff k] ++ (getMac s k).xoff.map fun e => .xoff k e.1) ++
  (sqRefs s).flatMap (fun r => [.refetch r, .ahead r]) ++ (cqRefs s).flatMap (fun r => [.arming r, .moderation r]) ++
  (s.xl.accesses.filterMap fun a => a.fault.map fun f => .waiter f.1 a.id) ++
  (s.qps.flatMap fun e => [.ctxLoad e.1, .round e.1, .pageWait e.1, .stash e.1, .retx e.1]) ++
  (s.col.comms.flatMap fun e => [.notice e.1, .collStash e.1] ++
    e.2.run.flatMap fun c => [.slotWait e.1 c.idx, .stream e.1 c.idx]) ++
  (promisedFlows s).map .promise ++ s.fns.map fun e => .vfReset e.1

/-- The close has come (R34, R35). -/
def Deadline.reached (s : State) : Deadline → Bool
  | .at g => g ≤ s.now
  | .tick k => k ≤ s.folio

/-- A window whose close has come. -/
def dueWindow (s : State) (w : Timed) : Bool :=
  match closeAt s w with
  | some d => d.reached s
  | none => false

/-- No window's close has come and not been carried out. -/
def State.settled (s : State) : Bool := (windows s).all fun w => !dueWindow s w

/-- Every window whose close has come closes, before anything else of the cycle (R36). -/
def closeDue (s : State) : State :=
  if s.settled then s else (windows s).foldl (fun s w => if dueWindow s w then closed s w else s) s

/-- GTC of the next close of a duration window after the present cycle; cells held in an absorption buffer take part in every
cycle (R159). -/
def nextClose (s : State) : Option Gtc :=
  if !s.lat.bufA.isEmpty || !s.lat.bufB.isEmpty then some (s.now + 1)
  else least ((windows s).filterMap fun w => match closeAt s w with
    | some (.at g) => if s.now < g then some g else none
    | _ => none)

/-- Check sets are defined once the cycle has admitted what names them (Table 10.9). -/
def defineCycle (s : State) : State :=
  s.cyc.defines.foldl chkDefine (modCyc s fun c => { c with defines := [], newJobs := [], newOps := [] })

/-- The end of the present crossbar cycle, before the clock leaves it: what its commands and closes left to be taken
together (Table 5.4, R38, R343). -/
def cycleEnd (s : State) : State :=
  let s := collCycle (startCycle (defineCycle (resetPump (mgmtCycle (stageCycle s)))))
  let s := darkenCycle (declareCycle (latticeCycle (windowClose s)))
  let s := writeEvents (ackCycle (trigCycle s))
  modCyc (compatCycle (journalFlush s)) fun c => { c with bridged := [], barWas := false, sticky := [], ctlWas := [] }

/-- Time runs to the first cycle whose GTC is at least `g`, each window closing in its own cycle on the way; those that close
in the last cycle are left to what happens there. -/
def runClosing : Nat → State → Gtc → State
  | 0, s, _ => s
  | fuel + 1, s, g =>
    if cyclesTo s.time g = 0 then s
    else
      let s := cycleEnd (closeDue s)
      runClosing fuel (s.runTo (match nextClose s with | some h => min g h | none => g)) g

/-- As `runClosing`: a run takes no more closes than cycles. -/
def State.goTo (s : State) (g : Gtc) : State := runClosing (cyclesTo s.time g + 1) s g

/-- Time runs to the first cycle whose GTC is at least `g`, if that comes before the cycle of the next tick, and `f` acts
there; otherwise nothing happens yet: what that cycle brings belongs to the folio of its tick (R59; log 7). -/
def atTime (s : State) (g : Gtc) (f : State → State) : State :=
  if cyclesTo s.time g = 0 || cyclesTo s.time g < cyclesTo s.time s.nextTickAt then f (s.goTo g) else s

/-- A window's close, commanded: nothing happens where the window is not open or cannot close yet (R34, R35). -/
def closeRow (s : State) (w : Timed) : State :=
  match closeAt s w with
  | none => s
  | some (.at g) => atTime s g fun s => closed s w
  | some (.tick k) => if k ≤ s.folio then closed s w else s

/-- GTC of the last crossbar cycle of the folio. -/
def State.lastCycle (s : State) : Gtc := (s.time.run (cyclesTo s.time s.nextTickAt - 1)).gtc

/-! ## The wrappers of the meanings -/

/-- The effect `f` of a command on a running block, after the closes that are due (R36); none while it is in reset or fatal
(R510, R518). -/
def act (s : State) (f : State → State) : Outcome State Fault Refusal :=
  .next (if s.running then commitNow s (f (closeDue s)) else s)

/-- As `act`, for the host interface and configuration space: they stay up in the fatal state (R518). -/
def hostAct (s : State) (f : State → State) : Outcome State Fault Refusal :=
  .next (if alive s then commitNow s (f (if s.running then closeDue s else s)) else s)

/-- As `act`, for a command that moves the clock. -/
def actTime (s : State) (f : State → State) : Outcome State Fault Refusal :=
  .next (if s.running then commit s (f s) else s)

/-- The close of a window. -/
def closeCmd (s : State) (w : Timed) : Outcome State Fault Refusal := actTime s fun s => closeRow s w

/-- The effect of a command whose operands must name units the part has. -/
def need (ok : Bool) (o : Outcome State Fault Refusal) : Outcome State Fault Refusal :=
  if ok then o else .refused .illFormed

/-- A write of a register or doorbell through a BAR: it reaches the block while the link carries BAR accesses, after
INIT_DONE; otherwise it is answered Unsupported Request (R390, R397, R507). -/
def barAct (s : State) (f : State → State) : Outcome State Fault Refusal :=
  act s fun s => if barUp s && s.glb.initDone then f s else s

/-- A doorbell write through a BAR, as `barAct`; one that comes in the cycle in which link loss is declared arrived before it
(Table 14.10). -/
def bellAct (s : State) (f : State → State) : Outcome State Fault Refusal :=
  act s fun s => if (barUp s || s.cyc.barWas) && s.glb.initDone then f s else s

/-- A manager command: taken off the manager ring, then its effect. Firmware that is restarting or halted does not run
it: it stays to be re-read (Table 1.11). -/
def mgrCmd (s : State) (d : Line) (f : State → State) : Outcome State Fault Refusal :=
  act s fun s =>
    if s.glb.fwHalted || s.fw.restarting.isSome then { s with fw := { s.fw with redo := s.fw.redo ++ [d] } }
    else f (takeHanded s .mgrSq d)

end Sys2Proof.Machine
end

