-- ==== Sys2Proof/Machine/BootRows.lean ====
section
/-! DEFINITION. BootRows.lean: the commands whose effects Boot.lean computes. -/

namespace Sys2Proof.Machine

open Host (Outcome)

/-- A command that acts while the rails are valid, running or not: on a running block after the closes that are due (R36). -/
def powered (s : State) (f : State → State) : Outcome State Fault Refusal :=
  .next (if s.pkg.rails then commit s (f (if s.running then closeDue s else s)) else s)

/-- A fatal cause is detected on a device that is not in reset. -/
def fatalCmd (s : State) (cause : Nat) (src : Source) : Outcome State Fault Refusal :=
  .next (if s.pkg.rails && !s.pkg.inReset && !s.pkg.testMode then
    commitNow s (goFatal (if s.running then closeDue s else s) cause src) else s)

/-- POWER_ON (R506, R545): everything but fuses, flash and the codex is reset, and the codex resumes. -/
def execPowerOn (s : State) : Outcome State Fault Refusal :=
  .next (if s.pkg.rails then s else
    commit s (codexResume { deviceReset s with
      pkg := { Pkg.reset with inReset := true, perst := s.pkg.perst }, wipe := List.range 288, hbm := ⟨[], []⟩ }))

/-- FALLING_SUPPLY (R500, R546). -/
def execFallingSupply (s : State) : Outcome State Fault Refusal :=
  powered s fun s =>
    let s := deviceReset (codexPowerLoss s)
    { s with pkg := { s.pkg with rails := false, fatalN := false, thermN := false } }

/-- DEV_RESET_N_ASSERT (R510, R554). -/
def execDevResetNAssert (s : State) : Outcome State Fault Refusal := powered s deviceReset

/-- DEV_RESET_N_RELEASE (R506, R552): the straps are sampled; TEST_MODE 1 holds the device in reset. -/
def execDevResetNRelease (mgmtMode : Bool) (addrSel : BitVec 2) (testMode : Bool) (s : State) :
    Outcome State Fault Refusal :=
  powered s fun s =>
    if !s.pkg.inReset || s.pkg.perstReset || !s.pkg.refclk then s
    else resetRelease { s with pkg := { s.pkg with mgmtMode := mgmtMode, addrSel := addrSel, testMode := testMode } }

/-- GLB_CTL_DEVICE_RESET (R509): only with the key; it acts in the fatal state too. -/
def execGlbCtlDeviceReset (v : W64) (s : State) : Outcome State Fault Refusal :=
  powered s fun s =>
    if s.pkg.inReset || s.pkg.testMode || fld v 0 8 ≠ 0xD5 || !bitAt v 8 then s else resetRelease (deviceReset s)

/-- DIE_BRIDGE_TRAINED (Table 21.1). -/
def execDieBridgeTrained (s : State) : Outcome State Fault Refusal :=
  act s fun s => initCheck (modGlb s fun g => { g with bridgeUp := true })

/-- HBM_STACKS_TRAINED (Table 21.1). -/
def execHbmStacksTrained (s : State) : Outcome State Fault Refusal :=
  act s fun s => if s.glb.bridgeUp then initCheck (modGlb s fun g => { g with hbmReady := true }) else s

/-- HBM_STACK_FAILURE (R517). -/
def execHbmStackFailure (stack : Nat) (s : State) : Outcome State Fault Refusal :=
  need (wfStack stack) (fatalCmd s 1 0x3FF)

/-- GRANULE_ZERO_FILL_DONE (R275). -/
def execGranuleZeroFillDone (g : Nat) (s : State) : Outcome State Fault Refusal :=
  if wfGranule g then act s fun s => fillEnd s g else .fault .noSuchMemory

/-- FIRMWARE_START (R477). -/
def execFirmwareStart (s : State) : Outcome State Fault Refusal :=
  act s fun s => if s.glb.fwRunning || s.glb.recovery then s else romTry s 0

/-- BOOT_WATCHDOG_EXPIRY (R519): the image started first is taken as one that fails verification. -/
def execBootWatchdogExpiry (s : State) : Outcome State Fault Refusal :=
  act s fun s => if s.glb.fwRunning || s.glb.recovery then s else romTry s 1

/-- FW_WATCHDOG_EXPIRY (R22, R25). -/
def execFwWatchdogExpiry (s : State) : Outcome State Fault Refusal :=
  act s fun s => if fwAlive s then beginRestart s 0 else s

/-- FIRMWARE_RESTART_DONE (R22). -/
def execFirmwareRestartDone (s : State) : Outcome State Fault Refusal := act s restartEnd

/-- REFCLK_LOSS (R551): fatal, unless the device is in reset. -/
def execRefclkLoss (s : State) : Outcome State Fault Refusal :=
  powered s fun s =>
    let s := if s.pkg.inReset || s.pkg.testMode then s else goFatal s 3 0x080
    { s with pkg := { s.pkg with refclk := false } }

/-- THERMAL_TRIP (R548). -/
def execThermalTrip (s : State) : Outcome State Fault Refusal := fatalCmd s 6 0x3FF

/-- THERMAL_WARNING (R548): THERM_N is driven in reset too (R554). -/
def execThermalWarning (dieT hbmT : Int) (s : State) : Outcome State Fault Refusal := powered s fun s => thermal s dieT hbmT

/-- BRIDGE_LOSS (R516, R517). -/
def execBridgeLoss (s : State) : Outcome State Fault Refusal := fatalCmd s 2 0x3FF

/-- BRIDGE_WORD_ERROR (R516). -/
def execBridgeWordError (corrected : Bool) (line : Option Nat) (s : State) : Outcome State Fault Refusal :=
  if (match line with | some l => wfLine l | none => true) then
    act s fun s => if corrected then aerCorrected (bump s (devCnt 4) 1) else bridgeBad s line
  else .fault .noSuchMemory

/-- GTC_COPY_MISMATCH (R9, R517). -/
def execGtcCopyMismatch (s : State) : Outcome State Fault Refusal := fatalCmd s 4 0x080

/-- CONTROL_STATE_UNCORRECTABLE (R517). -/
def execControlStateUncorrectable (src : Source) (s : State) : Outcome State Fault Refusal :=
  need (wfSource src) (fatalCmd s 5 src)

/-- ONDIE_UNCORRECTABLE (R515). -/
def execOndieUncorrectable (code obj : Nat) (s : State) : Outcome State Fault Refusal :=
  need (1 ≤ code && code ≤ 11) (act s fun s => structLost s code obj)

/-- TICK_MONITOR_EXPIRY (Table 21.7): tick k + 1 has not fired 24 units after it was due. -/
def execTickMonitorExpiry (s : State) : Outcome State Fault Refusal :=
  actTime s fun s => goFatal (closeDue (s.goTo (s.nextTickAt + 24))) 7 0x080

/-- PERST_ASSERT (R396): a device reset with PERST_SCOPE 1, else a reset of the host interface. -/
def execPerstAssert (s : State) : Outcome State Fault Refusal :=
  powered s fun s =>
    let s := { s with pkg := { s.pkg with perst := true } }
    if s.pkg.inReset then s
    else if bitAt s.cxl.cfg 0 then
      let s := deviceReset s
      { s with pkg := { s.pkg with perstReset := true } }
    else linkDown (hostReset (linkLoss s 1))

/-- PERST_RELEASE (R396, R397): the reset it held ends, and the link trains. -/
def execPerstRelease (width speed : Nat) (flit256 : Bool) (s : State) : Outcome State Fault Refusal :=
  need (wfLink width speed flit256) (powered s fun s =>
    let s := { s with pkg := { s.pkg with perst := false } }
    let s := if s.pkg.perstReset then resetRelease s else s
    if s.pkg.inReset || s.pkg.testMode then s else linkUpWith s width speed flit256)

/-- MGMT_ALERT_RESPONSE (R554). -/
def execMgmtAlertResponse (s : State) : Outcome State Fault Refusal :=
  powered s fun s =>
    if s.pkg.alertN && !s.pkg.inReset then
      emit { s with pkg := { s.pkg with alertN := false, mctpPending := false } } .alertAddress
    else s

end Sys2Proof.Machine
end

