-- ==== Sys2Proof/Machine/CarrelsRows.lean ====
section
/-! DEFINITION. CarrelsRows.lean: the commands whose effects Carrels.lean computes. -/

namespace Sys2Proof.Machine

open Host (Outcome)

/-- CARREL_STAGE (R429). -/
def execCarrelStage (d : Line) (s : State) : Outcome State Fault Refusal := mgrCmd s d fun s => carrelStage s d
/-- CARREL_DESTROY (R431). -/
def execCarrelDestroy (d : Line) (s : State) : Outcome State Fault Refusal := mgrCmd s d fun s => carrelDestroy s d
/-- CARREL_SUSPEND (R433). -/
def execCarrelSuspend (d : Line) (s : State) : Outcome State Fault Refusal := mgrCmd s d fun s => carrelSuspend s d true
/-- CARREL_RESUME (R433). -/
def execCarrelResume (d : Line) (s : State) : Outcome State Fault Refusal := mgrCmd s d fun s => carrelSuspend s d false
/-- VF_RESET (R435). -/
def execVfReset (d : Line) (s : State) : Outcome State Fault Refusal := mgrCmd s d fun s => vfReset s d
/-- VF_ENABLE (R437): a write of CAR_VF with ENABLE 1. -/
def execVfEnable (n : Nat) (v : W64) (s : State) : Outcome State Fault Refusal :=
  need (wfVf n && bitAt v 0) (barAct s fun s => vfWrite s n v)
/-- VF_DISABLE (R435): a write of CAR_VF with ENABLE 0. -/
def execVfDisable (n : Nat) (v : W64) (s : State) : Outcome State Fault Refusal :=
  need (wfVf n && !bitAt v 0) (barAct s fun s => vfWrite s n v)
/-- VF_FLR (R381, R435): a configuration write, answered Request Retry Status before INIT_DONE (R507). -/
def execVfFlr (n : Nat) (s : State) : Outcome State Fault Refusal :=
  need (wfVf n) (act s fun s => if !s.cxl.linkUp || !s.glb.initDone || (fnDom s n).isNone then s else vfTrigger s n true none)
/-- VF_RESET_COMPLETE (R436). -/
def execVfResetComplete (n : Nat) (s : State) : Outcome State Fault Refusal :=
  need (wfVf n) (act s fun s => vfResetDone s n)
/-- QP_PEER_MOVE (R441). -/
def execQpPeerMove (d : Line) (s : State) : Outcome State Fault Refusal :=
  mgrCmd s d fun s =>
    match getQp s (dfld d 16 0 20) with
    | none => mgrFail s d 1
    | some q =>
      if qpLive q then { s with qpNext := s.qpNext ++ [(dfld d 16 0 20, d)] } else mgrFail s d 2

end Sys2Proof.Machine
end

