-- ==== Sys2Proof/Machine/CheckRows.lean ====
section
/-! DEFINITION. CheckRows.lean: the commands whose effects Check.lean computes. -/

namespace Sys2Proof.Machine

open Host (Outcome)

/-- CHK_SET_DEFINE (R291): done at the end of its cycle. -/
def execChkSetDefine (d : Line) (s : State) : Outcome State Fault Refusal := mgrCmd s d fun s => modCyc s fun c => { c with defines := c.defines ++ [d] }
/-- KEY_LOAD_DATA_WRITE (R281). -/
def execKeyLoadDataWrite (i : Nat) (v : W64) (s : State) : Outcome State Fault Refusal :=
  need (i < 8) (barAct s fun s => keyStage s i v)
/-- KEY_GO_LOAD (R282): GO is 1. -/
def execKeyGoLoad (v : W64) (s : State) : Outcome State Fault Refusal :=
  need (fld v 40 2 = 1) (barAct s fun s => keyGo s v true)
/-- KEY_GO_ZEROISE (R282): GO is 2. -/
def execKeyGoZeroise (v : W64) (s : State) : Outcome State Fault Refusal :=
  need (fld v 40 2 = 2) (barAct s fun s => keyGo s v false)

end Sys2Proof.Machine
end

