-- ==== Sys2Proof/Machine/CodexRows.lean ====
section
/-! DEFINITION. CodexRows.lean: the commands whose effects Codex.lean computes. -/

namespace Sys2Proof.Machine

open Host (Outcome)

/-- CODEX_WRITE (R497): the writer is powered whatever the rest of the device does (R510, R518). -/
def execCodexWrite (s : State) : Outcome State Fault Refusal :=
  .next (if !s.pkg.rails || !s.codex.resumed then s
    else if s.running then commit s (closeRow s .codexWrite)
    else commit s (codexNext s))

/-- CODEX_CHECKPOINT (R499). -/
def execCodexCheckpoint (s : State) : Outcome State Fault Refusal := act s checkpoint
/-- CODEX_READ (R501). -/
def execCodexRead (d : Line) (s : State) : Outcome State Fault Refusal := mgrCmd s d fun s => codexRead s d
/-- CODEX_CLEAR (R503). -/
def execCodexClear (d : Line) (s : State) : Outcome State Fault Refusal := mgrCmd s d fun s => codexClear s d
/-- MCTP_CODEX_READ (R502): firmware answers. -/
def execMctpCodexRead (first count : Nat) (s : State) : Outcome State Fault Refusal :=
  act s fun s => if fwAlive s then mctpEmit s (.mctpCodex (codexRange s.codex (first % 2 ^ 32) count)) else s

end Sys2Proof.Machine
end

