-- ==== Sys2Proof/Machine/CollectivesRows.lean ====
section
/-! DEFINITION. CollectivesRows.lean: the commands whose effects Collectives.lean computes. -/

namespace Sys2Proof.Machine

open Host (Outcome)

/-- COUNTER_RESET (R226). -/
def execCounterReset (d : Line) (s : State) : Outcome State Fault Refusal := mgrCmd s d fun s => counterReset s d
/-- COMM_CREATE (R228). -/
def execCommCreate (d : Line) (s : State) : Outcome State Fault Refusal := mgrCmd s d fun s => commCreate s d
/-- COMM_DESTROY (R230). -/
def execCommDestroy (d : Line) (s : State) : Outcome State Fault Refusal := mgrCmd s d fun s => commDestroy s d
/-- COLLECTIVE_STAGE_START (R238). -/
def execCollectiveStageStart (comm stage : Nat) (s : State) : Outcome State Fault Refusal := act s fun s => stageStart s comm stage
/-- SCALE_CELL_ARRIVAL (R234, R235). -/
def execScaleCellArrival (cell : Cell) (s : State) : Outcome State Fault Refusal :=
  need (cType cell = 7) (act s fun s => takeColl s cell [0, 1, 2, 3] fun s comm m r => streamArrival s comm m r cell)
/-- RED_CELL_ARRIVAL (R218, R235). -/
def execRedCellArrival (cell : Cell) (s : State) : Outcome State Fault Refusal :=
  need (cType cell = 6) (act s fun s => takeColl s cell [4, 5, 6, 7, 8, 9] fun s comm m r => streamArrival s comm m r cell)
/-- ABORT_CELL_ARRIVAL (R247). -/
def execAbortCellArrival (cell : Cell) (s : State) : Outcome State Fault Refusal :=
  need (cType cell = 6) (act s fun s => takeColl s cell [11] fun s comm m _ => abortArrival s comm m cell)
/-- SUSPENDED_CELL_ARRIVAL (R249). -/
def execSuspendedCellArrival (cell : Cell) (s : State) : Outcome State Fault Refusal :=
  need (cType cell = 6) (act s fun s => takeColl s cell [12] fun s comm m _ =>
    postEvent s m.fn 0x06 (fnSource m.fn) (carrelField (commDom s m)) comm
      (evData [(20, 16, dfld cell.payload 0 0 16), (22, 10, dfld cell.payload 2 0 10), (24, 64, dfld cell.payload 8 0 64)]))
/-- SHARED_SLOT_GRANT (R243). -/
def execSharedSlotGrant (s : State) : Outcome State Fault Refusal := act s fun s => grantSlots s
/-- SLOT_WAIT_EXPIRY (R244): of the communicator's oldest collective that waits. -/
def execSlotWaitExpiry (comm : Nat) (s : State) : Outcome State Fault Refusal :=
  closeCmd s (.slotWait comm ((((getComm s comm).bind fun m => m.run.find? fun c => c.waits.isSome).map (·.idx)).getD 0))

/-- SUSPENSION_NOTICE_EXPIRY (R249). -/
def execSuspensionNoticeExpiry (comm : Nat) (s : State) : Outcome State Fault Refusal := closeCmd s (.notice comm)

/-- PROMISE_CHECK_TICK (R192, R246). -/
def execPromiseCheckTick (flow : Nat) (s : State) : Outcome State Fault Refusal := closeCmd s (.promise flow)

/-- ACK_CELL (R123, R173); of a stream (R245). -/
def execAckCell (via : Via) (cell : Cell) (s : State) : Outcome State Fault Refusal :=
  need (cType cell = 3) (act s fun s =>
    match streamOf s cell with
    | some (comm, m, c, t, r) => takeCell s via cell false fun s => settle (collCollect (streamAcked s comm m c t r))
    | none => qpCell s via cell false)
/-- NAK_CELL (R124); of a stream (R245). -/
def execNakCell (via : Via) (cell : Cell) (s : State) : Outcome State Fault Refusal :=
  need (cType cell = 4) (act s fun s =>
    match streamOf s cell with
    | some (comm, m, c, t, r) =>
      takeCell s via cell false fun s => if dfld cell.payload 0 0 8 = 1 then streamRnr s comm m c t r else dropCell s 0x3FF (some (commDom s m)) cell
    | none => qpCell s via cell false)
/-- SNAK_CELL (R125); of a stream (R245). -/
def execSnakCell (via : Via) (cell : Cell) (s : State) : Outcome State Fault Refusal :=
  need (cType cell = 5) (act s fun s =>
    match streamOf s cell with
    | some (comm, m, c, t, r) => takeCell s via cell false fun s => streamSnak s comm m c t r cell.payload
    | none => qpCell s via cell false)
/-- The timer of a QP: that of its communicator's oldest stream timer, or of its transport (R128, R245). -/
def retxWindow (s : State) (qp : Nat) : Timed :=
  match s.col.comms.findSome? fun e => if e.2.qp = qp then
      (e.2.run.find? fun c => c.timer.isSome).map fun c => (e.1, c.idx) else none with
  | some (comm, idx) => .stream comm idx
  | none => .retx qp

/-- RETX_TIMER_EXPIRY (R128, R245). -/
def execRetxTimerExpiry (qp : Nat) (s : State) : Outcome State Fault Refusal := need (wfQp qp) (closeCmd s (retxWindow s qp))

/-- RNR_DELAY_EXPIRY (R130, Table 4.9, R245): the round and the page wait whose ticks have come. -/
def execRnrDelayExpiry (qp : Nat) (s : State) : Outcome State Fault Refusal :=
  need (wfQp qp) (actTime s fun s => closeRow (closeRow s (.round qp)) (.pageWait qp))

/-- STASH_LIFETIME_EXPIRY (R119, R245). -/
def execStashLifetimeExpiry (qp : Nat) (s : State) : Outcome State Fault Refusal :=
  need (wfQp qp) (actTime s fun s => (s.col.comms.filter fun e => e.2.qp = qp).foldl (fun s e => closeRow s (.collStash e.1))
    (closeRow s (.stash qp)))

end Sys2Proof.Machine
end

