-- ==== Sys2Proof/Machine/CountersRows.lean ====
section
/-! DEFINITION. CountersRows.lean: the commands whose effects Counters.lean computes. -/

namespace Sys2Proof.Machine

open Host (Outcome)

/-- CNT_CARREL_DUMP (R467). -/
def execCntCarrelDump (d : Line) (s : State) : Outcome State Fault Refusal := mgrCmd s d fun s => carrelDumpSet s d
/-- BW_WINDOW_CLOSE (R463). -/
def execBwWindowClose (s : State) : Outcome State Fault Refusal := closeCmd s .bandwidth

/-- SAMPLE_CAPTURE (R466). -/
def execSampleCapture (skid : Nat) (s : State) : Outcome State Fault Refusal := act s fun s => capture s skid

end Sys2Proof.Machine
end

