-- ==== Sys2Proof/Machine/EnginesRows.lean ====
section
/-! DEFINITION. EnginesRows.lean: the commands whose effects Engines.lean computes. -/

namespace Sys2Proof.Machine

open Host (Outcome)

/-- ENGINE_JOB (R254). -/
def execEngineJob (d : Line) (s : State) : Outcome State Fault Refusal := mgrCmd s d fun s => engineJob s d
/-- ENGINE_JOB_COMPLETE (R259). -/
def execEngineJobComplete (job : Nat) (s : State) : Outcome State Fault Refusal := act s fun s => completeJob s job
/-- MOV_READ_RETURN (R265): the bytes of a destination line's source arrive in the line buffer. -/
def execMovReadReturn (job line : Nat) (data : Line) (poison : Bool) (s : State) : Outcome State Fault Refusal :=
  act s fun s =>
    let s := movCollect s
    match (getJob s job).bind fun j => (j.buffer.lookup line).map fun b => b with
    | some (bs, n, p) =>
      if n = 0 then s else
        let s := closeEmptyFaults (modXl s fun x => { x with accesses := x.accesses.filter fun a => a.who ≠ .mov job line })
        modJob s job fun j => { j with buffer := tput j.buffer line ((bytesOf data).take bs.length, 0, p || poison) }
    | none => s
/-- ENGINE_CHECK_FAILURE (R271). -/
def execEngineCheckFailure (bit : Nat) (s : State) : Outcome State Fault Refusal :=
  need (wfFence bit) (act s fun s => fenceEngine s bit)
/-- ENGINE_UNFENCE (R273). -/
def execEngineUnfence (d : Line) (s : State) : Outcome State Fault Refusal := mgrCmd s d fun s => unfence s d
/-- ENGINE_SELFTEST_END (R273). -/
def execEngineSelftestEnd (bit : Nat) (pass : Bool) (s : State) : Outcome State Fault Refusal :=
  need (wfFence bit) (act s fun s => selftestEnd s bit pass)
/-- SCRUB_READ (R276). -/
def execScrubRead (line : Nat) (res : ScrubResult) (s : State) : Outcome State Fault Refusal :=
  if wfLine line then act s fun s => scrub s line res else .fault .noSuchMemory

end Sys2Proof.Machine
end

