-- ==== Sys2Proof/Machine/EthernetRows.lean ====
section
/-! DEFINITION. EthernetRows.lean: the commands whose effects Ethernet.lean computes. -/

namespace Sys2Proof.Machine

open Host (Outcome)

/-- ETH_FRAME_ARRIVAL (R355). -/
def execEthFrameArrival (k : Nat) (frame : Frame) (s : State) : Outcome State Fault Refusal :=
  need (wfMac k) (act s fun s => if macLive s k && (getMac s k).linkUp then frameIn s k frame else s)

/-- ETH_FRAME_RELEASE (R356). -/
def execEthFrameRelease (k : Nat) (s : State) : Outcome State Fault Refusal := need (wfMac k) (act s fun s => frameRelease s k)

/-- PAUSE_FRAME (R368). -/
def execPauseFrame (k quanta : Nat) (s : State) : Outcome State Fault Refusal :=
  need (wfMac k) (act s fun s =>
    if macLive s k && (getMac s k).linkUp then pauseIn (controlFrame s k) k quanta else s)

/-- PFC_FRAME (R368). -/
def execPfcFrame (k : Nat) (enable : BitVec 8) (quanta : List Nat) (s : State) : Outcome State Fault Refusal :=
  need (wfMac k) (act s fun s =>
    if macLive s k && (getMac s k).linkUp then pfcIn (controlFrame s k) k enable quanta else s)

/-- PAUSE_TIMER_EXPIRY (R368). -/
def execPauseTimerExpiry (k prio : Nat) (s : State) : Outcome State Fault Refusal := need (wfMac k && wfPrio prio) (closeCmd s (.pause k prio))

/-- PAUSE_WATCHDOG_EXPIRY (R370). -/
def execPauseWatchdogExpiry (k prio : Nat) (s : State) : Outcome State Fault Refusal := need (wfMac k && wfPrio prio) (closeCmd s (.watchdog k prio))

/-- HOLDOFF_EXPIRY (R370). -/
def execHoldoffExpiry (k : Nat) (s : State) : Outcome State Fault Refusal := need (wfMac k) (closeCmd s (.holdoff k))

/-- XOFF_REFRESH (R369). -/
def execXoffRefresh (k prio : Nat) (s : State) : Outcome State Fault Refusal := need (wfMac k && wfPrio prio) (closeCmd s (.xoff k prio))

/-- MAC_FRAME_START (R452): at the end of its cycle, a pause that comes in it holds the frame (Table 13.11). -/
def execMacFrameStart (k : Nat) (s : State) : Outcome State Fault Refusal := need (wfMac k) (act s fun s => modCyc s fun c => { c with starts := c.starts ++ [k] })

/-- MAC_FRAME_END (R359, R371). -/
def execMacFrameEnd (k : Nat) (stamp : Gtc) (s : State) : Outcome State Fault Refusal :=
  need (wfMac k) (act s fun s => frameEnd s k stamp)

/-- MAC_LINK_LOSS (R359). -/
def execMacLinkLoss (k bytesSent : Nat) (s : State) : Outcome State Fault Refusal :=
  need (wfMac k) (act s fun s => macDown s k bytesSent)

/-- MAC_LINK_UP (R375). -/
def execMacLinkUp (k : Nat) (s : State) : Outcome State Fault Refusal :=
  need (wfMac k) (act s fun s =>
    if macLive s k && macLit s k then sendPauses (modMac s k fun m => { m with
      linkUp := true, fecLock := true, localFault := false, remoteFault := false, hiSer := false }) k
    else s)

/-- ETH_PEER_SET (R361). -/
def execEthPeerSet (d : Line) (s : State) : Outcome State Fault Refusal := mgrCmd s d fun s => peerSet s d
/-- ETH_FILTER_SET (R360). -/
def execEthFilterSet (d : Line) (s : State) : Outcome State Fault Refusal := mgrCmd s d fun s => filterSet s d

end Sys2Proof.Machine
end

