-- ==== Sys2Proof/Machine/HostLinkRows.lean ====
section
/-! DEFINITION. HostLinkRows.lean: the commands whose effects HostLink.lean computes. -/

namespace Sys2Proof.Machine

open Host (Outcome)

/-- DL_DOWN (R394). -/
def execDlDown (s : State) : Outcome State Fault Refusal := hostAct s fun s => linkDown (linkLoss s 0)
/-- DL_UP (R397). -/
def execDlUp (width speed : Nat) (flit256 : Bool) (s : State) : Outcome State Fault Refusal :=
  need (wfLink width speed flit256) (hostAct s fun s => if s.pkg.perst then s else linkUpWith s width speed flit256)
/-- HOT_RESET (R394, R396). -/
def execHotReset (s : State) : Outcome State Fault Refusal := hostAct s fun s => linkDown (hostReset (linkLoss s 2))
/-- PF0_FLR (R381): the link stays trained, so the loss is over once it is declared. -/
def execPf0Flr (s : State) : Outcome State Fault Refusal :=
  hostAct s fun s => if !s.cxl.linkUp || !s.glb.initDone then s else
    let was := s.cxl.lost
    modCxl (hostReset (linkLoss s 3)) fun c => { c with lost := was }
/-- IDE_INTEGRITY_FAILURE (R390). -/
def execIdeIntegrityFailure (s : State) : Outcome State Fault Refusal :=
  hostAct s fun s => if !s.cxl.linkUp then s else
    modCxl (mark (linkLoss s 4) 0x180008 4) fun c => { c with ideFail := true, ideSecure := false }
/-- IDE_KM_KEY_PROG (R390, R397): over an established DOE session; the link is secure once every stream is. -/
def execIdeKmKeyProg (session : Nat) (allSecure : Bool) (s : State) : Outcome State Fault Refusal :=
  act s fun s =>
    if !s.cxl.linkUp || !(s.sec.sessions.any fun x => x.id = session && x.bus = .doe && x.established) then s
    else withKick s fun s => modCxl s fun c => { c with
      ideSecure := allSecure, ideSkid := bitAt c.cfg 2, lost := c.lost && !allSecure }
/-- LINK_RETRAIN (R393). -/
def execLinkRetrain (width speed : Nat) (flit256 : Bool) (s : State) : Outcome State Fault Refusal :=
  need (wfLink width speed flit256) (act s fun s => if !s.cxl.linkUp then s else
    let low := decide (width < s.cxl.width) || decide (speed < s.cxl.speed)
    let s := bump (modCxl s fun c => { c with
      retrains := sat 65535 (c.retrains + 1), width := width, speed := speed, flit256 := flit256, retrainSeen := c.retrainSeen || low }) (cxlCnt 12) 1
    if low then codexHand (mark s 0x180008 3) 0x51 cxlSource 0xFF (codexCause 0 0) else s)
/-- COMPLETION_TIMEOUT (R395). -/
def execCompletionTimeout (req : Nat) (s : State) : Outcome State Fault Refusal := act s fun s => readTimeout s req
/-- HOST_READ_COMPLETION (R389, R391). -/
def execHostReadCompletion (req : Nat) (data : List Byte) (status : HostStatus) (poison : Bool) (s : State) :
    Outcome State Fault Refusal :=
  act s fun s => readAnswer s req data status poison
/-- CXL_MEM_READ (R385): a peer's read is served as the host's is (R389); in the fatal state the answer is poisoned
(R518). -/
def execCxlMemRead (addr : Nat) (_peer : Bool) (s : State) : Outcome State Fault Refusal :=
  if hbmSize ≤ addr then .fault .noSuchMemory
  else if s.glb.fatal && s.cxl.linkUp then .next (emit s (.memData (addr / 64 * 64) 0 true))
  else act s fun s => memArrive s addr none
/-- CXL_MEM_WRITE (R385). -/
def execCxlMemWrite (addr : Nat) (data : Line) (mask : BitVec 64) (poison _peer : Bool) (s : State) : Outcome State Fault Refusal :=
  if hbmSize ≤ addr then .fault .noSuchMemory
  else act s fun s => memArrive s addr (some (data, mask, poison))
/-- HOST_SNOOP (R378): the device holds no line between accesses. -/
def execHostSnoop (addr : Nat) (s : State) : Outcome State Fault Refusal :=
  act s fun s => if linkAlive s then emit s (.snoopMiss addr) else s
/-- HDM_DECODER_COMMIT (R384): the base is aligned to 256 MiB. -/
def execHdmDecoderCommit (base : Nat) (s : State) : Outcome State Fault Refusal :=
  barAct s fun s => if base % 2 ^ 28 = 0 then modCxl s fun c => { c with hdmBase := some base } else s
/-- BIAS_SET (R387). -/
def execBiasSet (d : Line) (s : State) : Outcome State Fault Refusal := mgrCmd s d fun s => biasSet s d
/-- BIAS_PAGE_CHANGE (R387, R388). -/
def execBiasPageChange (page : Nat) (s : State) : Outcome State Fault Refusal := act s fun s => biasChange s page
/-- CXL_CACHE_RESPONSE (R386). -/
def execCxlCacheResponse (req : Nat) (data : Option Line) (s : State) : Outcome State Fault Refusal :=
  act s fun s => cacheResponse s req data
/-- CONFIG_WRITE (R397): before INIT_DONE it is answered Request Retry Status (R507). -/
def execConfigWrite (op : ConfigOp) (s : State) : Outcome State Fault Refusal :=
  need (configFn op) (hostAct s fun s => if s.cxl.linkUp && s.glb.initDone then configSet s op else s)

end Sys2Proof.Machine
end

