-- ==== Sys2Proof/Machine/NearRows.lean ====
section
/-! DEFINITION. NearRows.lean: the commands whose effects Near.lean computes. -/

namespace Sys2Proof.Machine

open Host (Outcome)

/-- NPT_ENABLE_WRITE (R301). -/
def execNptEnableWrite (n : Nat) (v : W64) (s : State) : Outcome State Fault Refusal :=
  need (wfNear n) (barAct s fun s => nptWrite s n v)
/-- NPT_MODE_WRITE (R323). -/
def execNptModeWrite (n : Nat) (v : W64) (s : State) : Outcome State Fault Refusal :=
  need (wfNear n) (barAct s fun s => nptWrite s n v)
/-- NPT_RESET_REQ (R323). -/
def execNptResetReq (n : Nat) (v : W64) (s : State) : Outcome State Fault Refusal :=
  need (wfNear n) (barAct s fun s => nptWrite s n v)

/-- NPT_SIGNAL_DETECTED: DARK to LIGHT, once a retry is not pending (R301). -/
def execNptSignalDetected (n : Nat) (s : State) : Outcome State Fault Refusal :=
  need (wfNear n) (act s fun s =>
    let p := getNear s n
    if p.mode = 0 && p.enable && p.state = 0 && p.since = 0 && nearLit s n then nearState s n 1 else s)
/-- NPT_LANES_LOCKED: LIGHT to ALIGN. -/
def execNptLanesLocked (n : Nat) (s : State) : Outcome State Fault Refusal :=
  need (wfNear n) (act s fun s => if (getNear s n).state = 1 then
      let r := draw s 31
      modNear (nearState r.2 n 2) n fun p => { p with prbs := r.1.setWidth 64 <<< 33 } else s)
/-- NPT_ALIGNED: ALIGN to PARAM; the first PARAM leaves (R302). -/
def execNptAligned (n : Nat) (s : State) : Outcome State Fault Refusal :=
  need (wfNear n) (act s fun s =>
    if (getNear s n).state = 2 then
      paramSend (modNear (nearState s n 3) n fun p => { p with paramRecv := false, echoRecv := false, echoSent := false }) n
    else s)

/-- NPT_STATE_TIMEOUT (R301). -/
def execNptStateTimeout (n : Nat) (s : State) : Outcome State Fault Refusal := need (wfNear n) (closeCmd s (.nearTimeout n))

/-- NPT_RETRY_TIMER: 10 ms after the port fell back to DARK bring-up runs again (R301). -/
def execNptRetryTimer (n : Nat) (s : State) : Outcome State Fault Refusal := need (wfNear n) (closeCmd s (.nearRetry n))

/-- ZLINK_PARAM (R302). -/
def execZlinkParam (n : Nat) (cell : Cell) (arrival : Gtc) (s : State) : Outcome State Fault Refusal :=
  need (wfNear n && cType cell = 0xD) (act s fun s =>
    let p := getNear s n
    if p.mode ≠ 0 || p.state ≠ 3 || cell.crc ≠ crc32c (cellBytes cell.hdr cell.payload) || zOp cell ≠ 0 || !paramOk cell.payload
    then s
    else
      let pay := cell.payload
      let echo := dbit pay 1 1
      let delay := (arrival - dfld pay 16 0 64 - dfld pay 24 0 16 * 16) / 2
      let s := modNear s n fun p => { p with
        paramRecv := true, scRead := dbit pay 1 2, farMax := [dfld pay 2 0 16, dfld pay 4 0 16, dfld pay 6 0 16]
        tEcho := dfld pay 8 0 64, tArrive := arrival, echoRecv := p.echoRecv || echo, delay := if echo then min 65535 delay else p.delay }
      let s := if p.echoSent then s
        else emit (modNear s n fun p => { p with echoSent := true })
          (.nearCell n (zLink 0 (paramPayload true s.now (dfld pay 8 0 64) ((s.now - arrival) / 16))))
      if (getNear s n).echoRecv then settleAll (nearActive s n) else s)

/-- ZLINK_MAINT (R324). -/
def execZlinkMaint (n : Nat) (cell : Cell) (bitErrors : Nat) (s : State) : Outcome State Fault Refusal :=
  need (wfNear n && cType cell = 0xD) (act s fun s =>
    zlinkTake s n 1 cell fun s => bump s (nearCnt n 14) bitErrors)
/-- ZUQUIN_IDLE (R304). -/
def execZuquinIdle (n : Nat) (cell : Cell) (s : State) : Outcome State Fault Refusal :=
  need (wfNear n && cType cell = 0) (act s fun s => nearTake s n cell fun s => s)
/-- ZUQUIN_CELL_ERROR: uncorrectable codeword, CRC failure or protocol error (R318). -/
def execZuquinCellError (n cause : Nat) (s : State) : Outcome State Fault Refusal :=
  need (wfNear n && 1 ≤ cause && cause ≤ 3) (act s fun s =>
    let s := if cause = 1 && (getNear s n).state ≥ 2 then
        let s := bump s (nearCnt n 13) 1
        let s := { s with cals := lmod s.cals (8 + n) fun c => { c with uncorr := sat 65535 (c.uncorr + 1) } }
        [8 + 2 * n, 9 + 2 * n].foldl (fun s e => modEng s e fun g => { g with excluded := g.excluded + 1 }) s else s
    nearReset s n cause false)
/-- ZLINK_RESET_REQ: starts a reset, or joins one (R318, Table 11.12). -/
def execZlinkResetReq (n : Nat) (cell : Cell) (s : State) : Outcome State Fault Refusal :=
  need (wfNear n && cType cell = 0xD) (act s fun s => zlinkTake s n 2 cell fun s =>
    match (getNear s n).lreset with
    | some r => modNear s n fun p => { p with lreset := some { r with heard := true } }
    | none => nearReset s n (max 1 (min 4 (dfld cell.payload 0 0 8))) true)
/-- NPT_RX_BUFFERS_EMPTY: RESET_ACK leaves (R318 step 4). -/
def execNptRxBuffersEmpty (n : Nat) (s : State) : Outcome State Fault Refusal :=
  need (wfNear n) (act s fun s =>
    match (getNear s n).lreset with
    | some r =>
      if r.sentAck || !(getNear s n).heldDb.isEmpty then s
      else settleAll (resetEnd (emit (modNear s n fun p => { p with lreset := some { r with sentAck := true } })
        (.nearCell n (zLink 3 0))) n)
    | none => s)
/-- ZLINK_RESET_ACK (R318 step 5). -/
def execZlinkResetAck (n : Nat) (cell : Cell) (s : State) : Outcome State Fault Refusal :=
  need (wfNear n && cType cell = 0xD) (act s fun s => zlinkTake s n 3 cell fun s =>
    match (getNear s n).lreset with
    | some r => settleAll (resetEnd (modNear s n fun p => { p with lreset := some { r with recvAck := true, heard := true } }) n)
    | none => s)
/-- LINK_RESET_TIMEOUT: 20 µs after its start a reset takes the port down (R320). -/
def execLinkResetTimeout (n : Nat) (s : State) : Outcome State Fault Refusal := need (wfNear n) (closeCmd s (.nearReset n))

/-- NPT_SIGNAL_LOSS (R320, R345). -/
def execNptSignalLoss (n : Nat) (s : State) : Outcome State Fault Refusal :=
  need (wfNear n) (act s fun s => nearDown s n)
/-- ZREQ_READ (R308). -/
def execZreqRead (n : Nat) (cell : Cell) (s : State) : Outcome State Fault Refusal :=
  need (wfNear n && cType cell = 0xA && zOp cell ≠ 1) (act s fun s => settleAll (nearTake s n cell fun s => inboundReq s n cell))
/-- ZREQ_WRITE (R308). -/
def execZreqWrite (n : Nat) (cell : Cell) (s : State) : Outcome State Fault Refusal :=
  need (wfNear n && cType cell = 0xA && zOp cell = 1) (act s fun s => settleAll (nearTake s n cell fun s => inboundReq s n cell))
/-- ZRSP_READ_DATA (R309). -/
def execZrspReadData (n : Nat) (cell : Cell) (s : State) : Outcome State Fault Refusal :=
  need (wfNear n && cType cell = 0xB) (act s fun s => settleAll (rspOp s n cell 0 fun s => readData s n cell))
/-- ZRSP_WRITE_DONE (R309). -/
def execZrspWriteDone (n : Nat) (cell : Cell) (s : State) : Outcome State Fault Refusal :=
  need (wfNear n && cType cell = 0xB) (act s fun s => settleAll (rspOp s n cell 1 fun s =>
    (List.range (min 31 (dfld cell.payload 0 0 8))).foldl (fun s i => writeDoneTag s n (dfld cell.payload (2 + 2 * i) 0 12)) s))
/-- ZRSP_PAGE_ABSENT (R317). -/
def execZrspPageAbsent (n : Nat) (cell : Cell) (s : State) : Outcome State Fault Refusal :=
  need (wfNear n && cType cell = 0xB) (act s fun s => settleAll (rspOp s n cell 2 fun s => pageAbsent s n cell))
/-- ZRSP_ERROR (R309). -/
def execZrspError (n : Nat) (cell : Cell) (s : State) : Outcome State Fault Refusal :=
  need (wfNear n && cType cell = 0xB) (act s fun s => settleAll (rspOp s n cell 3 fun s => errorAnswer s n cell))
/-- ZDB_DOORBELL (R316). -/
def execZdbDoorbell (n : Nat) (cell : Cell) (s : State) : Outcome State Fault Refusal :=
  need (wfNear n && cType cell = 0xC && zOp cell ≠ 2) (act s fun s => settleAll (nearTake s n cell fun s => zdbArrive s n cell))
/-- ZDB_PAGE_READY (R317). -/
def execZdbPageReady (n : Nat) (cell : Cell) (s : State) : Outcome State Fault Refusal :=
  need (wfNear n && cType cell = 0xC && zOp cell = 2) (act s fun s => settleAll (nearTake s n cell fun s => zdbArrive s n cell))
/-- NPT_WINDOW_SET (R314). -/
def execNptWindowSet (d : Line) (s : State) : Outcome State Fault Refusal := mgrCmd s d fun s => windowSet s d
/-- WINDOW_CHANGE_DONE (R315). -/
def execWindowChangeDone (n window : Nat) (s : State) : Outcome State Fault Refusal :=
  need (wfNear n && window < 256) (act s fun s => settleAll (windowDone s n window))

end Sys2Proof.Machine
end

