-- ==== Sys2Proof/Machine/OpticsRows.lean ====
section
/-! DEFINITION. OpticsRows.lean: the commands whose effects Optics.lean computes. -/

namespace Sys2Proof.Machine

open Host (Outcome)

/-- OPT_L_ENABLE_WRITE (R333). -/
def execOptLEnableWrite (v : W64) (s : State) : Outcome State Fault Refusal := barAct s fun s => optWrite s v
/-- LAT_LIGHT_DETECTED: DARK to LIGHT. -/
def execLatLightDetected (p : Nat) (s : State) : Outcome State Fault Refusal :=
  need (wfLat p) (act s fun s =>
    if (getLat s p).state = 0 && bringUpOk s p then modPort s p fun x => { x with state := 1, since := s.now } else s)
/-- LAT_LANES_LOCKED: LIGHT to ALIGN with at most 100 bit errors; survey cells start (R336). -/
def execLatLanesLocked (p bitErrors : Nat) (s : State) : Outcome State Fault Refusal :=
  need (wfLat p) (act s fun s =>
    if (getLat s p).state = 1 && bitErrors ≤ 100 then
      let r := draw s 31
      modPort r.2 p fun x => { x with
        state := 2, since := s.now, surveyFrom := cdiv s.now 1536 * 1536, surveyNext := cdiv s.now 1536 * 1536, surveySeq := 0
        far := none, prbs := r.1.setWidth 64 <<< 33 }
    else s)
/-- LAT_ALIGNED: ALIGN to ATTEST; attestation starts (R334, R487). -/
def execLatAligned (p : Nat) (s : State) : Outcome State Fault Refusal :=
  need (wfLat p) (act s fun s =>
    if (getLat s p).state = 2 then
      attestStart (modPort s p fun x => { x with
        state := 3, since := s.now, checked := none, attested := none, nonce := none, chain := none, resp := none }) p
    else s)
/-- LAT_STATE_TIMEOUT (R333, R334). -/
def execLatStateTimeout (p : Nat) (s : State) : Outcome State Fault Refusal := need (wfLat p) (closeCmd s (.latTimeout p))

/-- LAT_RETRY_TIMER: 10 ms after the fall to DARK bring-up runs again (R333). -/
def execLatRetryTimer (p : Nat) (s : State) : Outcome State Fault Refusal := need (wfLat p) (closeCmd s (.latRetry p))

/-- SURVEY_CELL_ARRIVAL (R336). -/
def execSurveyCellArrival (p : Nat) (cell : Cell) (arrival : Gtc) (s : State) : Outcome State Fault Refusal :=
  need (wfLat p) (act s fun s => surveyArrival s p cell arrival)
/-- LASER_LOW (R328). -/
def execLaserLow (e : Nat) (s : State) : Outcome State Fault Refusal :=
  need (wfEngine e) (act s fun s =>
    if (getEng s e).laserLow then s else engineFails (modEng s e fun g => { g with laserLow := true }) e)
/-- LASER_LOW_CLEAR (R328). -/
def execLaserLowClear (e : Nat) (s : State) : Outcome State Fault Refusal :=
  need (wfEngine e) (act s fun s => modEng s e fun g => { g with laserLow := false })
/-- LOSS_OF_LIGHT (R343). -/
def execLossOfLight (p lane : Nat) (s : State) : Outcome State Fault Refusal :=
  need (wfLat p && lane < 8) (act s fun s => portFails s p 0 lane)
/-- LATTICE_UNCORRECTABLE_CW (R343). -/
def execLatticeUncorrectableCw (p : Nat) (s : State) : Outcome State Fault Refusal :=
  need (wfLat p) (act s fun s => uncorrectable s p)
/-- CAL_WINDOW_CLOSE (R342): with the corrected bits that no tick has brought. -/
def execCalWindowClose (bits : List (Nat × Nat × Nat)) (s : State) : Outcome State Fault Refusal :=
  need (bits.all fun b => b.1 < 12) (act s fun s => windowClose (countBits s bits))
/-- HEATER_LIMIT (R340). -/
def execHeaterLimit (e : Nat) (s : State) : Outcome State Fault Refusal :=
  need (wfEngine e) (act s fun s => engineFails (modEng (mark s (0x130080 + 8 * e) 11) e fun g => { g with heaterLimit := true }) e)
/-- OE_SHUTDOWN (R347). -/
def execOeShutdown (e : Nat) (s : State) : Outcome State Fault Refusal :=
  need (wfEngine e) (act s fun s =>
    if (getEng s e).shutdown then s else engineFails (modEng s e fun g => { g with shutdown := true }) e)
/-- FAILURE_NOTICE: recorded, flooded and freezing; the link's port here is declared down (R193). -/
def execFailureNotice (port : Nat) (payload : Line) (s : State) : Outcome State Fault Refusal :=
  need (wfLat port) (act s fun s => if dfld payload 0 0 8 ≠ 1 then s else controlHeard s port payload)

end Sys2Proof.Machine
end

