-- ==== Sys2Proof/Machine/QueuePairsRows.lean ====
section
/-! DEFINITION. QueuePairsRows.lean: the commands whose effects QueuePairs.lean computes. -/

namespace Sys2Proof.Machine

open Host (Outcome)

/-- A descriptor row: the opcode is the row's. -/
def workRow (op qp : Nat) (d : Line) (s : State) : Outcome State Fault Refusal :=
  need (wfQp qp && dOpcode d = op) (act s fun s => handWork s qp (.work d))

/-- NOP (R76, R87). -/
def execNop (qp : Nat) (d : Line) (s : State) : Outcome State Fault Refusal := workRow 0x00 qp d s
/-- SEND (R105). -/
def execSend (qp : Nat) (d : Line) (s : State) : Outcome State Fault Refusal := workRow 0x01 qp d s
/-- WRITE (R107). -/
def execWrite (qp : Nat) (d : Line) (s : State) : Outcome State Fault Refusal := workRow 0x02 qp d s
/-- WRITE_TRIG (R108). -/
def execWriteTrig (qp : Nat) (d : Line) (s : State) : Outcome State Fault Refusal := workRow 0x03 qp d s
/-- READ (R109). -/
def execRead (qp : Nat) (d : Line) (s : State) : Outcome State Fault Refusal := workRow 0x04 qp d s
/-- RAW_SEND (R359). -/
def execRawSend (qp : Nat) (d : Line) (s : State) : Outcome State Fault Refusal := workRow 0x05 qp d s
/-- ALLREDUCE_SUM (R231, R238). -/
def execAllreduceSum (qp : Nat) (d : Line) (s : State) : Outcome State Fault Refusal := workRow 0x10 qp d s
/-- ALLREDUCE_MAX (R241). -/
def execAllreduceMax (qp : Nat) (d : Line) (s : State) : Outcome State Fault Refusal := workRow 0x11 qp d s
/-- REDUCE_SCATTER (R241). -/
def execReduceScatter (qp : Nat) (d : Line) (s : State) : Outcome State Fault Refusal := workRow 0x12 qp d s
/-- ALLGATHER (R241). -/
def execAllgather (qp : Nat) (d : Line) (s : State) : Outcome State Fault Refusal := workRow 0x13 qp d s
/-- BROADCAST (R241). -/
def execBroadcast (qp : Nat) (d : Line) (s : State) : Outcome State Fault Refusal := workRow 0x14 qp d s
/-- BARRIER (R241). -/
def execBarrier (qp : Nat) (d : Line) (s : State) : Outcome State Fault Refusal := workRow 0x15 qp d s
/-- RECV (R78, R133). -/
def execRecv (qp : Nat) (d : Line) (s : State) : Outcome State Fault Refusal :=
  need (wfQp qp && dOpcode d = 0x08) (act s fun s => handWork s qp (.recv d))
/-- RAW_RECV (R358). -/
def execRawRecv (qp : Nat) (d : Line) (s : State) : Outcome State Fault Refusal :=
  need (wfQp qp && dOpcode d = 0x09) (act s fun s => handWork s qp (.recv d))
/-- TRIGGERED (R80, R81). -/
def execTriggered (qp : Nat) (d work : Line) (s : State) : Outcome State Fault Refusal :=
  need (wfQp qp && dOpcode d = 0x20) (act s fun s => handWork s qp (.pair d work))

/-- QP_CREATE (R100). -/
def execQpCreate (d : Line) (s : State) : Outcome State Fault Refusal := mgrCmd s d fun s => qpCreate s d
/-- QP_MODIFY (R104). -/
def execQpModify (d : Line) (s : State) : Outcome State Fault Refusal := mgrCmd s d fun s => qpModify s d
/-- QP_DESTROY (R100). -/
def execQpDestroy (d : Line) (s : State) : Outcome State Fault Refusal := mgrCmd s d fun s => qpDestroy s d
/-- REGION_REGISTER (R133). -/
def execRegionRegister (d : Line) (pins : List Pin) (s : State) : Outcome State Fault Refusal :=
  mgrCmd s d fun s => regionRegister s d pins
/-- REGION_INVALIDATE (R135). -/
def execRegionInvalidate (d : Line) (s : State) : Outcome State Fault Refusal := mgrCmd s d fun s => regionInvalidate s d
/-- REGION_INVALIDATE_DONE (R135). -/
def execRegionInvalidateDone (key : Nat) (s : State) : Outcome State Fault Refusal := act s fun s => regionDone s key

/-- SQD_DRAIN_DONE (R103): the command completes once every segment admitted before is acknowledged. -/
def execSqdDrainDone (qp : Nat) (s : State) : Outcome State Fault Refusal :=
  need (wfQp qp) (act s fun s =>
    match getQp s qp with
    | some q =>
      match q.sqdWait with
      | some d => if sqdDrained q then mgrOk (modQp s qp fun q => { q with sqdWait := none }) d else s
      | none => s
    | none => s)

/-- QP_CONTEXT_LOADED (R99): the wait of at most 400 ns is over. -/
def execQpContextLoaded (qp : Nat) (s : State) : Outcome State Fault Refusal :=
  need (wfQp qp) (act s fun s => contextLoaded s qp)

/-- HEAD_CELL_ARRIVAL (R116). -/
def execHeadCellArrival (via : Via) (cell : Cell) (s : State) : Outcome State Fault Refusal :=
  need (cType cell = 1) (act s fun s => qpCell s via cell true)
/-- DATA_CELL_ARRIVAL (R120). -/
def execDataCellArrival (via : Via) (cell : Cell) (s : State) : Outcome State Fault Refusal :=
  need (cType cell = 2) (act s fun s => qpCell s via cell true)
/-- SEGMENT_COMPLETE (R121). -/
def execSegmentComplete (qp seq : Nat) (s : State) : Outcome State Fault Refusal :=
  need (wfQp qp) (act s fun s => shadowPump (settle (completeSeg s qp (seq % 4096))))

end Sys2Proof.Machine
end

