-- ==== Sys2Proof/Machine/RegistersRows.lean ====
section
/-! DEFINITION. RegistersRows.lean: the commands whose effects Registers.lean computes. -/

namespace Sys2Proof.Machine

open Host (Outcome)

/-- As `hostAct`, for a write that may reset the device, and its clock with it (R509). -/
def writeAct (s : State) (f : State → State) : Outcome State Fault Refusal :=
  .next (if alive s then commit s (f (if s.running then closeDue s else s)) else s)

/-- REGISTER_WRITE (R523). -/
def execRegisterWrite (fn offset width : Nat) (v : W64) (s : State) : Outcome State Fault Refusal :=
  need (wfFn fn && wfOffset offset && (width = 1 || width = 2 || width = 4 || width = 8))
    (writeAct s fun s => barWrite s fn offset width v)

/-- COMPAT_COUNTER_READ (R376). -/
def execCompatCounterRead (offset width : Nat) (s : State) : Outcome State Fault Refusal :=
  need (wfOffset offset && (width = 1 || width = 2 || width = 4 || width = 8)) (barAct s fun s => compatRead s offset width)

/-- MGMT_REG_READ (R553). -/
def execMgmtRegRead (offset : Nat) (s : State) : Outcome State Fault Refusal := hostAct s fun s => mgmtRead s offset

/-- MGMT_REG_WRITE (R553). -/
def execMgmtRegWrite (offset : Nat) (v : W64) (pecOk : Bool) (s : State) : Outcome State Fault Refusal :=
  writeAct s fun s => mgmtWrite s offset v pecOk

end Sys2Proof.Machine
end

