-- ==== Sys2Proof/Machine/RingsRows.lean ====
section
/-! DEFINITION. RingsRows.lean: the commands whose effects Rings.lean computes. -/

namespace Sys2Proof.Machine

open Host (Outcome)

/-- DOORBELL_PRODUCER (R69). -/
def execDoorbellProducer (fn num index : Nat) (s : State) : Outcome State Fault Refusal :=
  need (wfFn fn && wfBell num && wfIndex index) (bellAct s fun s => doorbell s fn num 0 index)

/-- DOORBELL_CONSUMER (R69). -/
def execDoorbellConsumer (fn num index : Nat) (s : State) : Outcome State Fault Refusal :=
  need (wfFn fn && wfBell num && wfIndex index) (bellAct s fun s => doorbell s fn num 1 index)

/-- DOORBELL_CONSUMER_ARM (R92). -/
def execDoorbellConsumerArm (fn num index : Nat) (s : State) : Outcome State Fault Refusal :=
  need (wfFn fn && wfBell num && wfIndex index) (bellAct s fun s => doorbell s fn num 2 index)

/-- DESCRIPTOR_FETCH_RESULT (R74). -/
def execDescriptorFetchResult (ring : RingRef) (d : Line) (poison : Bool) (s : State) : Outcome State Fault Refusal :=
  act s fun s => settle (takeFetch s ring d poison)

/-- DESCRIPTOR_REFETCH (R74): re-fetch k leaves 240 ns times k after the window opened, k at most 8. -/
def execDescriptorRefetch (ring : RingRef) (s : State) : Outcome State Fault Refusal := closeCmd s (.refetch ring)

/-- DOORBELL_AHEAD_WINDOW_CLOSE (R74). -/
def execDoorbellAheadWindowClose (ring : RingRef) (s : State) : Outcome State Fault Refusal := closeCmd s (.ahead ring)

/-- RING_CREATE (R82, R83). -/
def execRingCreate (fn : Nat) (d : Line) (s : State) : Outcome State Fault Refusal :=
  need (wfFn fn) (act s fun s =>
    let s := takeHanded s (.ctlSq fn) d
    let r := createReason s fn d
    if r = 0 then ctlDone (createRing s fn d) fn d 0 0 else ctlDone s fn d 0xC r)

/-- RING_DESTROY (R82, R83): no more descriptors are fetched; the command waits for those that were. -/
def execRingDestroy (fn : Nat) (d : Line) (s : State) : Outcome State Fault Refusal :=
  need (wfFn fn) (act s fun s =>
    let s := takeHanded s (.ctlSq fn) d
    match rcRef fn d with
    | none => ctlDone s fn d 0xC 4
    | some ref =>
      if !refPresent s fn ref then ctlDone s fn d 0xC 3
      else if rcKind d = 2 && cqBound s fn (rcObject d) then ctlDone s fn d 0xC 7
      else
        let s := modRing (dropFetches s ref) ref fun r => { r with enabled := false, window := none, destroy := r.destroy ++ [d] }
        modCq s ref fun q => { q with destroy := q.destroy ++ [d] })

/-- RING_DESTROY_DONE (R82): the ring goes and the command completes. -/
def execRingDestroyDone (ring : RingRef) (s : State) : Outcome State Fault Refusal :=
  act s fun s =>
    let ds := destroyCmd s ring
    if ds = [] || !ringQuiet s ring then s
    else
      let fn := refFn s ring
      ds.foldl (fun s d => ctlDone s fn d 0 0) (removeRing s ring)

/-- RING_REBIND (R96): a ring in host memory leaves the journal, or fetches again. While the link does not carry the function
it completes and the ring stays journalled or stopped (DESIGN CHOICE, log 94). -/
def execRingRebind (fn : Nat) (d : Line) (s : State) : Outcome State Fault Refusal :=
  need (wfFn fn) (act s fun s =>
    let s := takeHanded s (.ctlSq fn) d
    match rcRef fn d with
    | none => ctlDone s fn d 0xC 4
    | some ref =>
      if !refPresent s fn ref then ctlDone s fn d 0xC 3
      else
        let up := fnUp s fn
        let s := modRing s ref fun r => { r with linkStop := r.linkStop && !up }
        let s := modCq s ref fun q => { q with journalled := q.journalled && !up }
        startFetch (ctlDone s fn d 0 0) ref)

/-- INTERRUPT_MODERATION_CLOSE (R92): the close of the ring's moderation window, or the cycle after an arming doorbell that
found unfreed records. -/
def execInterruptModerationClose (ring : RingRef) (s : State) : Outcome State Fault Refusal :=
  closeCmd s (if (closeAt s (.arming ring)).isSome then .arming ring else .moderation ring)

/-- CTL_RING_ENABLE (R65). -/
def execCtlRingEnable (fn : Nat) (v : W64) (s : State) : Outcome State Fault Refusal :=
  need (wfFn fn) (barAct s fun s => if barOpen s fn then ctlEnable s fn v else badBell s fn)

/-- CTL_RING_DISABLE (R65). -/
def execCtlRingDisable (fn : Nat) (v : W64) (s : State) : Outcome State Fault Refusal :=
  need (wfFn fn) (barAct s fun s => if barOpen s fn then ctlDisable s fn v else badBell s fn)

/-- MGR_RING_ENABLE (R530). -/
def execMgrRingEnable (v : W64) (s : State) : Outcome State Fault Refusal := barAct s fun s => mgrEnable s v

/-- MGR_RING_DISABLE (R530). -/
def execMgrRingDisable (v : W64) (s : State) : Outcome State Fault Refusal := barAct s fun s => mgrDisable s v

/-- JOURNAL_CLEAR (R93). -/
def execJournalClear (v : W64) (s : State) : Outcome State Fault Refusal := barAct s fun s => journalWrite s v

end Sys2Proof.Machine
end

