-- ==== Sys2Proof/Machine/RouterRows.lean ====
section
/-! DEFINITION. RouterRows.lean: the commands whose effects Router.lean computes. -/

namespace Sys2Proof.Machine

open Host (Outcome)

/-- LATTICE_CELL_ARRIVAL (R157). -/
def execLatticeCellArrival (port slot : Nat) (cell : Cell) (s : State) : Outcome State Fault Refusal :=
  need (wfLat port) (act s fun s => latArrival s port slot cell)
/-- ABSORPTION_AGEING (R159). -/
def execAbsorptionAgeing (plane : Nat) (s : State) : Outcome State Fault Refusal := need (wfPlane plane) (closeCmd s (.absorbed plane))

/-- LAT_CFG_WRITE (R150). -/
def execLatCfgWrite (v : W64) (s : State) : Outcome State Fault Refusal := barAct s fun s => latCfgWrite s v
/-- LAT_TABLE_LOAD (R168). -/
def execLatTableLoad (d : Line) (s : State) : Outcome State Fault Refusal := mgrCmd s d fun s => tableLoad s d
/-- LAT_EPOCH_SWITCH (R169). -/
def execLatEpochSwitch (d : Line) (s : State) : Outcome State Fault Refusal := mgrCmd s d fun s => epochSwitch s d
/-- EPOCH_ANNOUNCE (R169). -/
def execEpochAnnounce (port tableId ks : Nat) (s : State) : Outcome State Fault Refusal :=
  need (wfLat port) (act s fun s => epochHeard s port tableId ks)
/-- EPOCH_OLD_RETIRE (R169). -/
def execEpochOldRetire (s : State) : Outcome State Fault Refusal := closeCmd s .oldTable

end Sys2Proof.Machine
end

