-- ==== Sys2Proof/Machine/SchedRows.lean ====
section
/-! DEFINITION. SchedRows.lean: the commands whose effects Sched.lean computes. -/

namespace Sys2Proof.Machine

open Host (Outcome)

/-- LATTICE_INJECTION (R451): at the end of the cycle, after steps 1 to 4 of Table 5.4 on all its cells. -/
def execLatticeInjection (s : State) : Outcome State Fault Refusal := act s fun s => modCyc s fun c => { c with inject := true }
/-- SCH_SET_LOAD (R186). -/
def execSchSetLoad (d : Line) (s : State) : Outcome State Fault Refusal := mgrCmd s d fun s => setLoad s d
/-- SCH_SET_ACTIVATE (R188). -/
def execSchSetActivate (d : Line) (s : State) : Outcome State Fault Refusal := mgrCmd s d fun s => setActivate s d
/-- SCH_SET_UNLOAD (R187). -/
def execSchSetUnload (d : Line) (s : State) : Outcome State Fault Refusal := mgrCmd s d fun s => setUnload s d
/-- SCH_FLOW_BIND (R187). -/
def execSchFlowBind (d : Line) (s : State) : Outcome State Fault Refusal := mgrCmd s d fun s => flowBind s d
/-- SET_ANNOUNCEMENT (R188). -/
def execSetAnnouncement (port setId base cycle folio : Nat) (s : State) : Outcome State Fault Refusal :=
  need (wfLat port) (act s fun s => announceHeard s port setId base cycle folio)
/-- SET_LOADED (R187). -/
def execSetLoaded (port setId coord : Nat) (s : State) : Outcome State Fault Refusal :=
  need (wfLat port) (act s fun s => loadedHeard s port setId coord)

end Sys2Proof.Machine
end

