-- ==== Sys2Proof/Machine/SecurityRows.lean ====
section
/-! DEFINITION. SecurityRows.lean: the commands whose effects Security.lean computes. -/

namespace Sys2Proof.Machine

open Host (Outcome)

/-- SEC_OWNER_BIND (R480). -/
def execSecOwnerBind (d : Line) (s : State) : Outcome State Fault Refusal := mgrCmd s d fun s => ownerBind s d
/-- SEC_SVN_COMMIT (R481). -/
def execSecSvnCommit (d : Line) (s : State) : Outcome State Fault Refusal := mgrCmd s d fun s => svnCommit s d
/-- SEC_CERT_INSTALL (R482). -/
def execSecCertInstall (d : Line) (names : Bool) (s : State) : Outcome State Fault Refusal :=
  mgrCmd s d fun s => certInstall s d names
/-- FW_STAGE (R490). -/
def execFwStage (d : Line) (s : State) : Outcome State Fault Refusal := mgrCmd s d fun s => fwStage s d
/-- The image of an update has been written and is verified (R490). -/
def execFwStageDone (s : State) : Outcome State Fault Refusal := act s updateEnd
/-- FW_ACTIVATE (R490). -/
def execFwActivate (d : Line) (s : State) : Outcome State Fault Refusal := mgrCmd s d fun s => fwActivate s d
/-- PLDM_FW_UPDATE (R24, R479, R490): answered by firmware, or by the ROM in recovery and while firmware is halted, which an
image from the management bus restarts (log 107). -/
def execPldmFwUpdate (image : List Byte) (s : State) : Outcome State Fault Refusal :=
  act s fun s =>
    if !(fwAlive s || s.glb.recovery || s.glb.fwHalted) || s.sec.staging.isSome then s
    else if image.length > 15 * 2 ^ 20 then mctpEmit s (.mctpUpdate 1)
    else stageImage s none image

/-- SPDM GET_VERSION (R484). -/
def execSpdmGetVersion (bus : SpdmBus) (s : State) : Outcome State Fault Refusal :=
  act s fun s => if spdmHeard s bus then spdmAnswer (setAgreed s bus (true, false, false)) bus 0x04 [0x13] else s
/-- SPDM GET_CAPABILITIES (R484). -/
def execSpdmGetCapabilities (bus : SpdmBus) (s : State) : Outcome State Fault Refusal :=
  act s fun s =>
    if !spdmHeard s bus then s
    else if (spdmAgreed s bus).1 then spdmAnswer (setAgreed s bus (true, true, false)) bus 0x61 []
    else spdmError s bus 0x04
/-- SPDM NEGOTIATE_ALGORITHMS (R484). -/
def execSpdmNegotiateAlgorithms (bus : SpdmBus) (hash asym dhe aead : Bool) (s : State) : Outcome State Fault Refusal :=
  act s fun s =>
    if !spdmHeard s bus then s
    else if !(spdmAgreed s bus).2.1 then spdmError s bus 0x04
    else if hash && asym && dhe && aead then spdmAnswer (setAgreed s bus (true, true, true)) bus 0x63 []
    else spdmError s bus 0x07
/-- SPDM GET_DIGESTS (R484). -/
def execSpdmGetDigests (bus : SpdmBus) (s : State) : Outcome State Fault Refusal :=
  act s fun s => spdmReady s bus fun s => spdmAnswer s bus 0x01 [] (sha256 (s.sec.identCert ++ s.sec.attCert))
/-- SPDM GET_CERTIFICATE (R484): slot 0 only. -/
def execSpdmGetCertificate (bus : SpdmBus) (slot offset length : Nat) (s : State) : Outcome State Fault Refusal :=
  act s fun s => spdmReady s bus fun s =>
    if slot ≠ 0 then spdmError s bus 0x01
    else spdmAnswer s bus 0x02 [slot, offset, length] (((s.sec.identCert ++ s.sec.attCert).drop offset).take length)
/-- SPDM CHALLENGE (R484). -/
def execSpdmChallenge (bus : SpdmBus) (slot : Nat) (nonce : BitVec 256) (s : State) : Outcome State Fault Refusal :=
  act s fun s => spdmReady s bus fun s =>
    if slot ≠ 0 then spdmError s bus 0x01 else spdmSign s bus 0x03 [nonce.toNat, (measDigest s).toNat]
/-- SPDM GET_MEASUREMENTS (R484). -/
def execSpdmGetMeasurements (bus : SpdmBus) (index : Nat) (nonce : BitVec 256) (signed : Bool) (s : State) :
    Outcome State Fault Refusal :=
  act s fun s => spdmReady s bus fun s => getMeasurements s bus index nonce signed
/-- SPDM KEY_EXCHANGE (R485). -/
def execSpdmKeyExchange (bus : SpdmBus) (reqId : Nat) (s : State) : Outcome State Fault Refusal :=
  act s fun s => spdmReady s bus fun s => keyExchange s bus reqId
/-- SPDM FINISH (R484). -/
def execSpdmFinish (bus : SpdmBus) (session : Nat) (ok : Bool) (s : State) : Outcome State Fault Refusal :=
  act s fun s => spdmReady s bus fun s => finishSession s bus session ok
/-- SPDM END_SESSION (R484). -/
def execSpdmEndSession (bus : SpdmBus) (session : Nat) (s : State) : Outcome State Fault Refusal :=
  act s fun s => spdmReady s bus fun s => inSession s bus session fun s => spdmAnswer (dropSession s session) bus 0x6C []
/-- SPDM HEARTBEAT (R484). -/
def execSpdmHeartbeat (bus : SpdmBus) (session : Nat) (s : State) : Outcome State Fault Refusal :=
  act s fun s => spdmReady s bus fun s => inSession s bus session fun s => spdmAnswer s bus 0x68 []
/-- SPDM_RESPONSE_NOT_READY (R485): the request that has waited longest is told so; it keeps its place. -/
def execSpdmResponseNotReady (s : State) : Outcome State Fault Refusal :=
  act s fun s =>
    match (match s.sec.signing with | some (.spdm r) => (if r.code = 0 then [] else [r]) | _ => []) ++ s.sec.spdmQ with
    | r :: _ => if spdmHeard s r.bus then spdmError s r.bus 0x42 else s
    | [] => s

end Sys2Proof.Machine
end

