-- ==== Sys2Proof/Machine/SegmentsRows.lean ====
section
/-! DEFINITION. SegmentsRows.lean: the commands whose effects Segments.lean computes. -/

namespace Sys2Proof.Machine

open Host (Outcome)

/-- CTX_CREATE (R403). -/
def execCtxCreate (d : Line) (s : State) : Outcome State Fault Refusal := mgrCmd s d fun s => ctxCreate s d
/-- CTX_DESTROY (R403). -/
def execCtxDestroy (d : Line) (s : State) : Outcome State Fault Refusal := mgrCmd s d fun s => ctxDestroy s d
/-- SEG_SET (R404). -/
def execSegSet (d : Line) (pins : List Pin) (s : State) : Outcome State Fault Refusal := mgrCmd s d fun s => segSet s d pins
/-- SEG_INVALIDATE (R415). -/
def execSegInvalidate (d : Line) (s : State) : Outcome State Fault Refusal := mgrCmd s d fun s => segInvalidate s d
/-- SEG_INVALIDATE_DONE (R416). -/
def execSegInvalidateDone (ctx index : Nat) (s : State) : Outcome State Fault Refusal := act s fun s => segDone s ctx index
/-- FAULT_RESUME (R413). -/
def execFaultResume (d : Line) (s : State) : Outcome State Fault Refusal := mgrCmd s d fun s => faultResume s d
/-- FAULT_WAITER_TIMEOUT (R411). -/
def execFaultWaiterTimeout (fault waiter : Nat) (s : State) : Outcome State Fault Refusal :=
  closeCmd s (.waiter fault waiter)
/-- DIRTY_LOG (R418). -/
def execDirtyLog (d : Line) (s : State) : Outcome State Fault Refusal := mgrCmd s d fun s => dirtyLog s d
/-- ATS_TRANSLATION_RESULT (R407). -/
def execAtsTranslationResult (fn pasid page : Nat) (readOk writeOk : Bool) (target : Nat) (s : State) : Outcome State Fault Refusal :=
  need (wfFn fn) (act s fun s => atsResult s fn pasid page readOk writeOk target)
/-- ATS_INVALIDATION_REQUEST (R417). -/
def execAtsInvalidationRequest (fn pasid page count : Nat) (s : State) : Outcome State Fault Refusal :=
  need (wfFn fn) (act s fun s => atsInvalidate s fn pasid page count)
/-- PRG_RESPONSE (R410). -/
def execPrgResponse (fault : Nat) (code : PrgCode) (s : State) : Outcome State Fault Refusal :=
  act s fun s => prgAnswer s fault code

end Sys2Proof.Machine
end

