-- ==== Sys2Proof/Machine/SignRows.lean ====
section
/-! DEFINITION. SignRows.lean: the commands whose effects Sign.lean computes. -/

namespace Sys2Proof.Machine

open Host (Outcome)

/-- ATTEST_CHALLENGE (R487). -/
def execAttestChallenge (p : Nat) (nonce : BitVec 256) (farPort farCoord : Nat) (s : State) :
    Outcome State Fault Refusal :=
  need (wfLat p && farPort < 256 && farCoord < 1024) (act s fun s => challengeHeard s p nonce farPort farCoord)
/-- ATTEST_CHAIN (R487). -/
def execAttestChain (p : Nat) (chain : ChainMsg) (s : State) : Outcome State Fault Refusal :=
  need (wfLat p) (act s fun s =>
    if (getLat s p).state ≠ 3 then s else attestVerify (modPort s p fun x => { x with chain := some chain }) p)
/-- ATTEST_RESPONSE (R489). -/
def execAttestResponse (p : Nat) (resp : RespMsg) (s : State) : Outcome State Fault Refusal :=
  need (wfLat p) (act s fun s =>
    if (getLat s p).state ≠ 3 then s else attestVerify (modPort s p fun x => { x with resp := some resp }) p)

/-- SIGNATURE_DONE (R472). -/
def execSignatureDone (sig : List Byte) (s : State) : Outcome State Fault Refusal := act s fun s => signatureDone s sig

end Sys2Proof.Machine
end

