-- ==== Sys2Proof/Machine/SwapRows.lean ====
section
/-! DEFINITION. SwapRows.lean: the commands whose effects Swap.lean computes. -/

namespace Sys2Proof.Machine

open Host (Outcome)

/-- CARREL_EXPORT (R439). -/
def execCarrelExport (d : Line) (s : State) : Outcome State Fault Refusal := mgrCmd s d fun s => carrelExport s d
/-- CARREL_IMPORT (R440). -/
def execCarrelImport (d : Line) (s : State) : Outcome State Fault Refusal := mgrCmd s d fun s => carrelImport s d
/-- ALLOC_DIRTY (R442). -/
def execAllocDirty (d : Line) (s : State) : Outcome State Fault Refusal := mgrCmd s d fun s => allocDirty s d

end Sys2Proof.Machine
end

