-- ==== Sys2Proof/Machine/Tick.lean ====
section
/-! DEFINITION. Tick.lean: FOLIO_TICK: every action of Table 1.5 at one tick, on the state in force for the folio that
begins (R13, R31). -/

namespace Sys2Proof.Machine

open Host (Outcome)

/-- The clock runs to the last cycle of the folio, whose quanta end there, and then to the next tick, which fires; a folio
size due by then takes effect first (R12, R31, R33, R58). -/
def reachTick (s : State) : State :=
  let s := cycleEnd (collEnd (engineEnd (closeDue (s.goTo s.lastCycle))))
  let s := match s.time.fsNext with
    | some (_, g) => if g ≤ s.nextTickAt then sizeChange s else s
    | none => s
  modTime (s.runTo s.nextTickAt) fun t => { t with tick := t.tick + 1 }

/-- RWT registers take effect (R15); those of counters and near ports do so with their units. -/
def rwtTick (s : State) : State :=
  let s := { s with
    macCfg := s.macCfg.map Rwt.commit
    macs := s.macs.map fun m => { m with pfc := m.pfc.commit }
    prioWeight := s.prioWeight.commit, calCfg := s.calCfg.commit
    zoo := { s.zoo with scrubCfg := s.zoo.scrubCfg.commit } }
  modLat (modCxl s fun c => { c with hdmAccess := c.hdmAccess.map Rwt.commit }) fun l => { l with ccCfg := l.ccCfg.commit }

/-- What is staged before the tick commits (R14, R430). -/
def commitTick (s : State) : State :=
  peerMoves (qpCommands (quiesceTick (vfTick (nearTick (bucketTick (commitCarrels (rwtTick s)))))))

/-- Dumps, logs and fault records stamped at the tick (R412, R418, R442, R460). -/
def recordTick (s : State) : State := faultTick (allocDirtyTick (dirtyTick (cntTick s)))

/-- Calibration and time corrections, the route epoch and the gate lists of the folio (R13, R169, R188, R347). -/
def opticTick (s : State) (inp : TickInputs) : State :=
  schedTick (timeTick (enginePorts (equaliserTick (heaterTick (opticSample (epochTick s) inp) inp.heaterErr))))

/-- Queued work is admitted and the engines receive their quanta (R58, R189, R260). -/
def workTick (s : State) : State :=
  engineTick (selftestTick (collTick (admitAll (flushPump (sendNotices (rateTick s))))))

/-- Tick k: what the clock brings, the counters as they stand, the windows that close there (R36), and then the actions of Table
1.5. -/
def folioTick (s : State) (inp : TickInputs) : State :=
  settleAll (workTick (opticTick (recordTick (commitTick (closeDue (latchTick (countCorrected (stepTick (reachTick s)) inp))))) inp))

/-- The inputs name engines 0 to 15 and transmit lanes 0 to 7 of them, ports and MACs the part has. -/
def wfInputs (inp : TickInputs) : Bool :=
  inp.temps.all (fun x => x.1 < 16) && inp.heaterErr.all (fun x => x.1 < 128) && inp.laserPwr.all (fun x => x.1 < 16) &&
  inp.bits.all (fun x => x.1 < 12) && inp.codewords.all (fun x => x.1 < 8) && inp.symbols.all fun x => x.1 < 16

end Sys2Proof.Machine
end

