-- ==== Sys2Proof/Machine/TickRows.lean ====
section
/-! DEFINITION. TickRows.lean: the commands whose effects Tick.lean computes. -/

namespace Sys2Proof.Machine

open Host (Outcome)

/-- FOLIO_TICK (R13). -/
def execFolioTick (inp : TickInputs) (s : State) : Outcome State Fault Refusal :=
  need (wfInputs inp) (actTime s fun s => folioTick s inp)

end Sys2Proof.Machine
end

