-- ==== Sys2Proof/Machine/TimeRows.lean ====
section
/-! DEFINITION. TimeRows.lean: the commands whose effects Time.lean computes. -/

namespace Sys2Proof.Machine

open Host (Outcome)

/-- TIM_FOLIO_SIZE_WRITE (R33). -/
def execTimFolioSizeWrite (v : W64) (s : State) : Outcome State Fault Refusal := barAct s fun s => timWrite s v
/-- FOLIO_SIZE_CHANGE (R33): the size is in force from the cycle of the tick it falls on; the number of the folio before it is
the new size's. -/
def execFolioSizeChange (s : State) : Outcome State Fault Refusal :=
  actTime s fun s =>
    match s.time.fsNext with
    | some (_, g) =>
      if g ≤ s.now then sizeChange s
      else if g ≤ s.nextTickAt then sizeChange (s.goTo s.lastCycle) else s
    | none => s

/-- GTC_STEP (R50). -/
def execGtcStep (d : Line) (s : State) : Outcome State Fault Refusal := mgrCmd s d fun s => gtcStep s d
/-- ROOT_FAILOVER (R43). -/
def execRootFailover (s : State) : Outcome State Fault Refusal := closeCmd s .rootSilent

/-- REF_ACQUIRE (R55). -/
def execRefAcquire (seconds : Nat) (s : State) : Outcome State Fault Refusal := act s fun s => refAcquire s seconds
/-- REF_LOSS (R54). -/
def execRefLoss (cause : RefLossCause) (s : State) : Outcome State Fault Refusal := act s fun s => refLoss s cause
/-- REF_RETURN (R54). -/
def execRefReturn (seconds : Nat) (s : State) : Outcome State Fault Refusal := act s fun s => refReturn s seconds
/-- PPS_OUT_PULSE (R57). -/
def execPpsOutPulse (s : State) : Outcome State Fault Refusal := closeCmd s .ppsRise

/-- PPS_OUT_PULSE_END (R57). -/
def execPpsOutPulseEnd (s : State) : Outcome State Fault Refusal := closeCmd s .ppsFall

/-- PPS_IN_EDGE (R53, R55). -/
def execPpsInEdge (s : State) : Outcome State Fault Refusal := act s ppsEdge
/-- STEP_ANNOUNCE (R50, R337). -/
def execStepAnnounce (port n ks : Nat) (s : State) : Outcome State Fault Refusal :=
  need (wfLat port) (act s fun s => stepHeard s port n ks)

end Sys2Proof.Machine
end

