-- ==== Sys2Proof/Machine/WfqRows.lean ====
section
/-! DEFINITION. WfqRows.lean: the commands whose effects Wfq.lean computes. -/

namespace Sys2Proof.Machine

open Host (Outcome)

/-- SCHED_CARREL (R454). -/
def execSchedCarrel (d : Line) (s : State) : Outcome State Fault Refusal := mgrCmd s d fun s => schedCarrel s d
/-- QP_SHAPE (R454). -/
def execQpShape (d : Line) (s : State) : Outcome State Fault Refusal := mgrCmd s d fun s => qpShape s d

end Sys2Proof.Machine
end

