-- ==== Sys2Proof/Machine/Dispatch.lean ====
section
/-! DEFINITION. Dispatch.lean: one arm per command, each one call of the command's meaning. -/

namespace Sys2Proof.Machine

/-- The effect of a command on everything but the queue. -/
def exec (i : Instr) (s : State) : Host.Outcome State Fault Refusal :=
  match i with
  | .devResetNRelease mgmtMode addrSel testMode => Sys2Proof.Machine.execDevResetNRelease mgmtMode addrSel testMode s
  | .hbmStackFailure stack => Sys2Proof.Machine.execHbmStackFailure stack s
  | .granuleZeroFillDone g => Sys2Proof.Machine.execGranuleZeroFillDone g s
  | .glbCtlDeviceReset v => Sys2Proof.Machine.execGlbCtlDeviceReset v s
  | .thermalWarning dieT hbmT => Sys2Proof.Machine.execThermalWarning dieT hbmT s
  | .bridgeWordError corrected line => Sys2Proof.Machine.execBridgeWordError corrected line s
  | .controlStateUncorrectable src => Sys2Proof.Machine.execControlStateUncorrectable src s
  | .ondieUncorrectable code obj => Sys2Proof.Machine.execOndieUncorrectable code obj s
  | .folioTick inp => Sys2Proof.Machine.execFolioTick inp s
  | .timFolioSizeWrite v => Sys2Proof.Machine.execTimFolioSizeWrite v s
  | .gtcStep d => Sys2Proof.Machine.execGtcStep d s
  | .refAcquire seconds => Sys2Proof.Machine.execRefAcquire seconds s
  | .refLoss cause => Sys2Proof.Machine.execRefLoss cause s
  | .refReturn seconds => Sys2Proof.Machine.execRefReturn seconds s
  | .doorbellProducer fn num index => Sys2Proof.Machine.execDoorbellProducer fn num index s
  | .doorbellConsumer fn num index => Sys2Proof.Machine.execDoorbellConsumer fn num index s
  | .doorbellConsumerArm fn num index => Sys2Proof.Machine.execDoorbellConsumerArm fn num index s
  | .zdbDoorbell n cell => Sys2Proof.Machine.execZdbDoorbell n cell s
  | .descriptorFetchResult ring d poison => Sys2Proof.Machine.execDescriptorFetchResult ring d poison s
  | .descriptorRefetch ring => Sys2Proof.Machine.execDescriptorRefetch ring s
  | .doorbellAheadWindowClose ring => Sys2Proof.Machine.execDoorbellAheadWindowClose ring s
  | .nop qp d => Sys2Proof.Machine.execNop qp d s
  | .send qp d => Sys2Proof.Machine.execSend qp d s
  | .write qp d => Sys2Proof.Machine.execWrite qp d s
  | .writeTrig qp d => Sys2Proof.Machine.execWriteTrig qp d s
  | .read qp d => Sys2Proof.Machine.execRead qp d s
  | .rawSend qp d => Sys2Proof.Machine.execRawSend qp d s
  | .recv qp d => Sys2Proof.Machine.execRecv qp d s
  | .rawRecv qp d => Sys2Proof.Machine.execRawRecv qp d s
  | .allreduceSum qp d => Sys2Proof.Machine.execAllreduceSum qp d s
  | .allreduceMax qp d => Sys2Proof.Machine.execAllreduceMax qp d s
  | .reduceScatter qp d => Sys2Proof.Machine.execReduceScatter qp d s
  | .allgather qp d => Sys2Proof.Machine.execAllgather qp d s
  | .broadcast qp d => Sys2Proof.Machine.execBroadcast qp d s
  | .barrier qp d => Sys2Proof.Machine.execBarrier qp d s
  | .triggered qp d work => Sys2Proof.Machine.execTriggered qp d work s
  | .ringCreate fn d => Sys2Proof.Machine.execRingCreate fn d s
  | .ringDestroy fn d => Sys2Proof.Machine.execRingDestroy fn d s
  | .ringDestroyDone ring => Sys2Proof.Machine.execRingDestroyDone ring s
  | .ringRebind fn d => Sys2Proof.Machine.execRingRebind fn d s
  | .interruptModerationClose ring => Sys2Proof.Machine.execInterruptModerationClose ring s
  | .ctlRingEnable fn v => Sys2Proof.Machine.execCtlRingEnable fn v s
  | .ctlRingDisable fn v => Sys2Proof.Machine.execCtlRingDisable fn v s
  | .mgrRingEnable v => Sys2Proof.Machine.execMgrRingEnable v s
  | .mgrRingDisable v => Sys2Proof.Machine.execMgrRingDisable v s
  | .journalClear v => Sys2Proof.Machine.execJournalClear v s
  | .qpCreate d => Sys2Proof.Machine.execQpCreate d s
  | .qpModify d => Sys2Proof.Machine.execQpModify d s
  | .qpDestroy d => Sys2Proof.Machine.execQpDestroy d s
  | .sqdDrainDone qp => Sys2Proof.Machine.execSqdDrainDone qp s
  | .qpContextLoaded qp => Sys2Proof.Machine.execQpContextLoaded qp s
  | .regionRegister d pins => Sys2Proof.Machine.execRegionRegister d pins s
  | .regionInvalidate d => Sys2Proof.Machine.execRegionInvalidate d s
  | .regionInvalidateDone key => Sys2Proof.Machine.execRegionInvalidateDone key s
  | .headCellArrival via cell => Sys2Proof.Machine.execHeadCellArrival via cell s
  | .dataCellArrival via cell => Sys2Proof.Machine.execDataCellArrival via cell s
  | .ackCell via cell => Sys2Proof.Machine.execAckCell via cell s
  | .nakCell via cell => Sys2Proof.Machine.execNakCell via cell s
  | .snakCell via cell => Sys2Proof.Machine.execSnakCell via cell s
  | .segmentComplete qp seq => Sys2Proof.Machine.execSegmentComplete qp seq s
  | .retxTimerExpiry qp => Sys2Proof.Machine.execRetxTimerExpiry qp s
  | .rnrDelayExpiry qp => Sys2Proof.Machine.execRnrDelayExpiry qp s
  | .stashLifetimeExpiry qp => Sys2Proof.Machine.execStashLifetimeExpiry qp s
  | .latticeCellArrival port slot cell => Sys2Proof.Machine.execLatticeCellArrival port slot cell s
  | .absorptionAgeing plane => Sys2Proof.Machine.execAbsorptionAgeing plane s
  | .latCfgWrite v => Sys2Proof.Machine.execLatCfgWrite v s
  | .latTableLoad d => Sys2Proof.Machine.execLatTableLoad d s
  | .latEpochSwitch d => Sys2Proof.Machine.execLatEpochSwitch d s
  | .epochAnnounce port tableId ks => Sys2Proof.Machine.execEpochAnnounce port tableId ks s
  | .stepAnnounce port n ks => Sys2Proof.Machine.execStepAnnounce port n ks s
  | .schSetLoad d => Sys2Proof.Machine.execSchSetLoad d s
  | .schSetActivate d => Sys2Proof.Machine.execSchSetActivate d s
  | .schSetUnload d => Sys2Proof.Machine.execSchSetUnload d s
  | .schFlowBind d => Sys2Proof.Machine.execSchFlowBind d s
  | .setAnnouncement port setId base cycle folio => Sys2Proof.Machine.execSetAnnouncement port setId base cycle folio s
  | .setLoaded port setId coord => Sys2Proof.Machine.execSetLoaded port setId coord s
  | .failureNotice port payload => Sys2Proof.Machine.execFailureNotice port payload s
  | .promiseCheckTick flow => Sys2Proof.Machine.execPromiseCheckTick flow s
  | .counterReset d => Sys2Proof.Machine.execCounterReset d s
  | .commCreate d => Sys2Proof.Machine.execCommCreate d s
  | .commDestroy d => Sys2Proof.Machine.execCommDestroy d s
  | .collectiveStageStart comm stage => Sys2Proof.Machine.execCollectiveStageStart comm stage s
  | .scaleCellArrival cell => Sys2Proof.Machine.execScaleCellArrival cell s
  | .redCellArrival cell => Sys2Proof.Machine.execRedCellArrival cell s
  | .abortCellArrival cell => Sys2Proof.Machine.execAbortCellArrival cell s
  | .suspendedCellArrival cell => Sys2Proof.Machine.execSuspendedCellArrival cell s
  | .slotWaitExpiry comm => Sys2Proof.Machine.execSlotWaitExpiry comm s
  | .suspensionNoticeExpiry comm => Sys2Proof.Machine.execSuspensionNoticeExpiry comm s
  | .engineJob d => Sys2Proof.Machine.execEngineJob d s
  | .engineJobComplete job => Sys2Proof.Machine.execEngineJobComplete job s
  | .movReadReturn job line data poison => Sys2Proof.Machine.execMovReadReturn job line data poison s
  | .engineCheckFailure bit => Sys2Proof.Machine.execEngineCheckFailure bit s
  | .engineUnfence d => Sys2Proof.Machine.execEngineUnfence d s
  | .engineSelftestEnd bit pass => Sys2Proof.Machine.execEngineSelftestEnd bit pass s
  | .scrubRead line res => Sys2Proof.Machine.execScrubRead line res s
  | .chkSetDefine d => Sys2Proof.Machine.execChkSetDefine d s
  | .keyLoadDataWrite index v => Sys2Proof.Machine.execKeyLoadDataWrite index v s
  | .keyGoLoad v => Sys2Proof.Machine.execKeyGoLoad v s
  | .keyGoZeroise v => Sys2Proof.Machine.execKeyGoZeroise v s
  | .nptEnableWrite n v => Sys2Proof.Machine.execNptEnableWrite n v s
  | .nptModeWrite n v => Sys2Proof.Machine.execNptModeWrite n v s
  | .nptResetReq n v => Sys2Proof.Machine.execNptResetReq n v s
  | .nptSignalDetected n => Sys2Proof.Machine.execNptSignalDetected n s
  | .nptLanesLocked n => Sys2Proof.Machine.execNptLanesLocked n s
  | .nptAligned n => Sys2Proof.Machine.execNptAligned n s
  | .nptStateTimeout n => Sys2Proof.Machine.execNptStateTimeout n s
  | .nptRetryTimer n => Sys2Proof.Machine.execNptRetryTimer n s
  | .zlinkParam n cell arrival => Sys2Proof.Machine.execZlinkParam n cell arrival s
  | .zlinkMaint n cell bitErrors => Sys2Proof.Machine.execZlinkMaint n cell bitErrors s
  | .zuquinIdle n cell => Sys2Proof.Machine.execZuquinIdle n cell s
  | .zuquinCellError n cause => Sys2Proof.Machine.execZuquinCellError n cause s
  | .zlinkResetReq n cell => Sys2Proof.Machine.execZlinkResetReq n cell s
  | .nptRxBuffersEmpty n => Sys2Proof.Machine.execNptRxBuffersEmpty n s
  | .zlinkResetAck n cell => Sys2Proof.Machine.execZlinkResetAck n cell s
  | .linkResetTimeout n => Sys2Proof.Machine.execLinkResetTimeout n s
  | .nptSignalLoss n => Sys2Proof.Machine.execNptSignalLoss n s
  | .zreqRead n cell => Sys2Proof.Machine.execZreqRead n cell s
  | .zreqWrite n cell => Sys2Proof.Machine.execZreqWrite n cell s
  | .zrspReadData n cell => Sys2Proof.Machine.execZrspReadData n cell s
  | .zrspWriteDone n cell => Sys2Proof.Machine.execZrspWriteDone n cell s
  | .zrspPageAbsent n cell => Sys2Proof.Machine.execZrspPageAbsent n cell s
  | .zrspError n cell => Sys2Proof.Machine.execZrspError n cell s
  | .zdbPageReady n cell => Sys2Proof.Machine.execZdbPageReady n cell s
  | .nptWindowSet d => Sys2Proof.Machine.execNptWindowSet d s
  | .windowChangeDone n window => Sys2Proof.Machine.execWindowChangeDone n window s
  | .optLEnableWrite v => Sys2Proof.Machine.execOptLEnableWrite v s
  | .latLightDetected p => Sys2Proof.Machine.execLatLightDetected p s
  | .latLanesLocked p bitErrors => Sys2Proof.Machine.execLatLanesLocked p bitErrors s
  | .latAligned p => Sys2Proof.Machine.execLatAligned p s
  | .latStateTimeout p => Sys2Proof.Machine.execLatStateTimeout p s
  | .latRetryTimer p => Sys2Proof.Machine.execLatRetryTimer p s
  | .surveyCellArrival p cell arrival => Sys2Proof.Machine.execSurveyCellArrival p cell arrival s
  | .attestChallenge p nonce farPort farCoord => Sys2Proof.Machine.execAttestChallenge p nonce farPort farCoord s
  | .attestChain p chain => Sys2Proof.Machine.execAttestChain p chain s
  | .attestResponse p resp => Sys2Proof.Machine.execAttestResponse p resp s
  | .signatureDone sig => Sys2Proof.Machine.execSignatureDone sig s
  | .laserLow e => Sys2Proof.Machine.execLaserLow e s
  | .laserLowClear e => Sys2Proof.Machine.execLaserLowClear e s
  | .lossOfLight p lane => Sys2Proof.Machine.execLossOfLight p lane s
  | .latticeUncorrectableCw p => Sys2Proof.Machine.execLatticeUncorrectableCw p s
  | .calWindowClose bits => Sys2Proof.Machine.execCalWindowClose bits s
  | .heaterLimit e => Sys2Proof.Machine.execHeaterLimit e s
  | .oeShutdown e => Sys2Proof.Machine.execOeShutdown e s
  | .ethFrameArrival k frame => Sys2Proof.Machine.execEthFrameArrival k frame s
  | .ethFrameRelease k => Sys2Proof.Machine.execEthFrameRelease k s
  | .pauseFrame k quanta => Sys2Proof.Machine.execPauseFrame k quanta s
  | .pfcFrame k enable quanta => Sys2Proof.Machine.execPfcFrame k enable quanta s
  | .pauseTimerExpiry k prio => Sys2Proof.Machine.execPauseTimerExpiry k prio s
  | .pauseWatchdogExpiry k prio => Sys2Proof.Machine.execPauseWatchdogExpiry k prio s
  | .holdoffExpiry k => Sys2Proof.Machine.execHoldoffExpiry k s
  | .xoffRefresh k prio => Sys2Proof.Machine.execXoffRefresh k prio s
  | .macFrameStart k => Sys2Proof.Machine.execMacFrameStart k s
  | .macLinkLoss k bytesSent => Sys2Proof.Machine.execMacLinkLoss k bytesSent s
  | .ethPeerSet d => Sys2Proof.Machine.execEthPeerSet d s
  | .ethFilterSet d => Sys2Proof.Machine.execEthFilterSet d s
  | .compatCounterRead offset width => Sys2Proof.Machine.execCompatCounterRead offset width s
  | .perstRelease width speed flit256 => Sys2Proof.Machine.execPerstRelease width speed flit256 s
  | .vfFlr n => Sys2Proof.Machine.execVfFlr n s
  | .linkRetrain width speed flit256 => Sys2Proof.Machine.execLinkRetrain width speed flit256 s
  | .completionTimeout req => Sys2Proof.Machine.execCompletionTimeout req s
  | .hostReadCompletion req data status poison => Sys2Proof.Machine.execHostReadCompletion req data status poison s
  | .cxlMemRead addr peer => Sys2Proof.Machine.execCxlMemRead addr peer s
  | .cxlMemWrite addr data mask poison peer => Sys2Proof.Machine.execCxlMemWrite addr data mask poison peer s
  | .hostSnoop addr => Sys2Proof.Machine.execHostSnoop addr s
  | .hdmDecoderCommit base => Sys2Proof.Machine.execHdmDecoderCommit base s
  | .atsTranslationResult fn pasid page readOk writeOk target => Sys2Proof.Machine.execAtsTranslationResult fn pasid page readOk writeOk target s
  | .atsInvalidationRequest fn pasid page count => Sys2Proof.Machine.execAtsInvalidationRequest fn pasid page count s
  | .prgResponse fault code => Sys2Proof.Machine.execPrgResponse fault code s
  | .biasSet d => Sys2Proof.Machine.execBiasSet d s
  | .biasPageChange page => Sys2Proof.Machine.execBiasPageChange page s
  | .ctxCreate d => Sys2Proof.Machine.execCtxCreate d s
  | .ctxDestroy d => Sys2Proof.Machine.execCtxDestroy d s
  | .segSet d pins => Sys2Proof.Machine.execSegSet d pins s
  | .segInvalidate d => Sys2Proof.Machine.execSegInvalidate d s
  | .segInvalidateDone ctx index => Sys2Proof.Machine.execSegInvalidateDone ctx index s
  | .faultResume d => Sys2Proof.Machine.execFaultResume d s
  | .faultWaiterTimeout fault waiter => Sys2Proof.Machine.execFaultWaiterTimeout fault waiter s
  | .dirtyLog d => Sys2Proof.Machine.execDirtyLog d s
  | .carrelStage d => Sys2Proof.Machine.execCarrelStage d s
  | .carrelDestroy d => Sys2Proof.Machine.execCarrelDestroy d s
  | .carrelSuspend d => Sys2Proof.Machine.execCarrelSuspend d s
  | .carrelResume d => Sys2Proof.Machine.execCarrelResume d s
  | .vfReset d => Sys2Proof.Machine.execVfReset d s
  | .vfEnable n v => Sys2Proof.Machine.execVfEnable n v s
  | .vfDisable n v => Sys2Proof.Machine.execVfDisable n v s
  | .vfResetComplete n => Sys2Proof.Machine.execVfResetComplete n s
  | .carrelExport d => Sys2Proof.Machine.execCarrelExport d s
  | .carrelImport d => Sys2Proof.Machine.execCarrelImport d s
  | .allocDirty d => Sys2Proof.Machine.execAllocDirty d s
  | .qpPeerMove d => Sys2Proof.Machine.execQpPeerMove d s
  | .schedCarrel d => Sys2Proof.Machine.execSchedCarrel d s
  | .qpShape d => Sys2Proof.Machine.execQpShape d s
  | .cntCarrelDump d => Sys2Proof.Machine.execCntCarrelDump d s
  | .sampleCapture skid => Sys2Proof.Machine.execSampleCapture skid s
  | .secOwnerBind d => Sys2Proof.Machine.execSecOwnerBind d s
  | .secSvnCommit d => Sys2Proof.Machine.execSecSvnCommit d s
  | .secCertInstall d names => Sys2Proof.Machine.execSecCertInstall d names s
  | .fwStage d => Sys2Proof.Machine.execFwStage d s
  | .fwActivate d => Sys2Proof.Machine.execFwActivate d s
  | .pldmFwUpdate image => Sys2Proof.Machine.execPldmFwUpdate image s
  | .spdmGetVersion bus => Sys2Proof.Machine.execSpdmGetVersion bus s
  | .spdmGetCapabilities bus => Sys2Proof.Machine.execSpdmGetCapabilities bus s
  | .spdmNegotiateAlgorithms bus hash asym dhe aead => Sys2Proof.Machine.execSpdmNegotiateAlgorithms bus hash asym dhe aead s
  | .spdmGetDigests bus => Sys2Proof.Machine.execSpdmGetDigests bus s
  | .spdmGetCertificate bus slot offset length => Sys2Proof.Machine.execSpdmGetCertificate bus slot offset length s
  | .spdmChallenge bus slot nonce => Sys2Proof.Machine.execSpdmChallenge bus slot nonce s
  | .spdmGetMeasurements bus index nonce signed => Sys2Proof.Machine.execSpdmGetMeasurements bus index nonce signed s
  | .spdmKeyExchange bus reqId => Sys2Proof.Machine.execSpdmKeyExchange bus reqId s
  | .spdmFinish bus session ok => Sys2Proof.Machine.execSpdmFinish bus session ok s
  | .spdmEndSession bus session => Sys2Proof.Machine.execSpdmEndSession bus session s
  | .spdmHeartbeat bus session => Sys2Proof.Machine.execSpdmHeartbeat bus session s
  | .codexRead d => Sys2Proof.Machine.execCodexRead d s
  | .codexClear d => Sys2Proof.Machine.execCodexClear d s
  | .mctpCodexRead first count => Sys2Proof.Machine.execMctpCodexRead first count s
  | .mgmtRegRead offset => Sys2Proof.Machine.execMgmtRegRead offset s
  | .mgmtRegWrite offset v pecOk => Sys2Proof.Machine.execMgmtRegWrite offset v pecOk s
  | .registerWrite fn offset width v => Sys2Proof.Machine.execRegisterWrite fn offset width v s
  | .macLinkUp k => Sys2Proof.Machine.execMacLinkUp k s
  | .dlUp width speed flit256 => Sys2Proof.Machine.execDlUp width speed flit256 s
  | .cxlCacheResponse req data => Sys2Proof.Machine.execCxlCacheResponse req data s
  | .configWrite op => Sys2Proof.Machine.execConfigWrite op s
  | .ideKmKeyProg session allSecure => Sys2Proof.Machine.execIdeKmKeyProg session allSecure s
  | .macFrameEnd k stamp => Sys2Proof.Machine.execMacFrameEnd k stamp s
  | .powerOn => Sys2Proof.Machine.execPowerOn s
  | .fallingSupply => Sys2Proof.Machine.execFallingSupply s
  | .devResetNAssert => Sys2Proof.Machine.execDevResetNAssert s
  | .dieBridgeTrained => Sys2Proof.Machine.execDieBridgeTrained s
  | .hbmStacksTrained => Sys2Proof.Machine.execHbmStacksTrained s
  | .firmwareStart => Sys2Proof.Machine.execFirmwareStart s
  | .bootWatchdogExpiry => Sys2Proof.Machine.execBootWatchdogExpiry s
  | .fwWatchdogExpiry => Sys2Proof.Machine.execFwWatchdogExpiry s
  | .firmwareRestartDone => Sys2Proof.Machine.execFirmwareRestartDone s
  | .refclkLoss => Sys2Proof.Machine.execRefclkLoss s
  | .thermalTrip => Sys2Proof.Machine.execThermalTrip s
  | .bridgeLoss => Sys2Proof.Machine.execBridgeLoss s
  | .gtcCopyMismatch => Sys2Proof.Machine.execGtcCopyMismatch s
  | .tickMonitorExpiry => Sys2Proof.Machine.execTickMonitorExpiry s
  | .folioSizeChange => Sys2Proof.Machine.execFolioSizeChange s
  | .rootFailover => Sys2Proof.Machine.execRootFailover s
  | .ppsOutPulse => Sys2Proof.Machine.execPpsOutPulse s
  | .ppsOutPulseEnd => Sys2Proof.Machine.execPpsOutPulseEnd s
  | .latticeInjection => Sys2Proof.Machine.execLatticeInjection s
  | .epochOldRetire => Sys2Proof.Machine.execEpochOldRetire s
  | .sharedSlotGrant => Sys2Proof.Machine.execSharedSlotGrant s
  | .dlDown => Sys2Proof.Machine.execDlDown s
  | .perstAssert => Sys2Proof.Machine.execPerstAssert s
  | .hotReset => Sys2Proof.Machine.execHotReset s
  | .pf0Flr => Sys2Proof.Machine.execPf0Flr s
  | .ideIntegrityFailure => Sys2Proof.Machine.execIdeIntegrityFailure s
  | .bwWindowClose => Sys2Proof.Machine.execBwWindowClose s
  | .spdmResponseNotReady => Sys2Proof.Machine.execSpdmResponseNotReady s
  | .codexWrite => Sys2Proof.Machine.execCodexWrite s
  | .codexCheckpoint => Sys2Proof.Machine.execCodexCheckpoint s
  | .ppsInEdge => Sys2Proof.Machine.execPpsInEdge s
  | .mgmtAlertResponse => Sys2Proof.Machine.execMgmtAlertResponse s
  | .fwStageDone => Sys2Proof.Machine.execFwStageDone s

end Sys2Proof.Machine
end

