-- ==== Sys2Proof/Machine/Idle.lean ====
section
/-! DEFINITION. Idle.lean: what passes while no command waits. -/

namespace Sys2Proof.Machine

/-- One crossbar cycle, after the closes that are due in the present one and what it leaves to its end, unless it would reach the tick that is due: the
tick is the command FOLIO_TICK (R31; log 3). -/
def idle (s : State) : State :=
  if s.running && decide ((s.pass 1).time.gtc < s.nextTickAt) then commit s ((cycleEnd (closeDue s)).pass 1) else s

end Sys2Proof.Machine
end

