-- ==== Sys2Proof/Safety.lean ====
section
/-! DEFINITION. Safety.lean: what a safe state and a safe run are, and the conditions under which commands act, in the terms
the statements use. -/

namespace Sys2Proof.Machine

/-- Between commands no HBM write or wipe of a command is outstanding. -/
abbrev State.quiet (s : State) : Prop := s.wlog = [] ∧ s.wipe = []

/-- A safe state: HBM in its canonical form, and quiet. -/
abbrev State.Safe (s : State) : Prop := Memory.wf s.hbm.cells = true ∧ s.quiet

/-- A step that ends in a safe state, or stops by a named reason. -/
def SafeOutcome : Host.Outcome State Fault Refusal → Prop
  | .next t => t.Safe
  | .fault _ => True
  | .refused _ => True

/-- The block runs and no window's close is due, which would come before the command (R36), between commands. -/
abbrev State.Ready (s : State) : Prop := (s.running = true ∧ s.settled = true) ∧ s.quiet

/-- No close is due before the command on a running block (R36); a stopped one closes nothing. -/
abbrev State.calm (s : State) : Prop := (!s.running || s.settled) = true

/-- The host interface is up, as it is in the fatal state too (R518), between commands. -/
abbrev State.Alive (s : State) : Prop := (alive s = true ∧ s.calm) ∧ s.quiet

/-- Writes through a BAR reach the block (R390, R397, R507). -/
abbrev State.BarReady (s : State) : Prop := s.Ready ∧ barUp s = true ∧ s.glb.initDone = true

/-- Firmware runs manager commands (R22, R24). -/
abbrev State.MgrReady (s : State) : Prop := s.Ready ∧ s.glb.fwHalted = false ∧ s.fw.restarting = none

/-- The supplies are valid, between commands: the block is powered, running or not. -/
abbrev State.Powered (s : State) : Prop := (s.pkg.rails = true ∧ s.calm) ∧ s.quiet

/-- No access of any unit is in progress, no doorbell cell or window change of a near port is held back, no HBM write is still
to be looked at for doorbells, and no segment logs its writes. -/
abbrev State.Still (s : State) : Prop :=
  s.xl.accesses = [] ∧ (∀ p ∈ s.near, p.heldDb = [] ∧ ∀ w ∈ p.windows, w.2.waiting = []) ∧ s.cyc.placed = [] ∧
    ∀ e ∈ s.xl.ctxs, ∀ g ∈ e.2.segs, g.2.log = none

/-- The first cycle at or past GTC `g` is the present one, or comes before the cycle of the next tick: time can run to it
within the folio (R59). -/
abbrev State.Reaches (s : State) (g : Gtc) : Prop :=
  cyclesTo s.time g = 0 ∨ cyclesTo s.time g < cyclesTo s.time s.nextTickAt

/-- Powered and out of reset, not yet fatal, and no event or journal entry of the cycle waits: a fatal cause acts (R517, R545). -/
abbrev State.FatalReady (s : State) : Prop :=
  s.pkg.rails = true ∧ s.pkg.inReset = false ∧ s.pkg.testMode = false ∧ s.glb.fatal = false ∧ s.quiet ∧ s.calm ∧ s.cyc.events = [] ∧
  s.cyc.journal = []

/-- What R518 lists: FATAL with its cause, source and stamp, FATAL_N, halted firmware, ERR_FATAL on the host link; records
already handed over stay with the writer. -/
def State.wentFatal (s : State) (cause : Nat) (src : Source) : State :=
  { s with
    glb := { s.glb with fatal := true, fatalCause := cause, fatalSource := src, fatalStamp := s.time.gtc, fwHalted := true }
    pkg := { s.pkg with fatalN := true, alertN := true }
    codex := { s.codex with handed := [], queue := s.codex.queue ++ s.codex.handed }
    outbox := s.outbox ++ [.aer 2] }

/-- A cell that is good and that no policer counts: its CRC is right, and it is SC or for no domain with a limit (R18, R455). -/
abbrev State.lets (s : State) (c : Cell) : Prop :=
  c.crc = latCrc c.hdr c.payload ∧ (cClass c ≠ 0 ∨ ((cellDom s c).bind (getDom s)).all (fun d => decide (d.policeLimit = 0)) = true)

/-- An arriving cell that an ACTIVE near port outside a reset takes (R298, R299, R304, R305): its CRC is right, its type, class
and VC are ones an endpoint sends, and the device's credits cover it. -/
abbrev State.NearTakes (s : State) (n : Nat) (c : Cell) : Prop :=
  ((getNear s n).mode = 0 ∧ (getNear s n).state = 4 ∧ (getNear s n).lreset = none) ∧ c.crc = crc32c (cellBytes c.hdr c.payload) ∧
  cType c ∈ [0, 0xA, 0xB, 0xC, 0xD] ∧ (cType c = 0 ∨ (cClass c ≤ 1 ∧ zVc c = zVcOf (cType c))) ∧
  (3 ≤ zVcOf (cType c) ∨ lget (getNear s n).inUse (zVcOf (cType c)) 0 < lget ownCredits (zVcOf (cType c)) 0)

/-- The port has accounted for the cell: credits it brings, the buffer it takes, the counters. -/
def State.nearTook (s : State) (n : Nat) (c : Cell) : State :=
  let s := creditsBack s n c
  let s := if zVcOf (cType c) < 3 then modNear s n fun p => { p with inUse := lmod p.inUse (zVcOf (cType c)) (· + 1) } else s
  let s := if cType c = 0 then s else bump s (nearCnt n 1) 1
  if cType c = 0 || cType c = 0xD then s else bwBytes s (8 + n) false 64

/-- The cell's buffer is free again and its credit returned, unless it is one more doorbell cell held back than the `held` there
were, and what waits is sent (R305, R307). -/
def State.nearDone (s : State) (n : Nat) (c : Cell) (held : Nat) : State :=
  let s := if (getNear s n).heldDb.length > held then s else freeBuffer s n (zVcOf (cType c))
  notifyPump (nearPump (nearDrain s n) n) n

/-- A byte of HBM. -/
def State.byte (s : State) (a : Nat) : Byte := memRead s.hbm.cells a

/-- Rows that act on a block that does not run: power, reset and clock pins, fatal causes, the reset through GLB_CTL, accesses of
the registers that answer while stopped, CXL.mem accesses that fault or read poison, and the host link's own events. -/
def actsStopped : Instr → Bool
  | .powerOn | .fallingSupply | .devResetNAssert | .devResetNRelease _ _ _ | .glbCtlDeviceReset _ | .refclkLoss | .thermalWarning _ _ | .thermalTrip
  | .perstAssert | .perstRelease _ _ _ | .hotReset | .pf0Flr | .dlDown | .dlUp _ _ _ | .ideIntegrityFailure | .configWrite _ | .mgmtAlertResponse
  | .hbmStackFailure _ | .bridgeLoss | .gtcCopyMismatch | .controlStateUncorrectable _ | .cxlMemRead _ _ | .registerWrite _ _ _ _
  | .mgmtRegRead _ | .mgmtRegWrite _ _ _ | .codexWrite => true
  | _ => false

/-- A command that can arrive: its operands name units, lines and functions the part has, and a cell, descriptor or field is of
the kind the row is named for (Table 0.1). Every operand of a row that is not listed can arrive. -/
def commandFits : Instr → Bool
  | .hbmStackFailure stack => wfStack stack
  | .granuleZeroFillDone g => wfGranule g
  | .bridgeWordError _ line => line.all wfLine
  | .controlStateUncorrectable src => wfSource src
  | .ondieUncorrectable code _ => 1 ≤ code && code ≤ 11
  | .folioTick inp => wfInputs inp
  | .doorbellProducer fn num index | .doorbellConsumer fn num index | .doorbellConsumerArm fn num index => wfFn fn && wfBell num && wfIndex index
  | .zdbDoorbell n cell => wfNear n && cType cell = 0xC && zOp cell ≠ 2
  | .nop qp d => wfQp qp && dOpcode d = 0x00
  | .send qp d => wfQp qp && dOpcode d = 0x01
  | .write qp d => wfQp qp && dOpcode d = 0x02
  | .writeTrig qp d => wfQp qp && dOpcode d = 0x03
  | .read qp d => wfQp qp && dOpcode d = 0x04
  | .rawSend qp d => wfQp qp && dOpcode d = 0x05
  | .recv qp d => wfQp qp && dOpcode d = 0x08
  | .rawRecv qp d => wfQp qp && dOpcode d = 0x09
  | .allreduceSum qp d => wfQp qp && dOpcode d = 0x10
  | .allreduceMax qp d => wfQp qp && dOpcode d = 0x11
  | .reduceScatter qp d => wfQp qp && dOpcode d = 0x12
  | .allgather qp d => wfQp qp && dOpcode d = 0x13
  | .broadcast qp d => wfQp qp && dOpcode d = 0x14
  | .barrier qp d => wfQp qp && dOpcode d = 0x15
  | .triggered qp d _ => wfQp qp && dOpcode d = 0x20
  | .ringCreate fn _ | .ringDestroy fn _ | .ringRebind fn _ | .ctlRingEnable fn _ | .ctlRingDisable fn _
  | .atsTranslationResult fn _ _ _ _ _ | .atsInvalidationRequest fn _ _ _ => wfFn fn
  | .sqdDrainDone qp | .qpContextLoaded qp | .segmentComplete qp _ | .retxTimerExpiry qp | .rnrDelayExpiry qp
  | .stashLifetimeExpiry qp => wfQp qp
  | .headCellArrival _ cell => cType cell = 1
  | .dataCellArrival _ cell => cType cell = 2
  | .ackCell _ cell => cType cell = 3
  | .nakCell _ cell => cType cell = 4
  | .snakCell _ cell => cType cell = 5
  | .latticeCellArrival port _ _ | .epochAnnounce port _ _ | .stepAnnounce port _ _ | .setAnnouncement port _ _ _ _
  | .setLoaded port _ _ | .failureNotice port _ => wfLat port
  | .absorptionAgeing plane => wfPlane plane
  | .scaleCellArrival cell => cType cell = 7
  | .redCellArrival cell | .abortCellArrival cell | .suspendedCellArrival cell => cType cell = 6
  | .engineCheckFailure bit | .engineSelftestEnd bit _ => wfFence bit
  | .scrubRead line _ => wfLine line
  | .keyLoadDataWrite i _ => i < 8
  | .keyGoLoad v => fld v 40 2 = 1
  | .keyGoZeroise v => fld v 40 2 = 2
  | .nptEnableWrite n _ | .nptModeWrite n _ | .nptResetReq n _ | .nptSignalDetected n | .nptLanesLocked n | .nptAligned n
  | .nptStateTimeout n | .nptRetryTimer n | .nptRxBuffersEmpty n | .linkResetTimeout n | .nptSignalLoss n => wfNear n
  | .zlinkParam n cell _ | .zlinkMaint n cell _ | .zlinkResetReq n cell | .zlinkResetAck n cell => wfNear n && cType cell = 0xD
  | .zuquinIdle n cell => wfNear n && cType cell = 0
  | .zuquinCellError n cause => wfNear n && 1 ≤ cause && cause ≤ 3
  | .zreqRead n cell => wfNear n && cType cell = 0xA && zOp cell ≠ 1
  | .zreqWrite n cell => wfNear n && cType cell = 0xA && zOp cell = 1
  | .zrspReadData n cell | .zrspWriteDone n cell | .zrspPageAbsent n cell | .zrspError n cell => wfNear n && cType cell = 0xB
  | .zdbPageReady n cell => wfNear n && cType cell = 0xC && zOp cell = 2
  | .windowChangeDone n window => wfNear n && window < 256
  | .latLightDetected p | .latLanesLocked p _ | .latAligned p | .latStateTimeout p | .latRetryTimer p | .surveyCellArrival p _ _
  | .attestChain p _ | .attestResponse p _ | .latticeUncorrectableCw p => wfLat p
  | .attestChallenge p _ farPort farCoord => wfLat p && farPort < 256 && farCoord < 1024
  | .calWindowClose bits => bits.all fun b => b.1 < 12
  | .laserLow e | .laserLowClear e | .heaterLimit e | .oeShutdown e => wfEngine e
  | .lossOfLight p lane => wfLat p && lane < 8
  | .ethFrameArrival k _ | .ethFrameRelease k | .pauseFrame k _ | .pfcFrame k _ _ | .holdoffExpiry k | .macFrameStart k
  | .macLinkLoss k _ | .macLinkUp k | .macFrameEnd k _ => wfMac k
  | .pauseTimerExpiry k prio | .pauseWatchdogExpiry k prio | .xoffRefresh k prio => wfMac k && wfPrio prio
  | .compatCounterRead offset width => wfOffset offset && (width = 1 || width = 2 || width = 4 || width = 8)
  | .perstRelease width speed flit256 | .linkRetrain width speed flit256 | .dlUp width speed flit256 => wfLink width speed flit256
  | .vfFlr n | .vfResetComplete n => wfVf n
  | .cxlMemRead addr _ | .cxlMemWrite addr _ _ _ _ => addr < hbmSize
  | .vfEnable n v => wfVf n && bitAt v 0
  | .vfDisable n v => wfVf n && !bitAt v 0
  | .registerWrite fn offset width _ => wfFn fn && wfOffset offset && (width = 1 || width = 2 || width = 4 || width = 8)
  | .configWrite op => configFn op
  | _ => true

end Sys2Proof.Machine
end

