-- ==== Sys2Proof/Certificates/Slice0/Obligations.lean ====
section
/-! DEFINITION. Certificates/Slice0/Obligations.lean: the statements for the provers, in the order of OBLIGATIONS.json. Each
constructor of Instr has a statement whose conclusion is the next state its own effect leads to. -/

open Sys2Proof Sys2Proof.Machine

/-- A step runs the command at the front of the queue with the queue's rest (R21, R72). For every command and state, where the command stands at the front of the queue, step answers what exec answers for it on the state with the rest of the queue: the model's reading of a block that takes its commands first in, first out. -/
def Obligations.FrontOfTheQueueRuns : Prop :=
  ∀ (s : State) (c : Instr) (rest : List Instr),
    s.pending = c :: rest →
    step s = exec c { s with pending := rest }

/-- With no command waiting one crossbar cycle passes, or nothing (the model's choice, log 3) (R9, R31, R36). On an empty queue a step answers a next state: where the block runs and the next crossbar cycle lies before the next tick, the windows due close, what the cycle leaves to its end is taken, and the clock moves on by a cycle; otherwise the same state. Where nothing is due and the cycle leaves nothing, the clock runs on by one cycle, and queue, HBM, queue pairs, host traffic and configuration are as before. The tick itself is the command FOLIO_TICK. This is the model's design choice of log 3, not a rule of the spec. -/
def Obligations.AnEmptyQueueLetsOneCyclePass : Prop :=
  (∀ (s : State),
    s.pending = [] →
    step s = .next (if s.running = true ∧ (s.pass 1).now < s.nextTickAt then commit s ((cycleEnd (closeDue s)).pass 1) else s)) ∧
  (∀ (s : State),
    s.pending = [] →
    s.Ready →
    cycleEnd s = s →
    (s.pass 1).now < s.nextTickAt →
    step s = .next (s.pass 1) ∧
      (s.pass 1).time = s.time.run 1 ∧ (s.pass 1).pending = s.pending ∧ (s.pass 1).hbm = s.hbm ∧ (s.pass 1).qps = s.qps ∧ (s.pass 1).outbox = s.outbox ∧
      (s.pass 1).cxl = s.cxl ∧ (s.pass 1).lat = s.lat ∧ (s.pass 1).doms = s.doms ∧ (s.pass 1).keys = s.keys)

/-- Every step from a safe state ends in a safe state (R85, R275, R513). A state is safe when HBM is in its canonical form, addresses strictly rising and no byte listed that an unlisted address reads as, and no write or wipe of a command is outstanding. From every safe state, whatever command is at the front of the queue and also with an empty queue, a step that answers a next state answers a safe one. -/
def Obligations.StepKeepsASafeState : Prop :=
  ∀ (s t : State),
    s.Safe →
    step s = .next t →
    t.Safe

/-- The state after reset is safe, its registers read as the tables say, and nothing is there (R27, R390, R497, R507). State.reset is safe, with an empty queue. GLB_ID reads 0x00001E9800017264, GLB_STATUS 0, GLB_ERR_CFG 0x1000, the GTC 0; there is no domain, queue pair, region, context, key or host translation, HBM lists nothing, the host link is down and INIT_DONE and FATAL are clear. The values are those of Tables 21.8 and 22.5; that RAM without a value reads 0 is the model's choice of log 5. -/
def Obligations.ResetLeavesASafeState : Prop :=
  State.reset.Safe ∧ State.reset.pending = [] ∧ State.reset.hbm.cells = [] ∧ glbReg State.reset 0 = 0x00001E9800017264 ∧ glbReg State.reset 8 = 0 ∧ glbReg State.reset 0x10 = 0 ∧ glbReg State.reset 0x20 = 0x1000 ∧
      State.reset.now = 0 ∧ State.reset.doms = [] ∧ State.reset.qps = [] ∧ State.reset.regions = [] ∧ State.reset.xl.ctxs = [] ∧ State.reset.keys = [] ∧ State.reset.cxl.linkUp = false ∧ State.reset.glb.initDone = false ∧ State.reset.glb.fatal = false

/-- Every command that can arrive completes in every state, and leaves the queue of waiting commands (R9, R21, R72, R513). For each of the 256 forms and every state: where the operands name units of the part and a cell, descriptor or field is of the kind the row is named for, exec answers a next state. It holds the same queue as before, as only a step takes a command off it, and it is safe where the state was. With other operands exec refuses the command as ill formed or faults for memory that does not exist. -/
def Obligations.CommandsLeaveTheQueue : Prop :=
  (∀ (s : State) (c : Instr),
    commandFits c = true →
    ∃ t, exec c s = .next t ∧ t.pending = s.pending ∧ (s.Safe → t.Safe)) ∧
  (∀ (s : State) (c : Instr),
    commandFits c = false →
    exec c s = .refused .illFormed ∨ exec c s = .fault .noSuchMemory) ∧
  (∀ (s t : State) (c : Instr),
    exec c s = .next t →
    t.pending = s.pending)

/-- A block that does not run changes nothing on any row but those of power, reset, fatal causes, the link and its registers (R510, R511, R518, R551, R552). While a supply or the reference clock is missing, in reset, in test mode or in the fatal state, every command outside the listed rows leaves the state exactly as it was, or is refused or faults for an operand that names no unit of the block. The listed rows are those of the supplies and reset pins, GLB_CTL, the clock and thermal pins, the fatal causes, host link and configuration events, register accesses, CXL.mem reads and the codex writer. -/
def Obligations.AStoppedBlockIgnoresWork : Prop :=
  ∀ (s : State) (c : Instr),
    s.running = false →
    actsStopped c = false →
    exec c s = .next s ∨ exec c s = .refused .illFormed ∨ exec c s = .fault .noSuchMemory

/-- GLB_CTL with its key acts as an assertion and release of DEV_RESET_N; any other write of it is ignored (R509). On a powered block out of reset, a write of GLB_CTL with DEVICE_RESET 1 and RESET_KEY 0xD5, as the command, through PF0's BAR or over the management bus, leaves the state that asserting DEV_RESET_N and releasing it with the same straps leaves, and the host link is down after it. Any other write of GLB_CTL leaves the state as it was. Through a VF's BAR the write reaches no register of the device: package, GLB and host link stay as they were. -/
def Obligations.GlbCtlActsAsDeviceReset : Prop :=
  (∀ (s : State) (v : W64),
    s.Alive →
    fld v 0 8 = 0xD5 ∧ bitAt v 8 = true →
    ∃ t u, exec .devResetNAssert s = .next t ∧ exec (.devResetNRelease s.pkg.mgmtMode s.pkg.addrSel s.pkg.testMode) t = .next u ∧ t.cxl.linkUp = false ∧ u.cxl.linkUp = false ∧
      exec (.glbCtlDeviceReset v) s = .next u ∧ exec (.mgmtRegWrite 0x100028 v true) s = .next u ∧ (barUp s = true → s.glb.initDone = true → exec (.registerWrite 0 0x100028 8 v) s = .next u)) ∧
  (∀ (s : State) (v : W64),
    s.Alive →
    fld v 0 8 ≠ 0xD5 ∨ bitAt v 8 = false →
    ∀ i ∈ [Instr.glbCtlDeviceReset v, .mgmtRegWrite 0x100028 v true, .registerWrite 0 0x100028 8 v], exec i s = .next s) ∧
  (∀ (s : State) (n : Nat) (v : W64),
    s.Alive →
    wfVf n = true →
    ∃ t, exec (.registerWrite n 0x100028 8 v) s = .next t ∧ t.pkg = s.pkg ∧ t.glb = s.glb ∧ t.cxl = s.cxl ∧ t.qps = s.qps)

/-- A fetched descriptor is taken only where its LAP is that of the index it is read at (R67). A descriptor written at stream index i of a ring of 2^n slots carries LAP ((i >> n) + 1) and 0xFFFF. Whatever a fetch for a ring returns, where its LAP is not the one for the ring's device index the index and the descriptors handed over stay as they were. The LAP of the previous pass differs from it at every index, and a slot zeroed at creation fails on the first pass. -/
def Obligations.ADescriptorIsTakenOnlyByItsLap : Prop :=
  (∀ (s : State) (ref : RingRef) (r : Ring) (d : Line) (p : Bool),
    getRing s ref = some r →
    dLap d ≠ ((r.cDev >>> r.log2) + 1) &&& 0xFFFF →
    (getRing (fetchResult s ref r d p) ref).map (fun r => (r.cDev, r.handed)) = some (r.cDev, r.handed)) ∧
  (∀ (i n : Nat),
    (i >>> n) &&& 0xFFFF ≠ ((i >>> n) + 1) &&& 0xFFFF ∧ (i < 2 ^ n → 0 ≠ ((i >>> n) + 1) &&& 0xFFFF))

/-- The value of an element by its scale byte: a zero block, a poisoned block, an ordinary scale (R199, R200). In an image an element with integer q and scale byte E8 has the exact value q × 2^(E8 - 127), 0 where E8 is 0x00 whatever bits are stored, and no value where E8 is 0xFF. Every element of a per-tensor image has the same scale byte. An image of I32 that is read has E8 127 for each of its elements, so their values are the integers themselves. -/
def Obligations.ValuesOfElements : Prop :=
  (∀ (m : Image) (i : Nat) (q : Int),
    m.elems[i]? = some q →
    m.vals[i]? = some (if m.scale i = 0xFF then none else if m.scale i = 0 then some (0, 0) else some (q, (m.scale i : Int) - 127))) ∧
  (∀ (m : Image) (i j : Nat),
    m.fmt.tensor = true →
    m.scale i = m.scale j) ∧
  (∀ (f : Fmt) (count i : Nat) (bs : List Byte),
    fmtOf 0xD = some f →
    i < count →
    (readImage f count bs []).scale i = 127)

/-- Element i of a packed plane occupies bits w i to w i + w - 1 of it, and belongs to block i / N (R203). For every format, the element numbered i of a plane long enough to hold it is decoded from bits w × i to w × i + w - 1 of the plane's bits, numbered from bit 0 of its first byte, little-endian; consecutive elements follow each other without alignment to bytes. In a format of blocks of N elements its scale is that of block i / N. -/
def Obligations.ElementBitsOfAPlane : Prop :=
  (∀ (code : Nat) (f : Fmt) (bs : List Byte) (count i : Nat),
    fmtOf code = some f →
    i < count →
    f.width * i + f.width ≤ 8 * bs.length →
    (unpackElems f bs count)[i]? = some (decodeElem f (natOf bs / 2 ^ (f.width * i) % 2 ^ f.width))) ∧
  (∀ (m : Image) (i : Nat),
    m.fmt.block ≠ 0 →
    m.scale i = lget m.scales (i / m.fmt.block) 0)

/-- Power-on, power loss and the three device resets: what each clears and what it keeps (R500, R506, R508, R509, R510, R545, R546, R552). POWER_ON on an unpowered block makes the rails valid, holds it in reset, empties HBM and restarts every block while fuses and flash slots stay. FALLING_SUPPLY resets the block, drops the rails and, with nothing waiting for the writer and room in the first-fault region, leaves a POWER_LOSS record last there. DEV_RESET_N asserted, and GLB_CTL written with its key, give every block its reset value and keep HBM, the written codex records, records handed to the writer, fuses and flash; DEV_RESET_N holds the block in reset and GLB_CTL releases it at once. While a reset is held FATAL_N and THERM_N alone of the outputs stay. Without the key GLB_CTL changes nothing. DEV_RESET_N released samples the straps and ends the reset, and FATAL_N with it. -/
def Obligations.PowerAndDeviceReset : Prop :=
  (∀ (s : State),
    s.pkg.rails = false →
    s.quiet →
    ∃ t, exec .powerOn s = .next t ∧ t.pkg.rails = true ∧ t.pkg.inReset = true ∧ (∀ a, a < hbmSize → t.byte a = 0) ∧ t.hbm.poison = [] ∧
      t.codex.resumed = true ∧ t.glb = State.reset.glb ∧ t.time = State.reset.time ∧ t.qps = [] ∧ t.doms = [] ∧ t.keys = [] ∧
      t.sec.boot = s.sec.boot ∧ t.sec.imageA = s.sec.imageA ∧ t.sec.imageB = s.sec.imageB ∧ t.sec.ownerHash0 = s.sec.ownerHash0 ∧
      t.sec.ownerHash1 = s.sec.ownerHash1 ∧ t.sec.svn = s.sec.svn) ∧
  (∀ (s : State),
    s.Powered →
    s.settled = true →
    s.codex.queue = [] →
    s.codex.handed = [] →
    s.codex.first.length < 4096 →
    ∃ t, exec .fallingSupply s = .next t ∧ t.pkg.rails = false ∧ t.codex.resumed = false ∧ t.codex.nextSeq = (s.codex.nextSeq + 1) % 2 ^ 32 ∧
      t.codex.first.dropLast = s.codex.first ∧ t.codex.first.getLast?.map (fun r => (r.code, r.stamp, r.seq)) = some (0x02, s.time.gtc, s.codex.nextSeq) ∧
      t.codex.ring = s.codex.ring ∧ t.glb = State.reset.glb ∧ t.qps = [] ∧ t.doms = [] ∧ t.keys = []) ∧
  (∀ (s : State),
    s.Powered →
    ∃ t, exec .devResetNAssert s = .next t ∧ t.pkg.inReset = true ∧ t.pkg.rails = true ∧ t.pkg.fatalN = s.pkg.fatalN ∧ t.pkg.thermN = s.pkg.thermN ∧ t.pkg.alertN = false ∧ t.hbm = s.hbm ∧
      t.codex.first = s.codex.first ∧ t.codex.ring = s.codex.ring ∧ t.codex.nextSeq = s.codex.nextSeq ∧ t.codex.lastChain = s.codex.lastChain ∧
      t.codex.queue = s.codex.queue ++ s.codex.handed ∧ t.codex.handed = [] ∧ t.glb = State.reset.glb ∧ t.time = State.reset.time ∧
      t.cxl = State.reset.cxl ∧ t.lat = State.reset.lat ∧ t.qps = [] ∧ t.regions = [] ∧ t.doms = [] ∧ t.keys = [] ∧ t.keyLoad = State.reset.keyLoad ∧
      t.cnt = State.reset.cnt ∧ t.sec.boot = s.sec.boot ∧ t.sec.imageA = s.sec.imageA ∧ t.sec.imageB = s.sec.imageB ∧ t.sec.svn = s.sec.svn ∧
      t.sec.ownerHash0 = s.sec.ownerHash0 ∧ t.sec.ownerHash1 = s.sec.ownerHash1 ∧ t.outbox = s.outbox) ∧
  (∀ (s : State) (v : W64),
    s.Powered →
    s.pkg.refclk = true →
    s.pkg.inReset = false →
    s.pkg.testMode = false →
    fld v 0 8 = 0xD5 →
    bitAt v 8 = true →
    ∃ t, exec (.glbCtlDeviceReset v) s = .next t ∧ t.pkg.inReset = false ∧ t.pkg.fatalN = false ∧ t.hbm = s.hbm ∧ t.codex.first = s.codex.first ∧
      t.codex.ring = s.codex.ring ∧ t.codex.queue = s.codex.queue ++ s.codex.handed ∧ t.glb = State.reset.glb ∧ t.time = State.reset.time ∧
      t.qps = [] ∧ t.regions = [] ∧ t.doms = [] ∧ t.keys = [] ∧ t.keyLoad = State.reset.keyLoad ∧ t.cnt = State.reset.cnt ∧ t.sec.boot = s.sec.boot ∧
      t.sec.imageA = s.sec.imageA ∧ t.sec.imageB = s.sec.imageB) ∧
  (∀ (s : State) (v : W64),
    s.quiet ∧ s.calm →
    fld v 0 8 ≠ 0xD5 ∨ bitAt v 8 = false →
    exec (.glbCtlDeviceReset v) s = .next s) ∧
  (∀ (s : State) (mgmtMode : Bool) (addrSel : BitVec 2) (testMode : Bool),
    s.Powered →
    s.pkg.refclk = true →
    s.pkg.inReset = true →
    s.pkg.perstReset = false →
    exec (.devResetNRelease mgmtMode addrSel testMode) s = .next { s with pkg := { s.pkg with
        mgmtMode := mgmtMode, addrSel := addrSel, testMode := testMode, inReset := false, perstReset := false, fatalN := false, alertN := s.pkg.thermN } })

/-- Every immediate fatal cause takes the block to the fatal state as R518 lists, under its own cause and source (R9, R25, R517, R518, R548, R551). On a block that is powered, out of reset and not yet fatal, HBM_STACK_FAILURE, BRIDGE_LOSS, GTC_COPY_MISMATCH, CONTROL_STATE_UNCORRECTABLE and THERMAL_TRIP each leave exactly the state of State.wentFatal: FATAL, its cause, source and stamp, halted firmware, FATAL_N, ERR_FATAL to the host, records handed over kept for the writer, and nothing else changed. REFCLK_LOSS does so with cause 3 and leaves the reference clock not valid. TICK_MONITOR_EXPIRY does so on a running block with cause 7, 24 GTC units after the tick was due, once the windows on the way have closed. A stack number past 5 is refused. The mapping of causes to source numbers 0x3FF and 0x080 is the model's reading (log 54). -/
def Obligations.FatalSources : Prop :=
  (∀ (s : State) (stack : Nat),
    s.FatalReady →
    wfStack stack = true →
    exec (.hbmStackFailure stack) s = .next (s.wentFatal 1 0x3FF)) ∧
  (∀ (s : State) (stack : Nat),
    wfStack stack = false →
    exec (.hbmStackFailure stack) s = .refused .illFormed) ∧
  (∀ (s : State),
    s.FatalReady →
    exec .bridgeLoss s = .next (s.wentFatal 2 0x3FF)) ∧
  (∀ (s : State),
    s.FatalReady →
    exec .gtcCopyMismatch s = .next (s.wentFatal 4 0x080)) ∧
  (∀ (s : State) (src : Source),
    s.FatalReady →
    wfSource src = true →
    exec (.controlStateUncorrectable src) s = .next (s.wentFatal 5 src)) ∧
  (∀ (s : State),
    s.FatalReady →
    exec .thermalTrip s = .next (s.wentFatal 6 0x3FF)) ∧
  (∀ (s : State),
    s.FatalReady →
    exec .refclkLoss s = .next { s.wentFatal 3 0x080 with pkg := { (s.wentFatal 3 0x080).pkg with refclk := false } }) ∧
  (∀ (s : State),
    s.Ready →
    ∃ t u, exec .tickMonitorExpiry s = .next t ∧ u = closeDue (s.goTo (s.nextTickAt + 24)) ∧ t.glb.fatal = true ∧
      (u.glb.fatal = false → t.glb.fatalCause = 7 ∧ t.glb.fatalSource = 0x080 ∧ t.glb.fatalStamp = u.now ∧ t.glb.fwHalted = true ∧ t.pkg.fatalN = true ∧ (.aer 2 ∈ t.outbox)))

/-- The steps of initialisation: bridge, HBM stacks, zero fill, and the image the boot ROM starts (R275, R476, R477, R479, R506, R507, R519). DIE_BRIDGE_TRAINED sets the bridge step and HBM_STACKS_TRAINED, once the bridge is up, the HBM step, with nothing else changed while firmware does not run. GRANULE_ZERO_FILL_DONE of the next granule in order makes every byte of that granule read zero, unpoisons its lines, records it as filled and leaves every byte outside it. FIRMWARE_START on a block whose firmware neither runs nor is in recovery runs the first image that verifies, in the order of R477, and marks the measurements' slot; with none it enters recovery and hands over one record of code 0x12. BOOT_WATCHDOG_EXPIRY does the same with the first candidate taken as failed. -/
def Obligations.InitialisationSteps : Prop :=
  (∀ (s : State),
    s.Ready →
    s.glb.fwRunning = false →
    exec .dieBridgeTrained s = .next { s with glb := { s.glb with bridgeUp := true } }) ∧
  (∀ (s : State),
    s.Ready →
    s.glb.bridgeUp = true →
    s.glb.fwRunning = false →
    exec .hbmStacksTrained s = .next { s with glb := { s.glb with hbmReady := true } }) ∧
  (∀ (s : State) (g : Nat),
    s.Ready →
    wfGranule g = true →
    s.glb.hbmReady = true →
    s.glb.filled.contains g = false →
    fillOrder g ≤ fillDone s →
    ∃ t, exec (.granuleZeroFillDone g) s = .next t ∧ t.glb.filled = g :: s.glb.filled ∧
      (∀ a, t.byte a = if a / 2 ^ 30 = g then 0 else s.byte a) ∧ t.hbm.poison = s.hbm.poison.filter (fun l => ¬ (l / 2 ^ 24 = g)) ∧
      t.time = s.time ∧ t.pkg = s.pkg ∧ t.qps = s.qps ∧ t.keys = s.keys ∧ t.cxl = s.cxl ∧ t.outbox = s.outbox) ∧
  (∀ (s : State) (first : Bool),
    s.Ready →
    s.glb.fwRunning = false →
    s.glb.recovery = false →
    ∃ t, exec (if first then .firmwareStart else .bootWatchdogExpiry) s = .next t ∧ t.sec.ownerHash = ownerFuse s ∧
      t.hbm = s.hbm ∧ t.time = s.time ∧ t.pkg = s.pkg ∧ t.qps = s.qps ∧ t.cxl = s.cxl ∧
      match bootChoice s (if first then 0 else 1) with
      | some k => t.glb.fwRunning = true ∧ t.glb.recovery = false ∧ t.sec.slot = k ∧ t.sec.measured = true
      | none => t.glb.fwRunning = false ∧ t.glb.recovery = true ∧ t.glb.initDone = s.glb.initDone ∧
          t.codex = (codexHand s 0x12 0x090 0xFF 0).codex)

/-- A firmware restart clears the key staging buffer and leaves the data path, keys and HBM as they were; the third in 10 s halts (R22, R23, R24, R283, R534). FW_WATCHDOG_EXPIRY on running firmware with no update staged begins a restart of cause 0: it is listed in the 10 s window that the first restart opened, one codex record of code 0x10 is handed over, KEY_LOAD_DATA and DATA_MASK are zero, a root on PTP goes to holdover, and queue pairs, regions, key slots, HBM, the lattice block, the GTC and GLB are unchanged. Where it would be the third in the window, firmware is halted instead. FIRMWARE_RESTART_DONE ends the restart and the holdover it began and puts every command firmware had not completed back at the front of those the manager ring has handed over. -/
def Obligations.FirmwareRestartKeepsTheDataPath : Prop :=
  (∀ (s : State),
    s.Ready →
    fwAlive s = true →
    s.sec.staging = none →
    (restartWindow s.fw.restarts s.now).length < 3 →
    ∃ t, exec .fwWatchdogExpiry s = .next t ∧ t.fw.restarting = some 0 ∧ t.fw.redo = s.fw.redo ∧
      t.fw.restarts = restartWindow s.fw.restarts s.now ∧
      t.keyLoad.data = List.replicate 8 0 ∧ t.keyLoad.mask = 0 ∧ (∃ r ∈ t.codex.handed, r.code = 0x10 ∧ r.stamp = s.now ∧ r.source = 0x090) ∧
      (s.time.holdover = false → t.time.holdover = (s.time.isRoot && refSelect s = 2)) ∧
      t.keys = s.keys ∧ t.qps = s.qps ∧ t.regions = s.regions ∧ t.doms = s.doms ∧ t.hbm = s.hbm ∧ t.lat = s.lat ∧ t.time.gtc = s.time.gtc ∧ t.time.slew = s.time.slew ∧ t.glb = s.glb ∧
      t.mgrSq = s.mgrSq ∧ t.outbox = s.outbox) ∧
  (∀ (s : State),
    s.Ready →
    fwAlive s = true →
    s.sec.staging = none →
    3 ≤ (restartWindow s.fw.restarts s.now).length →
    ∃ t, exec .fwWatchdogExpiry s = .next t ∧ t.fw.restarting = none ∧ t.glb = { s.glb with fwHalted := true } ∧
      t.keyLoad.data = List.replicate 8 0 ∧ t.keyLoad.mask = 0 ∧ t.keys = s.keys ∧ t.qps = s.qps ∧ t.regions = s.regions ∧ t.doms = s.doms ∧
      t.hbm = s.hbm ∧ t.lat = s.lat ∧ t.time.gtc = s.time.gtc) ∧
  (∀ (s : State) (c : Nat),
    s.Ready →
    s.fw.restarting = some c →
    ∃ t, exec .firmwareRestartDone s = .next t ∧ t.fw = { s.fw with restarting := none, redo := [] } ∧
      t.mgrSq = { s.mgrSq with handed := (s.fw.redo.filter fun d => ¬ s.mgrSq.handed.contains d) ++ s.mgrSq.handed } ∧
      t.time.holdover = (s.time.holdover && !s.time.restartHold) ∧
      t.keys = s.keys ∧ t.qps = s.qps ∧ t.regions = s.regions ∧ t.doms = s.doms ∧ t.hbm = s.hbm ∧ t.time.gtc = s.time.gtc ∧ t.glb = s.glb)

/-- Contained errors and the warning pins: THERM_N, the alert response, bridge words and lost structures (R511, R515, R516, R548, R554). THERMAL_WARNING drives THERM_N from 100 degrees of the die or 95 of HBM and raises the alert when it is driven anew outside a reset, releases it below 95 and 90, and otherwise leaves it. MGMT_ALERT_RESPONSE answers with the address and ends the alert. A corrected bridge word is counted and reported by aerCorrected; an uncorrectable one loses its cell, or poisons its line for the access of its cycle, sends one AER message and is counted in the 1 ms window, which it opens where none is open; at BRIDGE_LIMIT the block goes fatal with cause 2. ONDIE_UNCORRECTABLE does for each code what Table 21.5 lists for its structure, hands over one record of code 0x61, sends one AER message and settles what waited; with no access in progress code 2 changes only the region and code 6 only the route key. Codes outside 1 to 11 are refused. -/
def Obligations.ErrorReportsAndPins : Prop :=
  (∀ (s : State) (dieT hbmT : Int),
    s.Powered →
    exec (.thermalWarning dieT hbmT) s = .next (if dieT ≥ 100 ∨ hbmT ≥ 95 then
        { s with pkg := { s.pkg with thermN := true, alertN := s.pkg.alertN || (!s.pkg.thermN && !s.pkg.inReset) } }
      else if dieT < 95 ∧ hbmT < 90 then { s with pkg := { s.pkg with thermN := false } } else s)) ∧
  (∀ (s : State),
    s.Powered →
    s.pkg.alertN = true →
    s.pkg.inReset = false →
    exec .mgmtAlertResponse s = .next { s with
        pkg := { s.pkg with alertN := false, mctpPending := false }, outbox := s.outbox ++ [.alertAddress] }) ∧
  (∀ (s : State) (line : Option Nat),
    s.Ready →
    (∀ l, line = some l → wfLine l = true) →
    exec (.bridgeWordError true line) s = .next (aerCorrected (bump s (devCnt 4) 1))) ∧
  (∀ (s : State) (line : Option Nat) (fresh : Bool) (count : Nat),
    s.Ready →
    (∀ l, line = some l → wfLine l = true) →
    fresh = (match s.glb.bridgeWin with | some g => decide (g + 16000000 ≤ s.now) | none => true) →
    count = (if fresh then 1 else s.glb.bridgeCount + 1) →
    count < max 1 (fld s.glb.errCfg 8 8) →
    exec (.bridgeWordError false line) s = .next { s with
        lat := if line.isNone then { s.lat with drops := s.lat.drops + 1 } else s.lat
        cyc := { s.cyc with bridged := line.toList ++ s.cyc.bridged }
        glb := { s.glb with bridgeWin := if fresh then some s.now else s.glb.bridgeWin, bridgeCount := count }, outbox := s.outbox ++ [.aer 1] }) ∧
  (∀ (s : State) (line : Option Nat) (fresh : Bool) (count : Nat),
    s.Ready →
    (∀ l, line = some l → wfLine l = true) →
    fresh = (match s.glb.bridgeWin with | some g => decide (g + 16000000 ≤ s.now) | none => true) →
    count = (if fresh then 1 else s.glb.bridgeCount + 1) →
    max 1 (fld s.glb.errCfg 8 8) ≤ count →
    ∃ t, exec (.bridgeWordError false line) s = .next t ∧ t.glb.fatal = true ∧ t.glb.fatalCause = 2 ∧ t.glb.fatalStamp = s.now ∧ t.pkg.fatalN = true) ∧
  (∀ (s : State) (code obj : Nat),
    s.Ready →
    1 ≤ code ∧ code ≤ 11 →
    exec (.ondieUncorrectable code obj) s = .next (commitNow s (settleAll (structRecord (match code with
        | 1 => match getQp s obj with
          | some q => enterError s obj (currentOp q) 0xA 3 true
          | none => s
        | 2 => { s with regions := tupd s.regions obj fun r => { r with valid := false } }
        | 3 => loseKey s obj
        | 4 => loseTrig s obj
        | 5 => loseSlot s obj
        | 6 => modLat s fun l => { l with routes := tdel l.routes obj }
        | 7 => voidFlow s obj
        | 8 => loseCell s obj
        | 9 => match (getMac s obj).buffer with
          | _ :: rest => flowGen (dropFrame (modMac s obj fun m => { m with buffer := rest }) obj 4) obj
          | [] => s
        | 10 => bufferLost s obj
        | _ => killJob s obj 0xA) code obj)))) ∧
  (∀ (s : State) (code obj : Nat),
    s.Ready →
    s.Still →
    code = 2 ∨ code = 6 →
    exec (.ondieUncorrectable code obj) s = .next { s with
        regions := if code = 2 then tupd s.regions obj (fun r => { r with valid := false }) else s.regions
        lat := if code = 6 then { s.lat with routes := tdel s.lat.routes obj } else s.lat
        codex := (codexHand s 0x61 0x3FF 0xFF (codexCause code obj)).codex, outbox := s.outbox ++ [.aer 1] }) ∧
  (∀ (s : State) (code obj : Nat),
    code = 0 ∨ 11 < code →
    exec (.ondieUncorrectable code obj) s = .refused .illFormed)

/-- TIM_CFG and the folio size: what a write accepts, when the new size takes effect, and the 1PPS output (R33, R57). A write of TIM_CFG through a BAR that keeps FOLIO_SIZE stores the register. One that changes it to code 3, or while a lattice port is not dark or a ring is enabled, sets CFG_REJECT and changes nothing else of the unit. Otherwise it stores the register and the size waits for the next GTC multiple of 98304. FOLIO_SIZE_CHANGE whose GTC lies no later than the next tick puts the size in force and renumbers the tick so that the multiple's tick fires next; one whose GTC has passed takes the number of the present GTC. PPS_OUT_PULSE with the output enabled raises it at a GTC multiple of one second for 160000 units, in the present crossbar cycle where the second has just begun and its pulse has not, else at the next second where that comes before the cycle of the next tick. PPS_OUT_PULSE_END lowers it at the pulse's end. Everything else is unchanged but what passes with the clock. -/
def Obligations.FolioSizeAndPps : Prop :=
  (∀ (s : State) (v : W64),
    s.BarReady →
    fld v 0 2 = fld s.time.cfg 0 2 →
    exec (.timFolioSizeWrite v) s = .next { s with time := { s.time with cfg := v &&& 0x7FFF03 } }) ∧
  (∀ (s : State) (v : W64),
    s.BarReady →
    fld v 0 2 ≠ fld s.time.cfg 0 2 →
    fld v 0 2 = 3 ∨ allDark s = false ∨ anyRing s = true →
    exec (.timFolioSizeWrite v) s = .next { mark s 0x110008 4 with time := { s.time with cfgReject := true } }) ∧
  (∀ (s : State) (v : W64),
    s.BarReady →
    fld v 0 2 ≠ fld s.time.cfg 0 2 →
    fld v 0 2 ≠ 3 →
    allDark s = true →
    anyRing s = false →
    exec (.timFolioSizeWrite v) s = .next { s with
        time := { s.time with cfg := v &&& 0x7FFF03, fsNext := some (fld v 0 2, (s.now / 98304 + 1) * 98304) } }) ∧
  (∀ (s : State) (c : Nat) (g : Gtc),
    s.Ready →
    s.time.fsNext = some (c, g) →
    g ≤ s.now →
    exec .folioSizeChange s = .next { s with time := { s.time with fsize := c, fsNext := none, tick := s.now / folioLen c } }) ∧
  (∀ (s : State) (c : Nat) (g : Gtc),
    s.running = true →
    s.time.fsNext = some (c, g) →
    s.now < g →
    g ≤ s.nextTickAt →
    (s.goTo s.lastCycle).time.fsNext = some (c, g) →
    (s.goTo s.lastCycle).now < g →
    exec .folioSizeChange s = .next (commit s { s.goTo s.lastCycle with
        time := { (s.goTo s.lastCycle).time with fsize := c, fsNext := none, tick := g / folioLen c - 1 } })) ∧
  (∀ (s : State) (g : Gtc),
    s.running = true →
    ppsRiseAt s = some g →
    g ≤ s.now ∨ cyclesTo s.time g < cyclesTo s.time s.nextTickAt →
    exec .ppsOutPulse s = .next (commit s { s.goTo g with
        pkg := { (s.goTo g).pkg with ppsHigh := some ((s.goTo g).now / 16000000000 * 16000000000 + 160000) } })) ∧
  (∀ (s : State),
    bitAt s.time.cfg 19 = true →
    ppsRiseAt s = some (if s.now < s.now / 16000000000 * 16000000000 + 13 ∧ s.pkg.ppsHigh ≠ some (s.now / 16000000000 * 16000000000 + 160000)
        then s.now / 16000000000 * 16000000000 else s.now / 16000000000 * 16000000000 + 16000000000)) ∧
  (∀ (s : State) (g : Gtc),
    s.running = true →
    s.pkg.ppsHigh = some g →
    g ≤ s.now ∨ cyclesTo s.time g < cyclesTo s.time s.nextTickAt →
    exec .ppsOutPulseEnd s = .next (commit s { s.goTo g with pkg := { (s.goTo g).pkg with ppsHigh := none } }))

/-- The root's reference: acquisition, loss, return, 1PPS edges and a commanded step (R29, R50, R53, R54, R55). REF_ACQUIRE of a valid reference on a root in traceable mode, for a second R29 can express, records the reference's lead; with no port ACTIVE and no ring it makes a load due at the next tick, and otherwise with a lead below one folio nothing more; a second R29 refuses sets REF_LOST and hands over one record of code 0x22; on a root not traceable the phase to the nearest whole second is taken. REF_LOSS of the selected reference puts the root into holdover, sets REF_LOST and hands over its record. REF_RETURN ends holdover with the new lead and never steps. PPS_IN_EDGE keeps the stamps of the last two edges, and where the root follows them measures its phase anew. GTC_STEP on a root with no set busy and no step announced, for 1 to 2^20 folios at a tick at least 8 ahead, makes the step pending and completes SUCCESS on the manager ring. STEP_ANNOUNCE, for a tick still to come and with no step announced, makes the step pending; each announcement heard for the first time is passed on at the other lattice ports, and one heard before changes nothing. -/
def Obligations.TimeReference : Prop :=
  (∀ (s : State) (sec : Nat) (g : Gtc),
    s.Ready →
    s.time.isRoot = true →
    s.time.traceable = true →
    s.time.acquired = false →
    refValid s = true →
    refGtc s sec = some g →
    noneActive s = true →
    anyRing s = false →
    exec (.refAcquire sec) s = .next { s with time := { s.time with
        acquired := true, holdover := false, restartHold := false, refOffset := some (((g : Int) - s.now) * 65536), loadDue := true } }) ∧
  (∀ (s : State) (sec : Nat) (g : Gtc),
    s.Ready →
    s.time.isRoot = true →
    s.time.traceable = true →
    s.time.acquired = false →
    refValid s = true →
    refGtc s sec = some g →
    noneActive s = false ∨ anyRing s = true →
    (g : Int) - s.now < s.F →
    exec (.refAcquire sec) s = .next { s with time := { s.time with
        acquired := true, holdover := false, restartHold := false, refOffset := some (((g : Int) - s.now) * 65536) } }) ∧
  (∀ (s : State) (sec : Nat),
    s.Ready →
    s.time.isRoot = true →
    s.time.traceable = true →
    s.time.acquired = false →
    refValid s = true →
    refGtc s sec = none →
    exec (.refAcquire sec) s = .next { mark s 0x110008 3 with
        time := { s.time with refLost := true }, codex := (codexHand s 0x22 0x80 0xFF (codexCause 3 0)).codex }) ∧
  (∀ (s : State) (sec : Nat),
    s.Ready →
    s.time.isRoot = true →
    s.time.traceable = false →
    s.time.acquired = false →
    refValid s = true →
    exec (.refAcquire sec) s = .next { s with time := { s.time with
        acquired := true, holdover := false, restartHold := false, refOffset := some (phaseOffset s) } }) ∧
  (∀ (s : State) (sec : Nat),
    s.Ready →
    s.time.isRoot = false ∨ s.time.acquired = true ∨ refValid s = false →
    exec (.refAcquire sec) s = .next s) ∧
  (∀ (s : State) (cause : RefLossCause) (n : Nat),
    s.Ready →
    lossCause s cause = some n →
    s.time.isRoot = true →
    s.time.holdover = false ∨ s.time.restartHold = true →
    exec (.refLoss cause) s = .next { mark s 0x110008 3 with
        time := { (inputLost s cause).time with holdover := true, restartHold := false, refOffset := none, refStep := false, loadDue := false, refLost := true }
        codex := (codexHand s 0x22 0x80 0xFF (codexCause n 0)).codex }) ∧
  (∀ (s : State) (cause : RefLossCause),
    s.Ready →
    lossCause s cause = none ∨ s.time.isRoot = false ∨ (s.time.holdover = true ∧ s.time.restartHold = false) →
    exec (.refLoss cause) s = .next (inputLost s cause)) ∧
  (∀ (s : State) (sec : Nat) (g : Gtc),
    s.Ready →
    s.time.isRoot = true →
    s.time.holdover = true →
    s.time.restartHold = false →
    refSelect s ≠ 0 →
    s.time.traceable = true →
    refGtc s sec = some g →
    exec (.refReturn sec) s = .next { s with time := { s.time with
        tenMhz := true, holdover := false, acquired := true, refOffset := some (((g : Int) - s.now) * 65536) } }) ∧
  (∀ (s : State),
    s.Ready →
    s.time.isRoot = false ∨ s.time.acquired = false →
    exec .ppsInEdge s = .next { s with time := { s.time with ppsEdges := (s.now :: s.time.ppsEdges).take 2 } }) ∧
  (∀ (s u : State),
    s.Ready →
    u = { s with time := { s.time with ppsEdges := (s.now :: s.time.ppsEdges).take 2 } } →
    s.time.isRoot = true →
    s.time.acquired = true →
    s.time.holdover = false →
    s.time.loadDue = false →
    refSelect s = 1 →
    exec .ppsInEdge s = .next (if refValid u then { u with time := { u.time with refOffset := some (phaseOffset u) } } else u)) ∧
  (∀ (s : State) (d : Line),
    s.MgrReady →
    s.time.isRoot = true →
    setBusy s = false →
    s.time.step = none →
    0 < dfld d 24 0 21 →
    dfld d 24 0 21 ≤ 2 ^ 20 →
    s.folio + 8 ≤ dfld d 16 0 64 →
    (3, dfld d 24 0 21, dfld d 16 0 64) ∉ s.lat.seen →
    exec (.gtcStep d) s = .next (commitNow s (mgrOk (announceStep (takeHanded s .mgrSq d) (dfld d 16 0 64) (dfld d 24 0 21) 1) d)) ∧
      (announceStep (takeHanded s .mgrSq d) (dfld d 16 0 64) (dfld d 24 0 21) 1).time.step = some (dfld d 16 0 64, dfld d 24 0 21, 1)) ∧
  (∀ (s : State) (port n ks : Nat),
    s.Ready →
    wfLat port = true →
    s.time.step = none →
    s.folio < ks →
    (3, n, ks) ∉ s.lat.seen →
    exec (.stepAnnounce port n ks) s = .next (commitNow s (floodLink { s with
        time := { s.time with step := some (ks, n, 1) }
        lat := { s.lat with seen := (3, n, ks) :: s.lat.seen } } (some port) (stepPayload n ks)))) ∧
  (∀ (s : State) (port n ks : Nat),
    s.Ready →
    wfLat port = true →
    (3, n, ks) ∈ s.lat.seen →
    exec (.stepAnnounce port n ks) s = .next s)

/-- ROOT_FAILOVER drops every record of the root that fell silent and chooses root and parent afresh (R40, R43). Two folios after this adapter, no root itself, last heard its root, every lattice port's far record that names that root takes priority 255; where this adapter is then the next by the key of R40 it chooses the time tree again at once and leads, and otherwise it chooses its parent at the next tick. Before that nothing changes. -/
def Obligations.RootFailoverChoosesAfresh : Prop :=
  (∀ (s u : State),
    s.running = true →
    s.time.isRoot = false →
    s.time.rootPri ≠ 255 →
    s.time.rootHeard + 2 ≤ s.folio →
    (u = { s with lports := s.lports.map (fun x => { x with far := x.far.map fun f => if f.rootIdx = s.time.rootIdx then { f with rootPri := 255 } else f }), time := { s.time with rootHeard := s.time.tick } }) →
    exec .rootFailover s = .next (commit s (if bestRoot u = some (rootPriority u, myCoord u) then timeTree u else u))) ∧
  (∀ (s : State),
    s.Ready →
    s.time.isRoot = false →
    s.folio < s.time.rootHeard + 2 →
    exec .rootFailover s = .next s)

/-- FOLIO_TICK: the clock reaches the first crossbar cycle at or past the tick, and Table 1.5's actions follow in order (R13, R15, R31, R33, R34). With inputs that name real engines and lanes a running block completes FOLIO_TICK: the clock runs to the tick due, announced steps apply, registers latch, staged state commits, records of the folio are written, optics and time follow, and queued work is admitted. Where no folio size is due the tick's number rises by one, the clock reaches the first crossbar cycle whose GTC is not below the tick's, having advanced, and the state is otherwise what passing those cycles leaves. Registers of the RWT kind read in force afterwards what they were written. Inputs outside the part are refused. -/
def Obligations.FolioTickOrder : Prop :=
  (∀ (s : State) (inp : TickInputs),
    s.running = true →
    wfInputs inp = true →
    exec (.folioTick inp) s =
      .next (commit s (settleAll (workTick (opticTick (recordTick (commitTick (closeDue
        (latchTick (countCorrected (stepTick (reachTick s)) inp))))) inp))))) ∧
  (∀ (s : State) (inp : TickInputs),
    wfInputs inp = false →
    exec (.folioTick inp) s = .refused .illFormed) ∧
  (∀ (s u : State),
    u = cycleEnd (collEnd (engineEnd (closeDue (s.goTo s.lastCycle)))) →
    u.time.fsNext = none →
    (reachTick s).time.tick = u.time.tick + 1 ∧ (reachTick s).time.gtc = (u.time.run (cyclesTo u.time u.nextTickAt)).gtc) ∧
  (∀ (s : State),
    (rwtTick s).prioWeight.inForce = s.prioWeight.written ∧ (rwtTick s).calCfg.inForce = s.calCfg.written ∧
      (rwtTick s).lat.ccCfg.inForce = s.lat.ccCfg.written ∧ (rwtTick s).zoo.scrubCfg.inForce = s.zoo.scrubCfg.written ∧
      (∀ r, r ∈ (rwtTick s).macCfg → r.inForce = r.written) ∧ (rwtTick s).qps = s.qps ∧ (rwtTick s).hbm = s.hbm ∧ (rwtTick s).time = s.time)

/-- Doorbells: a producer doorbell moves P_dev, a consumer doorbell C_dev, the arming one arms, and a bad one is counted (R66, R69, R70, R92, R423). Through an open BAR, a producer doorbell that names an enabled descriptor ring with an index ahead of P_dev and within a lap of C_dev sets P_dev to it, clears the stop of DOORBELL_AHEAD, and leaves C_dev, the ring's size and the descriptors handed over. A consumer doorbell on a completion or event ring that is open and holds no records, with an index between C_dev and P_idx, sets C_dev; the arming form arms the ring too. One that names no ring of an enabled function only counts as bad. None changes HBM, the clock, regions or other domains' state. Operands outside the part are refused. -/
def Obligations.Doorbells : Prop :=
  (∀ (s : State) (fn num index : Nat) (ref : RingRef) (r : Ring),
    s.BarReady →
    (wfFn fn && wfBell num && wfIndex index) = true →
    fn = 0 ∨ (getFn s fn).state = .enabled →
    ringByBell s fn num = some ref →
    getRing s ref = some r →
    r.enabled = true →
    sub32 index r.pDev < 2 ^ 31 →
    sub32 index r.cDev ≤ 2 ^ r.log2 →
    ∃ t, exec (.doorbellProducer fn num index) s = .next t ∧
      (getRing t ref).map (fun x => (x.pDev, x.cDev, x.log2, x.stopped, x.enabled, x.handed)) =
        some (index % 2 ^ 32, r.cDev, r.log2, false, true, r.handed) ∧
      t.hbm = s.hbm ∧ t.time = s.time ∧ t.regions = s.regions ∧ t.doms = s.doms ∧ t.codex = s.codex ∧ t.keys = s.keys) ∧
  (∀ (s : State) (fn num index : Nat) (arm : Bool) (ref : RingRef) (q : CqRing),
    s.BarReady →
    (wfFn fn && wfBell num && wfIndex index) = true →
    fn = 0 ∨ (getFn s fn).state = .enabled →
    ringByBell s fn num = some ref →
    getRing s ref = none →
    getCq s ref = some q →
    bellOpen s ref = true →
    q.held = [] →
    sub32 index q.cIdx < 2 ^ 31 →
    sub32 index q.cIdx ≤ sub32 q.pIdx q.cIdx →
    ∃ t, exec (if arm then .doorbellConsumerArm fn num index else .doorbellConsumer fn num index) s = .next t ∧
      (getCq t ref).map (fun x => (x.cIdx, x.pIdx, x.log2, x.armed, x.held)) = some (index % 2 ^ 32, q.pIdx, q.log2, q.armed || arm, []) ∧
      t.hbm = s.hbm ∧ t.time = s.time ∧ t.qps = s.qps ∧ t.regions = s.regions ∧ t.doms = s.doms ∧ t.codex = s.codex ∧ t.outbox = s.outbox) ∧
  (∀ (s : State) (fn num index kind : Nat),
    s.BarReady →
    (wfFn fn && wfBell num && wfIndex index) = true →
    ringByBell s fn num = none →
    exec (.doorbellProducer fn num index) s = .next (badBell s fn) ∧ exec (.doorbellConsumer fn num index) s = .next (badBell s fn) ∧
      exec (.doorbellConsumerArm fn num index) s = .next (badBell s fn) ∧
      (getFn (badBell s fn) fn).badBells = (getFn s fn).badBells + 1) ∧
  (∀ (s : State) (fn num index : Nat),
    (wfFn fn && wfBell num && wfIndex index) = false →
    exec (.doorbellProducer fn num index) s = .refused .illFormed ∧ exec (.doorbellConsumer fn num index) s = .refused .illFormed ∧
      exec (.doorbellConsumerArm fn num index) s = .refused .illFormed)

/-- Descriptor fetch: LAP decides acceptance, and the 2 us window of a mismatch re-fetches and then stops the ring (R67, R74, R75, R76). DESCRIPTOR_FETCH_RESULT answers the oldest read of the ring that waits for it, with the bytes of HBM for a ring there. On a ring that may fetch, outside ERROR, with no pair waiting: a slot whose LAP is that of C_dev and whose opcode is valid closes the window, discards what is still outstanding, advances C_dev and is handed over last, and the fetch goes on; a poisoned slot or one of another LAP opens the window at that time, or leaves the open one, keeps C_dev and records what was found. A result to be discarded, or with no read waiting, changes nothing of the ring. A re-fetch k of at most 8 leaves at the window's opening plus 3840 k units and counts. At 32000 units a window that found no poison closes, stops the ring and posts DOORBELL_AHEAD. -/
def Obligations.DescriptorFetch : Prop :=
  (∀ (s : State) (ring : RingRef) (d : Line) (poison : Bool) (r : Ring) (a : Access) (w v u : State),
    s.Ready →
    fetchNext s ring = some a →
    a.dropped = false →
    (w = dropAccess (if a.place = .host then bwBytes (modCxl s fun c => { c with reads := c.reads.filter fun x => x.2.access ≠ a.id }) 28 false 64 else s) a.id) →
    getRing w ring = some r →
    r.enabled = true →
    canFetch w ring r = true →
    (fetchedData s a d poison).2 = false →
    dLap (fetchedData s a d poison).1 = ((r.cDev >>> r.log2) + 1) % 65536 →
    (v = modRing (dropFetches w ring) ring fun r => { r with window := none, refetches := 0, lastPoison := false }) →
    pairWaits v r (fetchedData s a d poison).1 = false →
    (∀ qp, ring = .sq qp ∨ ring = .rq qp → (getQp v qp).map (·.state) ≠ some .error) →
    (u = modRing v ring fun r => { r with cDev := (r.cDev + 1) % 2 ^ 32 }) →
    opcodeOk u ring (pairOpen r) (fetchedData s a d poison).1 = true →
    exec (.descriptorFetchResult ring d poison) s =
      .next (commitNow s (settle (startFetch (modRing u ring fun r => { r with handed := r.handed ++ [(fetchedData s a d poison).1] }) ring)))) ∧
  (∀ (s : State) (ring : RingRef) (d : Line) (poison : Bool) (r : Ring) (a : Access) (w : State),
    s.Ready →
    fetchNext s ring = some a →
    a.dropped = false →
    (w = dropAccess (if a.place = .host then bwBytes (modCxl s fun c => { c with reads := c.reads.filter fun x => x.2.access ≠ a.id }) 28 false 64 else s) a.id) →
    getRing w ring = some r →
    r.enabled = true →
    canFetch w ring r = true →
    (fetchedData s a d poison).2 = true ∨ dLap (fetchedData s a d poison).1 ≠ ((r.cDev >>> r.log2) + 1) % 65536 →
    exec (.descriptorFetchResult ring d poison) s = .next (commitNow s (settle (modRing w ring fun r => { r with
        window := if r.window.isSome then r.window else some w.now, refetches := if r.window.isSome then r.refetches else 0
        lastPoison := (fetchedData s a d poison).2, lapFound := dLap (fetchedData s a d poison).1 })))) ∧
  (∀ (s : State) (ring : RingRef) (d : Line) (poison : Bool) (a : Access),
    s.Ready →
    fetchNext s ring = some a →
    a.dropped = true →
    exec (.descriptorFetchResult ring d poison) s = .next (commitNow s (settle (dropAccess (if a.place = .host then
        bwBytes (modCxl s fun c => { c with reads := c.reads.filter fun x => x.2.access ≠ a.id }) 28 false 64 else s) a.id)))) ∧
  (∀ (s : State) (ring : RingRef) (d : Line) (poison : Bool),
    s.Ready →
    fetchNext s ring = none →
    exec (.descriptorFetchResult ring d poison) s = .next (commitNow s (settle s))) ∧
  (∀ (s : State) (ring : RingRef) (r : Ring) (o : Gtc),
    s.running = true →
    getRing s ring = some r →
    r.window = some o →
    r.refetches < 8 →
    s.Reaches (o + 3840 * (r.refetches + 1)) →
    exec (.descriptorRefetch ring) s = .next (commit s (refetchSlot (s.goTo (o + 3840 * (r.refetches + 1))) ring))) ∧
  (∀ (s : State) (ring : RingRef) (r : Ring),
    getRing s ring = some r →
    refetchSlot s ring = (if canFetch (modRing s ring fun q => { q with refetches := q.refetches + 1 }) ring r then fetchSlot (modRing s ring fun q => { q with refetches := q.refetches + 1 }) ring r
        else modRing s ring fun q => { q with refetches := q.refetches + 1 })) ∧
  (∀ (s : State) (ring : RingRef) (r : Ring) (o : Gtc) (q : Ring) (u : State),
    s.running = true →
    getRing s ring = some r →
    r.window = some o →
    s.Reaches (o + 32000) →
    getRing (s.goTo (o + 32000)) ring = some q →
    q.lastPoison = false →
    (u = modRing (modRing (dropFetches (s.goTo (o + 32000)) ring) ring fun r => { r with window := none, refetches := 0, lastPoison := false }) ring fun r => { r with stopped := true }) →
    exec (.doorbellAheadWindowClose ring) s = .next (commit s (postEvent u (refFn u ring) 0x01 (fnSource (refFn u ring))
        (carrelField ((fnDom u (refFn u ring)).getD 64)) (refObject ring)
        (evData [(20, 32, q.cDev), (24, 16, ((q.cDev >>> q.log2) + 1) % 65536), (26, 16, q.lapFound), (28, 8, q.refetches)]))))

/-- RING_CREATE, RING_DESTROY, RING_REBIND and the end of a destruction: the ring each leaves and the completion it writes (R64, R82, R83, R96). A RING_CREATE with no reason of R83 against it creates the ring and completes SUCCESS on the function's control ring; for a send queue the ring then has the size, doorbell number, completion queue and place of the descriptor, both indices 0, and is enabled. One with a reason completes KEY_INVALID with it in BYTE_COUNT and creates nothing. RING_DESTROY of a present ring no queue is bound to stops its fetching and waits, completing nothing. RING_DESTROY_DONE, once every descriptor of the ring is done, removes the ring and completes the command. RING_REBIND of a present ring with the link up clears its stop by link loss and completes SUCCESS. -/
def Obligations.ControlRingCommands : Prop :=
  (∀ (s : State) (fn : Nat) (d : Line),
    s.Ready →
    wfFn fn = true →
    createReason (takeHanded s (.ctlSq fn) d) fn d = 0 →
    exec (.ringCreate fn d) s = .next (commitNow s (ctlDone (createRing (takeHanded s (.ctlSq fn) d) fn d) fn d 0 0)) ∧
      (rcKind d = 0 → (getRing (createRing (takeHanded s (.ctlSq fn) d) fn d) (.sq (rcObject d))).map
          (fun r => (r.fn, r.log2, r.bell, r.bind, r.enabled, r.pDev, r.cDev, r.handed)) =
        some (fn, rcLog2 d, rcBell d, rcBind d, true, 0, 0, []))) ∧
  (∀ (s : State) (fn : Nat) (d : Line),
    s.Ready →
    wfFn fn = true →
    createReason (takeHanded s (.ctlSq fn) d) fn d ≠ 0 →
    exec (.ringCreate fn d) s =
      .next (commitNow s (ctlDone (takeHanded s (.ctlSq fn) d) fn d 0xC (createReason (takeHanded s (.ctlSq fn) d) fn d)))) ∧
  (∀ (s : State) (fn : Nat) (d : Line) (ref : RingRef),
    s.Ready →
    wfFn fn = true →
    rcRef fn d = some ref →
    refPresent (takeHanded s (.ctlSq fn) d) fn ref = true →
    (rcKind d = 2 && cqBound (takeHanded s (.ctlSq fn) d) fn (rcObject d)) = false →
    exec (.ringDestroy fn d) s = .next (modCq (modRing (dropFetches (takeHanded s (.ctlSq fn) d) ref) ref fun r =>
        { r with enabled := false, window := none, destroy := r.destroy ++ [d] }) ref fun q => { q with destroy := q.destroy ++ [d] })) ∧
  (∀ (s : State) (ring : RingRef),
    s.Ready →
    destroyCmd s ring ≠ [] →
    ringQuiet s ring = true →
    exec (.ringDestroyDone ring) s =
      .next (commitNow s ((destroyCmd s ring).foldl (fun u d => ctlDone u (refFn s ring) d 0 0) (removeRing s ring)))) ∧
  (∀ (s : State) (fn : Nat) (d : Line) (ref : RingRef),
    s.Ready →
    wfFn fn = true →
    rcRef fn d = some ref →
    refPresent (takeHanded s (.ctlSq fn) d) fn ref = true →
    fnUp s fn = true →
    exec (.ringRebind fn d) s = .next (commitNow s (startFetch (ctlDone
        (modCq (modRing (takeHanded s (.ctlSq fn) d) ref fun r => { r with linkStop := false }) ref fun q => { q with journalled := false })
        fn d 0 0) ref)))

/-- The ring locator registers, the journal's CLEAR and the close of an interrupt moderation window (R65, R92, R93, R530). A write of TRN_CTL_CFG or MGR_CFG with ENABLE 0 stops fetching and keeps both indices. One with ENABLE 1 that the rules refuse sets CFG_ERROR and leaves the ring stopped; an accepted one for a ring with nothing to fetch puts the submission ring at the base, the completion ring behind it, and enables it, indices kept. TRN_JOURNAL_CFG with CLEAR and the link up sets WRITE_COUNT to 0 where no entry is held and no journal is placed. INTERRUPT_MODERATION_CLOSE of an armed ring whose window is over disarms it and raises its interrupt. -/
def Obligations.RingLocators : Prop :=
  (∀ (s : State) (v : W64),
    s.BarReady →
    exec (.mgrRingDisable v) s = .next { s with
        mgrCfg := v &&& 0x7FF0F, mgrErr := s.mgrErr && !bitAt v 19, mgrSq := { s.mgrSq with enabled := false } }) ∧
  (∀ (s : State) (fn : Nat) (v : W64),
    s.BarReady →
    wfFn fn = true →
    fn = 0 ∨ (getFn s fn).state = .enabled →
    exec (.ctlRingDisable fn v) s = .next { s with fns := tput s.fns fn { getFn s fn with
        ctlCfg := v &&& 0x7FF2F, ctlErr := (getFn s fn).ctlErr && !bitAt v 19, ctlSq := { (getFn s fn).ctlSq with enabled := false } } }) ∧
  (∀ (s : State) (v : W64),
    s.BarReady →
    mgrRefused (if bitAt v 19 then { s with mgrErr := false } else s) v = false →
    s.mgrSq.cDev = s.mgrSq.pDev →
    exec (.mgrRingEnable v) s = .next { s with
        mgrCfg := (v &&& 0x7FF0F) ||| 0x10, mgrErr := s.mgrErr && !bitAt v 19
        mgrSq := { s.mgrSq with enabled := true, place := .hbm, addr := fld s.mgrBase 6 33 * 64, dom := 64, log2 := fld v 0 4 }
        mgrCq := { s.mgrCq with
          place := .hbm, addr := fld s.mgrBase 6 33 * 64 + 64 * 2 ^ fld v 0 4, dom := 64, log2 := fld v 0 4, vector := fld v 8 11 } }) ∧
  (∀ (s : State) (v : W64),
    s.BarReady →
    mgrRefused (if bitAt v 19 then { s with mgrErr := false } else s) v = true →
    exec (.mgrRingEnable v) s = .next { mark s 0x1B0018 19 with mgrCfg := v &&& 0x7FF0F, mgrErr := true, mgrSq := { s.mgrSq with enabled := false } }) ∧
  (∀ (s : State) (fn : Nat) (v : W64),
    s.BarReady →
    wfFn fn = true →
    fn = 0 ∨ (getFn s fn).state = .enabled →
    (getFn s fn).ctlSq.cDev = (getFn s fn).ctlSq.pDev →
    ctlRefused s fn v = false →
    bitAt v 19 = false →
    ∃ t, exec (.ctlRingEnable fn v) s = .next t ∧ t = { s with fns := tput s.fns fn (getFn t fn) } ∧ (getFn t fn).ctlCfg = (v &&& 0x7FF2F) ||| 0x10 ∧
      (getFn t fn).ctlErr = (getFn s fn).ctlErr ∧
      (getFn t fn).ctlSq.enabled = true ∧ (getFn t fn).ctlSq.addr = fld (getFn s fn).ctlBase 6 51 * 64 ∧ (getFn t fn).ctlSq.log2 = fld v 0 4 ∧
      (getFn t fn).ctlSq.place = (if bitAt v 5 then .hbm else .host) ∧ (getFn t fn).ctlSq.pDev = (getFn s fn).ctlSq.pDev ∧ (getFn t fn).ctlSq.cDev = (getFn s fn).ctlSq.cDev ∧
      (getFn t fn).ctlCq.addr = fld (getFn s fn).ctlBase 6 51 * 64 + 64 * 2 ^ fld v 0 4 ∧ (getFn t fn).ctlCq.vector = fld v 8 11 ∧
      (getFn t fn).ctlCq.pIdx = (getFn s fn).ctlCq.pIdx ∧ (getFn t fn).ctlCq.cIdx = (getFn s fn).ctlCq.cIdx ∧ (getFn t fn).state = (getFn s fn).state ∧ (getFn t fn).msix = (getFn s fn).msix) ∧
  (∀ (s : State) (v : W64),
    s.BarReady →
    journalCap { s with journal := { s.journal with cfg := BitVec.ofNat 64 (fld v 0 5 + (if bitAt v 5 && 10 ≤ fld v 0 5 && fld v 0 5 ≤ 20 then 32 else 0)) } } = 0 →
    s.journal.held = [] →
    exec (.journalClear v) s = .next { s with journal := { s.journal with
        writes := (if bitAt v 6 ∧ s.cxl.lost = false then 0 else s.journal.writes)
        cfg := BitVec.ofNat 64 (fld v 0 5 + (if bitAt v 5 && 10 ≤ fld v 0 5 && fld v 0 5 ≤ 20 then 32 else 0)) } }) ∧
  (∀ (s : State) (ring : RingRef) (q x : CqRing) (g : Gtc),
    s.running = true →
    getCq s ring = some q →
    q.armed = true →
    q.raiseAt = some g →
    s.Reaches g →
    getCq (s.goTo g) ring = some x →
    exec (.interruptModerationClose ring) s = .next (commit s (raiseRing (s.goTo g) ring x))) ∧
  (∀ (s : State) (ring : RingRef) (q : CqRing) (f : Nat),
    s.running = true →
    getCq s ring = some q →
    q.armed = true →
    q.raiseAt = none →
    q.winFolio = some f →
    f + q.modFolios ≤ s.folio →
    exec (.interruptModerationClose ring) s = .next (commit s (raiseRing s ring q))) ∧
  (∀ (s : State) (ring : RingRef) (q : CqRing),
    (getFn s q.fn).fenced = false →
    q.notify = false →
    raiseRing s ring q = raiseMsix (modCq s ring fun q => { q with armed := false, since := 0, winFolio := none, raiseAt := none }) q.fn q.vector)

/-- Every work descriptor handed to a sending queue pair joins its queue of work unchanged, and a RECV its receive queue (R76, R78, R80, R81, R99, R105, R107, R108, R109, R117, R133, R144). For each of the twelve work rows, handed to a QP in RTS or SQD whose context is on die and with no access in progress, an opcode valid on its ring and its key checks passed, the next state is exactly the old one with the descriptor off the ring and a new entry at the end of the QP's work, under the next index, holding the whole descriptor; nothing is fetched, sent or written yet. In ERROR it completes QP_FLUSHED. RECV and RAW_RECV with a good local key join the receive queue, available from the next tick. A TRIGGERED pair whose counters belong to the carrel joins the held pairs, room in the pool given, and the pairs whose thresholds are met are released: none, where every pair's counter is short of its own. Work for a QP whose context is not on die waits for its load, which opens a window, in order of arrival. A wrong opcode or QP number is refused. -/
def Obligations.WorkDescriptors : Prop :=
  (∀ (s u : State) (qp : Nat) (d : Line) (q : Qp) (op : Nat) (c : Instr),
    s.Ready →
    s.xl.accesses = [] →
    wfQp qp = true →
    uncached s qp = false →
    (op, c) ∈ [(0x00, .nop qp d), (0x01, .send qp d), (0x02, .write qp d), (0x03, .writeTrig qp d), (0x04, .read qp d), (0x05, .rawSend qp d), (0x10, .allreduceSum qp d), (0x11, .allreduceMax qp d), (0x12, .reduceScatter qp d), (0x13, .allgather qp d), (0x14, .broadcast qp d), (0x15, .barrier qp d)] →
    dOpcode d = op →
    getQp (takeHanded s (.sq qp) d) qp = some q →
    q.state = .rts ∨ q.state = .sqd →
    opcodeOk (takeHanded s (.sq qp) d) (.sq qp) false d = true →
    (u = modQp (takeHanded s (.sq qp) d) qp fun q => { q with ops := q.ops ++ [SendOp.new q.opNext d none], opNext := q.opNext + 1 }) →
    workOk u qp q d = true →
    exec c s = .next u) ∧
  (∀ (s : State) (qp : Nat) (d : Line) (q : Qp) (op : Nat) (c : Instr),
    s.Ready →
    wfQp qp = true →
    uncached s qp = false →
    (op, c) ∈ [(0x00, .nop qp d), (0x01, .send qp d), (0x02, .write qp d), (0x03, .writeTrig qp d), (0x04, .read qp d), (0x05, .rawSend qp d), (0x10, .allreduceSum qp d), (0x11, .allreduceMax qp d), (0x12, .reduceScatter qp d), (0x13, .allgather qp d), (0x14, .broadcast qp d), (0x15, .barrier qp d)] →
    dOpcode d = op →
    getQp (takeHanded s (.sq qp) d) qp = some q →
    q.state = .error →
    exec c s = .next (commitNow s (settle (sendRecord (takeHanded s (.sq qp) d) qp q (dWrId d) (dOpcode d) 8 0 0)))) ∧
  (∀ (s : State) (qp : Nat) (d : Line) (op : Nat) (c : Instr),
    s.Ready →
    wfQp qp = true →
    uncached s qp = true →
    (op, c) ∈ [(0x00, .nop qp d), (0x01, .send qp d), (0x02, .write qp d), (0x03, .writeTrig qp d), (0x04, .read qp d), (0x05, .rawSend qp d), (0x10, .allreduceSum qp d), (0x11, .allreduceMax qp d), (0x12, .reduceScatter qp d), (0x13, .allgather qp d), (0x14, .broadcast qp d), (0x15, .barrier qp d)] →
    dOpcode d = op →
    exec c s = .next (modQp s qp fun q => { q with ctxWait := q.ctxWait ++ [.work d], loading := q.loading <|> some s.now })) ∧
  (∀ (s : State) (qp : Nat) (d : Line) (q : Qp) (c : Instr),
    s.Ready →
    s.xl.accesses = [] →
    wfQp qp = true →
    uncached s qp = false →
    (dOpcode d = 0x08 ∧ c = .recv qp d) ∨ (dOpcode d = 0x09 ∧ c = .rawRecv qp d) →
    getQp (takeHanded s (.rq qp) d) qp = some q →
    q.state ≠ .error ∧ q.state ≠ .reset →
    opcodeOk (takeHanded s (.rq qp) d) (.rq qp) false d = true →
    localOk (takeHanded s (.rq qp) d) q.fn (dLocalKey d) (dLocalAddr d) (dLength d) true = true →
    exec c s = .next (modQp (takeHanded s (.rq qp) d) qp fun q => { q with recvs := q.recvs ++ [⟨d, s.folio + 1, q.opNext⟩], opNext := q.opNext + 1 })) ∧
  (∀ (s : State) (qp : Nat) (d : Line) (c : Instr),
    s.Ready →
    wfQp qp = true →
    uncached s qp = true →
    (dOpcode d = 0x08 ∧ c = .recv qp d) ∨ (dOpcode d = 0x09 ∧ c = .rawRecv qp d) →
    exec c s = .next (modQp s qp fun q => { q with ctxWait := q.ctxWait ++ [.recv d], loading := q.loading <|> some s.now })) ∧
  (∀ (s v : State) (qp : Nat) (d work : Line) (q : Qp),
    s.Ready →
    wfQp qp = true →
    uncached s qp = false →
    dOpcode d = 0x20 →
    v = takeHanded (takeHanded s (.sq qp) d) (.sq qp) work →
    getQp v qp = some q →
    q.state = .rts ∨ q.state = .sqd →
    opcodeOk v (.sq qp) true work = true →
    poolFull v (fnDom v q.fn) = false →
    workOk v qp q work = true →
    countersOk v (qpDom v q) d = true →
    exec (.triggered qp d work) s = .next (commitNow s (settle (poolKick (releasePairs (modQp v qp fun q =>
        { q with pairs := q.pairs ++ [⟨q.opNext, d, work⟩], opNext := q.opNext + 1 })))))) ∧
  (∀ (s : State) (qp : Nat) (d work : Line),
    s.Ready →
    wfQp qp = true →
    uncached s qp = true →
    dOpcode d = 0x20 →
    exec (.triggered qp d work) s = .next (modQp s qp fun q => { q with ctxWait := q.ctxWait ++ [.pair d work], loading := q.loading <|> some s.now })) ∧
  (∀ (s : State),
    (∀ e, e ∈ s.qps → ∀ p, p ∈ e.2.pairs → 2 ^ 31 ≤ (tget s.trig (dfld p.slot 16 0 16) 0 + 2 ^ 32 - dfld p.slot 20 0 32) % 2 ^ 32) →
    releasePairs s = s) ∧
  (∀ (s : State) (qp : Nat) (d work : Line),
    wfQp qp = false →
    exec (.nop qp d) s = .refused .illFormed ∧ exec (.recv qp d) s = .refused .illFormed ∧ exec (.triggered qp d work) s = .refused .illFormed)

/-- QP_CREATE, QP_DESTROY, QP_MODIFY and the region commands: acceptance, effect and completion (R97, R99, R100, R103, R104, R135). QP_CREATE for a function in a domain takes the lowest free number of the domain's pool (the model's choice, log 112), makes a QP in RESET there, its context on die where room is, and completes with the number. QP_DESTROY removes a QP in RESET and completes; in another state it fails with reason 2. QP_MODIFY with no reason against it joins the commands that wait for the next tick, completing nothing yet. SQD_DRAIN_DONE completes the waiting command once everything sent is acknowledged, and QP_CONTEXT_LOADED ends the load of a context: what waited for it goes on in order of arrival, at once where fewer than 16,384 others are on die. REGION_INVALIDATE makes the key invalid at once, keeping the command; REGION_INVALIDATE_DONE removes an unpinned region nothing holds and completes the command. -/
def Obligations.QueuePairCommands : Prop :=
  (∀ (s : State) (d : Line) (dom : Nat) (c : Domain) (n : Nat),
    s.MgrReady →
    dfld d 16 0 16 ≤ 512 →
    fnDom s (dfld d 16 0 16) = some dom →
    getDom s dom = some c →
    (n = freeFrom (fun n => (getQp s n).isSome) s.qps.length (max 1 c.cfg.qpBase)) →
    n < min (c.cfg.qpBase + c.cfg.qpCount) (2 ^ 20) →
    exec (.qpCreate d) s = .next (commitNow s (mgrOk { takeHanded s .mgrSq d with
        qps := tput s.qps n { Qp.new (dfld d 16 0 16) with cached := decide ((cachedQps s).length < 16384) } } d n))) ∧
  (∀ (s : State) (d : Line) (q : Qp),
    s.MgrReady →
    getQp s (dfld d 16 0 20) = some q →
    exec (.qpDestroy d) s = .next (commitNow s (if q.state = .reset then
        mgrOk (forgetFetches (forgetFetches { takeHanded s .mgrSq d with qps := tdel s.qps (dfld d 16 0 20) } (.sq (dfld d 16 0 20))) (.rq (dfld d 16 0 20))) d else mgrFail (takeHanded s .mgrSq d) d 2))) ∧
  (∀ (s : State) (d : Line) (q : Qp),
    s.MgrReady →
    getQp s (dfld d 16 0 20) = some q →
    exec (.qpModify d) s = .next (commitNow s (if modifyReason s q d = 0 then
        { takeHanded s .mgrSq d with qpNext := s.qpNext ++ [(dfld d 16 0 20, d)] }
      else mgrFail (takeHanded s .mgrSq d) d (modifyReason s q d)))) ∧
  (∀ (s : State) (qp : Nat) (q : Qp) (d : Line),
    s.Ready →
    wfQp qp = true →
    getQp s qp = some q →
    q.sqdWait = some d →
    sqdDrained q = true →
    exec (.sqdDrainDone qp) s = .next (commitNow s (mgrOk (modQp s qp fun q => { q with sqdWait := none }) d))) ∧
  (∀ (s : State) (qp : Nat) (q : Qp),
    s.Ready →
    wfQp qp = true →
    getQp s qp = some q →
    q.cached = false →
    q.loading.isSome = true →
    (cachedQps s).length < 16384 →
    exec (.qpContextLoaded qp) s = .next (commitNow s (q.ctxWait.foldl (fun s x => takeWork s qp x)
        (modQp s qp fun q => { q with cached := true, loading := none, ctxWait := [] })))) ∧
  (∀ (s : State) (d : Line) (i : Nat) (r : Region),
    s.MgrReady →
    regionOf s (dfld d 16 0 32) = some (i, r) →
    exec (.regionInvalidate d) s = .next { takeHanded s .mgrSq d with
        regions := tupd s.regions i fun r => { r with valid := false, waiting := some d } }) ∧
  (∀ (s : State) (key : Nat) (r : Region) (d : Line),
    s.Ready →
    s.regions.lookup (key / 256) = some r →
    r.valid = false →
    r.gen = key % 256 →
    regionHeld s (key / 256) = false →
    r.pinned = false →
    r.waiting = some d →
    exec (.regionInvalidateDone key) s = .next (commitNow s (mgrOk { s with regions := tdel s.regions (key / 256) } d))) ∧
  (∀ (s : State) (d : Line) (pins : List Pin) (c : Nat) (ctx : Ctx) (dom : Domain) (i : Nat),
    s.MgrReady →
    dfld d 32 0 16 ≤ 512 →
    fnDom s (dfld d 32 0 16) = some c →
    s.xl.ctxs.lookup (dfld d 34 0 12) = some ctx →
    ctx.dom = c →
    getDom s c = some dom →
    dfld d 16 0 57 % 4096 = 0 ∧ dfld d 24 0 48 % 4096 = 0 ∧ dfld d 24 0 48 ≠ 0 →
    ctxCovers s (dfld d 34 0 12) (dfld d 16 0 57) (dfld d 24 0 48) = true →
    (i = freeFrom (fun i => (s.regions.lookup i).isSome) s.regions.length dom.cfg.regionBase) →
    i < dom.cfg.regionBase + dom.cfg.regionCount ∧ i < 262144 →
    dbit d 36 3 = false →
    exec (.regionRegister d pins) s = .next (commitNow s (mgrOk { takeHanded s .mgrSq d with regionGen := tput s.regionGen i (nextGen s i), regions := tput s.regions i { base := dfld d 16 0 57, len := dfld d 24 0 48, fn := dfld d 32 0 16, ctx := dfld d 34 0 12, localWrite := dbit d 36 0, remoteRead := dbit d 36 1, remoteWrite := dbit d 36 2, pinned := (segSpans ctx 17 (dfld d 16 0 57) (dfld d 24 0 48)).all (fun p => p.2.1.target = 1), gen := nextGen s i, valid := true, waiting := none } } d (i * 256 + nextGen s i))))

/-- Arriving head, data, ACK, NAK and SNAK cells of a live queue pair, and the completion of a segment (R18, R116, R118, R120, R121, R122, R123, R124, R125, R130). For a cell with a good CRC from the peer of a live QP with no policing limit, its context on die: a head of a delivered sequence owes an ACK at the cycle's end, unless an SC one that ACK slots answer, and a READ request is served again; a head of the next sequence that passes Table 4.7 with an empty stash appends the admitted segment with the RECVs it reserves and sends nothing. A data cell of a delivered sequence is only counted for the echo; one of an admitted segment is placed at its offset. An ACK, and a SNAK, of a QP that carries no collective are applied to its sender. NAK PAGE_ABSENT opens one more page wait of RNR_DELAY folios; an RNR NAK for an unacknowledged segment with retries left takes one and opens the round; a final NAK ends the QP in ERROR. A cell of a QP whose context is not on die waits for its load behind what waits already. SEGMENT_COMPLETE of a whole, unsealed segment delivers it. -/
def Obligations.TransportCellArrivals : Prop :=
  (∀ (s : State) (via : Via) (cell : Cell) (q : Qp),
    s.Ready →
    cType cell = 1 →
    s.lets cell →
    uncached s (cQp cell) = false →
    getQp s (cQp cell) = some q →
    qpLive q = true →
    fromPeer s q via cell = true →
    classify q (cSeq cell) = .delivered →
    exec (.headCellArrival via cell) s = .next (commitNow s (shadowPump (settle (readAgain
        (if cClass cell = 1 && ackSlots (takeEjected s via cell) (cQp cell) then takeEjected s via cell else oweAck (takeEjected s via cell) (cQp cell))
        (cQp cell) (cSeq cell) cell.payload))))) ∧
  (∀ (s : State) (via : Via) (cell : Cell) (q : Qp) (rs : List Recv),
    s.Ready →
    s.xl.accesses = [] →
    s.cyc.placed = [] →
    cType cell = 1 →
    s.lets cell →
    uncached s (cQp cell) = false →
    getQp s (cQp cell) = some q →
    qpLive q = true →
    fromPeer s q via cell = true →
    classify q (cSeq cell) = .pending →
    cSeq cell = nextAdmit q →
    q.discard = none →
    q.stash = [] →
    hRetx cell.payload = false →
    admitCheck s q (setFld cell.payload 11 1 0) = .ok rs →
    ∃ t, exec (.headCellArrival via cell) s = .next t ∧
      getQp t (cQp cell) = some { q with recvs := q.recvs.drop rs.length, rx := q.rx ++ [{ seq := cSeq cell, head := setFld cell.payload 11 1 0, got := [], recvs := rs, stagedCells := [], writes := 0, delivered := false, opening := false, opened := false, paSent := [], lost := false, sc := decide (cClass cell = 1) }] } ∧
      t.hbm = s.hbm ∧ t.xl = s.xl ∧ t.regions = s.regions ∧ t.latOut = s.latOut ∧ t.macOut = s.macOut ∧ t.outbox = s.outbox ∧ t.time = s.time) ∧
  (∀ (s : State) (via : Via) (cell : Cell) (q : Qp),
    s.Ready →
    s.xl.accesses = [] →
    s.cyc.placed = [] →
    cType cell = 2 →
    s.lets cell →
    uncached s (cQp cell) = false →
    getQp s (cQp cell) = some q →
    qpLive q = true →
    fromPeer s q via cell = true →
    classify q (cSeq cell) = .delivered →
    exec (.dataCellArrival via cell) s = .next (commitNow s (echoCount (takeEjected s via cell) (cQp cell) cell))) ∧
  (∀ (s : State) (via : Via) (cell : Cell) (q : Qp),
    s.Ready →
    cType cell = 2 →
    s.lets cell →
    uncached s (cQp cell) = false →
    getQp s (cQp cell) = some q →
    qpLive q = true →
    fromPeer s q via cell = true →
    classify q (cSeq cell) = .admitted →
    exec (.dataCellArrival via cell) s = .next (commitNow s (shadowPump (settle
        (placeCell (echoCount (takeEjected s via cell) (cQp cell) cell) (cQp cell) (cSeq cell) (cOff cell) cell.payload))))) ∧
  (∀ (s : State) (via : Via) (cell : Cell) (c : Instr),
    s.Ready →
    (cType cell = 1 ∧ c = .headCellArrival via cell) ∨ (cType cell = 2 ∧ c = .dataCellArrival via cell) ∨ (cType cell = 3 ∧ c = .ackCell via cell) ∨ (cType cell = 4 ∧ c = .nakCell via cell) ∨ (cType cell = 5 ∧ c = .snakCell via cell) →
    streamOf s cell = none →
    s.lets cell →
    uncached s (cQp cell) = true →
    exec c s = .next (commitNow s (ctxQueue (takeEjected s via cell) (cQp cell) (.cell via cell)))) ∧
  (∀ (s : State) (via : Via) (cell : Cell) (q : Qp),
    s.Ready →
    cType cell = 3 →
    s.lets cell →
    streamOf s cell = none →
    uncached s (cQp cell) = false →
    getQp s (cQp cell) = some q →
    qpLive q = true →
    fromPeer s q via cell = true →
    exec (.ackCell via cell) s = .next (commitNow s (shadowPump (settle (applyAck (takeEjected s via cell) (cQp cell)
        (dfld cell.payload 0 0 12) (cell.payload.extractLsb' 32 256) (dfld cell.payload 36 0 16) (dfld cell.payload 38 0 16)))))) ∧
  (∀ (s : State) (via : Via) (cell : Cell) (q : Qp),
    s.Ready →
    cType cell = 5 →
    s.lets cell →
    streamOf s cell = none →
    uncached s (cQp cell) = false →
    getQp s (cQp cell) = some q →
    qpLive q = true →
    fromPeer s q via cell = true →
    exec (.snakCell via cell) s = .next (commitNow s (shadowPump (settle
        (applySnak (takeEjected s via cell) (cQp cell) cell.payload s.now))))) ∧
  (∀ (s : State) (via : Via) (cell : Cell) (n : Nat) (q : Qp),
    s.Ready →
    s.xl.accesses = [] →
    cType cell = 4 →
    s.lets cell →
    streamOf s cell = none →
    uncached s (cQp cell) = false →
    nakTarget (takeEjected s via cell) via cell = some n →
    getQp s n = some q →
    dfld cell.payload 0 0 8 = 3 →
    exec (.nakCell via cell) s = .next (modQp (takeEjected s via cell) n fun q =>
        { q with paWaits := q.paWaits ++ [(dfld cell.payload 2 0 12, s.folio + q.rnrDelay)] })) ∧
  (∀ (s : State) (via : Via) (cell : Cell) (n : Nat) (q : Qp),
    s.Ready →
    s.xl.accesses = [] →
    cType cell = 4 →
    s.lets cell →
    streamOf s cell = none →
    uncached s (cQp cell) = false →
    nakTarget (takeEjected s via cell) via cell = some n →
    getQp s n = some q →
    dfld cell.payload 0 0 8 = 1 →
    ((q.tx.any fun t => t.seq = dfld cell.payload 2 0 12 && !t.acked) = true) →
    q.round = none →
    q.rnrMax ≠ 7 →
    0 < q.rnrLeft →
    exec (.nakCell via cell) s = .next (modQp (takeEjected s via cell) n fun q =>
        { q with rnrLeft := q.rnrLeft - 1, round := some (dfld cell.payload 2 0 12, s.folio + q.rnrDelay), roundSeq := some (dfld cell.payload 2 0 12) })) ∧
  (∀ (s : State) (via : Via) (cell : Cell) (n : Nat) (q : Qp),
    s.Ready →
    cType cell = 4 →
    s.lets cell →
    streamOf s cell = none →
    uncached s (cQp cell) = false →
    nakTarget (takeEjected s via cell) via cell = some n →
    getQp s n = some q →
    4 ≤ dfld cell.payload 0 0 8 ∧ dfld cell.payload 0 0 8 ≤ 8 →
    exec (.nakCell via cell) s = .next (commitNow s (settle (finalNak (takeEjected s via cell) n q (dfld cell.payload 0 0 8)
        (dfld cell.payload 2 0 12))))) ∧
  (∀ (s : State) (qp seq : Nat) (q : Qp) (r : RxSeg),
    s.Ready →
    wfQp qp = true →
    getQp s qp = some q →
    q.state ≠ .error →
    ((q.rx.find? fun r => r.seq = seq % 4096) = some r) →
    segWhole r = true →
    hSealed r.head = false →
    exec (.segmentComplete qp seq) s = .next (commitNow s (shadowPump (settle (deliverSeg s qp (seq % 4096))))))

/-- The transport's timers: retransmission, RNR delay and the life of stashed cells (R119, R128, R130, R138). RETX_TIMER_EXPIRY of a QP that carries no collective, for a window that closes before the next tick's cycle, moves the clock to its close; with no EC segment unacknowledged it ends the timer, and with retries left it probes the oldest one sent from, takes a retry and doubles the window up to 64 base times. RNR_DELAY_EXPIRY at or past its folio ends the round and makes every unacknowledged segment from that sequence on be sent again in full. STASH_LIFETIME_EXPIRY drops the cells stashed 64 folios ago or more and counts them, and keeps the others. -/
def Obligations.TransportTimers : Prop :=
  (∀ (s : State) (qp : Nat) (q x : Qp) (o : Gtc) (len : Nat),
    s.running = true →
    wfQp qp = true →
    s.col.comms = [] →
    getQp s qp = some q →
    q.timer = some (o, len) →
    s.Reaches (o + len) →
    getQp (s.goTo (o + len)) qp = some x →
    x.timer = some (o, len) →
    ((x.tx.find? fun t => !t.acked && t.sc.isNone) = none) →
    exec (.retxTimerExpiry qp) s = .next (commit s (modQp (s.goTo (o + len)) qp fun q => { q with timer := none }))) ∧
  (∀ (s : State) (qp : Nat) (q y : Qp) (o : Gtc) (len : Nat) (x : TxSeg),
    s.running = true →
    wfQp qp = true →
    s.col.comms = [] →
    getQp s qp = some q →
    q.timer = some (o, len) →
    s.Reaches (o + len) →
    getQp (s.goTo (o + len)) qp = some y →
    y.timer = some (o, len) →
    ((y.tx.find? fun t => !t.acked && t.sc.isNone) = some x) →
    x.next ≠ 0 →
    y.retryLeft ≠ 0 →
    exec (.retxTimerExpiry qp) s = .next (commit s (modQp (probeSeg (s.goTo (o + len)) qp y x) qp fun q => { q with
        retryLeft := y.retryLeft - 1, timer := some ((s.goTo (o + len)).now, min (2 * len) (64 * y.rtoUs * 16000)) }))) ∧
  (∀ (s : State) (qp : Nat) (q : Qp) (seq k : Nat),
    s.running = true →
    wfQp qp = true →
    s.col.comms = [] →
    getQp s qp = some q →
    q.round = some (seq, k) →
    k ≤ s.folio →
    q.paWaits = [] →
    exec (.rnrDelayExpiry qp) s = .next (commit s (modQp s qp fun q => { q with
        round := none
        tx := q.tx.map (fun t => if !t.acked && seqDist seq t.seq < 2048 && t.next > 0 then { t with next := 0, again := [] } else t) }))) ∧
  (∀ (s : State) (qp : Nat) (q : Qp) (k : Nat),
    s.running = true →
    wfQp qp = true →
    s.col.comms = [] →
    s.xl.accesses = [] →
    getQp s qp = some q →
    least (q.stash.map (·.folio)) = some k →
    k + 64 ≤ s.folio →
    exec (.stashLifetimeExpiry qp) s = .next (commit s (if (q.stash.filter fun c => c.folio + 64 ≤ s.folio).length = 0 then
        modQp s qp (fun q => { q with stash := q.stash.filter fun c => ¬ (c.folio + 64 ≤ s.folio) })
      else bumpDom (modQp s qp fun q => { q with stash := q.stash.filter fun c => ¬ (c.folio + 64 ≤ s.folio) }) (qpDom s q) 10
        (q.stash.filter fun c => c.folio + 64 ≤ s.folio).length)))

/-- LAT_CFG, the route tables and the epoch switch: when each is accepted and what it leaves (R150, R168, R169, R170, R337). A write of LAT_CFG with every lattice port dark stores the five fields; with one not dark it sets CFG_REJECT and changes nothing else. LAT_TABLE_LOAD of a readable, aligned image for the copy that is neither injecting nor live stores all 2048 entries and the TABLE_ID and completes; naming the injection copy or with the old one live it fails with reason 2. LAT_EPOCH_SWITCH with none pending and ks at least 8 ticks on becomes the pending switch, is flooded to every port and completes. A received EPOCH_ANNOUNCE not heard before, with no switch pending, becomes the pending one, late in folio ks - 2 or later, and is flooded to every port but the one it came from; one heard before changes nothing. EPOCH_OLD_RETIRE at or past ks + 4 ends OLD_LIVE, retires the old copy and drops the absorbed cells that name it. -/
def Obligations.LatticeTablesAndEpochs : Prop :=
  (∀ (s : State) (v : W64),
    s.BarReady →
    exec (.latCfgWrite v) s = .next (if (s.lports.all fun p => p.state = 0) then { s with lat := { s.lat with cfg := v &&& 0x3FFFFF } }
      else { mark s 0x140008 4 with lat := { s.lat with cfgReject := true } })) ∧
  (∀ (s : State) (d : Line) (bs : List Byte),
    s.MgrReady →
    dfld d 24 0 1 ≠ s.lat.epoch →
    s.lat.oldUntil = none →
    dfld d 16 0 39 % 64 = 0 →
    domNamed s 64 (dfld d 16 0 39) 2048 = true →
    allocPoison s 64 (dfld d 16 0 39) 2048 = false →
    rdAlloc s 64 (dfld d 16 0 39) 2048 = some bs →
    exec (.latTableLoad d) s = .next (commitNow s (mgrOk { takeHanded s .mgrSq d with lat := { s.lat with
        routes := bs.zipIdx.foldl (fun t e => tput t (e.2 / 1024 * 2048 + dfld d 24 0 1 * 1024 + e.2 % 1024) e.1) s.lat.routes
        tableIds := lmod s.lat.tableIds (dfld d 24 0 1) fun _ => some (dfld d 28 0 32) } } d))) ∧
  (∀ (s : State) (d : Line),
    s.MgrReady →
    dfld d 24 0 1 = s.lat.epoch ∨ s.lat.oldUntil.isSome = true →
    exec (.latTableLoad d) s = .next (commitNow s (mgrFail (takeHanded s .mgrSq d) d 2))) ∧
  (∀ (s : State) (d : Line),
    s.MgrReady →
    s.lat.switch = none →
    s.lat.oldUntil = none →
    s.folio + 8 ≤ dfld d 16 0 64 →
    (2, dfld d 24 0 32, dfld d 16 0 64) ∉ s.lat.seen →
    exec (.latEpochSwitch d) s = .next (commitNow s (mgrOk (floodLink { takeHanded s .mgrSq d with lat := { s.lat with
        switch := some (dfld d 24 0 32, dfld d 16 0 64), seen := (2, dfld d 24 0 32, dfld d 16 0 64) :: s.lat.seen } } none
        (epochPayload (dfld d 24 0 32) (dfld d 16 0 64))) d))) ∧
  (∀ (s : State) (port id ks : Nat),
    s.Ready →
    wfLat port = true →
    (2, id, ks) ∉ s.lat.seen →
    s.lat.switch = none →
    exec (.epochAnnounce port id ks) s = .next (commitNow s (floodLink { s with lat := { s.lat with
        switch := some (id, ks), switchLate := decide (ks ≤ s.folio + 2), seen := (2, id, ks) :: s.lat.seen } } (some port) (epochPayload id ks)))) ∧
  (∀ (s : State) (port id ks : Nat),
    s.Ready →
    wfLat port = true →
    (2, id, ks) ∈ s.lat.seen →
    exec (.epochAnnounce port id ks) s = .next s) ∧
  (∀ (s u : State) (k : Nat),
    s.running = true →
    s.lat.oldUntil = some k →
    k ≤ s.folio →
    u = { s with lat := { s.lat with oldUntil := none, retired := true } } →
    exec .epochOldRetire s = .next (commit s ((u.lat.bufA.filter (fun a => epochDead u a.cell) ++ u.lat.bufB.filter fun a => epochDead u a.cell).foldl
        (fun s a => dropAt s a.port 10 a.cell) { u with lat := { u.lat with
          bufA := u.lat.bufA.filter (fun a => ¬ epochDead u a.cell), bufB := u.lat.bufB.filter fun a => ¬ epochDead u a.cell } })))

/-- What happens to a cell that arrives on a lattice port, to the cells of a cycle as they are assigned, and to absorbed cells as they age (R154, R156, R157, R158, R159, R161, R165, R174). On a live port: a routed cell with a reserved TYPE or CLASS, both casts, or a destination outside the lattice is dropped and counted and nothing else. An EC unicast cell for this adapter is counted and ejected; one in transit whose AGE is 255 is dropped; another waits for the assignment at the end of its cycle. There a unicast one with a valid route entry whose first choice of productive ports has a free slot leaves there; with no productive slot free and another port free it is deflected there, MARKed; with none at all it is absorbed, MARKed, where the buffer has room. A slot taken raises AGE by one, and on a port declared down in the cycle the cell is lost. ABSORPTION_AGEING runs 8 crossbar cycles after the oldest absorbed cell entered and raises the AGE of every cell that has spent that long. LATTICE_INJECTION gives this adapter's cells the slots the routers leave at the end of the cycle, in the order control, SC, new EC cells. -/
def Obligations.LatticeCells : Prop :=
  (∀ (s : State) (p slot : Nat) (c : Cell),
    s.Ready →
    wfLat p = true →
    live s p = true →
    cType c ≠ 0 ∧ cType c ≠ 8 →
    10 ≤ cType c ∨ 2 ≤ cClass c ∨ (cRowCast c = true ∧ cColCast c = true) ∨ dimX s ≤ cDstX c ∨ dimY s ≤ cDstY c →
    exec (.latticeCellArrival p slot c) s = .next (dropAt s p 13 c)) ∧
  (∀ (s : State) (p slot : Nat) (c : Cell),
    s.Ready →
    wfLat p = true →
    live s p = true →
    cType c ≠ 0 ∧ cType c ≠ 8 →
    badHeader s c = false →
    cClass c = 0 →
    epochDead s c = false →
    cDstY c * 32 + cDstX c = myCoord s →
    exec (.latticeCellArrival p slot c) s = .next (commitNow s (eject (bwBytes (bump s (latCnt p 3) 1) p false 64) p c))) ∧
  (∀ (s u : State) (p slot : Nat) (c : Cell),
    s.Ready →
    wfLat p = true →
    live s p = true →
    cType c ≠ 0 ∧ cType c ≠ 8 →
    badHeader s c = false →
    cClass c = 0 →
    epochDead s c = false →
    cDstY c * 32 + cDstX c ≠ myCoord s →
    cRowCast c = false ∧ cColCast c = false →
    u = bwBytes (bump s (latCnt p 3) 1) p false 64 →
    exec (.latticeCellArrival p slot c) s = .next (commitNow s (if cAge c = 255 then dropAt u p 9 c
      else modCyc u fun y => { y with arrivals := y.arrivals ++ [(p, slot, c)] }))) ∧
  (∀ (s : State),
    routeCycle s = modCyc (routePlane (routePlane s 0) 1) (fun c => { c with arrivals := [] }) ∧
      latticeCycle s = (if (routeCycle s).cyc.inject then
        injectLoop 32 16 (injectSc (sendControl (modCyc (routeCycle s) fun c => { c with inject := false }))) [] false else routeCycle s)) ∧
  (∀ (s : State) (pl q j : Nat) (x : Cand),
    cAge x.cell < 255 →
    x.isCast = false →
    routeValid (routeEntry s pl (cEpoch x.cell) (cDstY x.cell * 32 + cDstX x.cell)) = true →
    (productive s pl (cEpoch x.cell) (cDstY x.cell * 32 + cDstX x.cell)).head? = some q →
    live s q = true →
    freeSlot s q = some j →
    assignEc s pl x = sendLat (unheld s pl x) q j x.cell) ∧
  (∀ (s : State) (pl q j : Nat) (x : Cand),
    cAge x.cell < 255 →
    x.isCast = false →
    routeValid (routeEntry s pl (cEpoch x.cell) (cDstY x.cell * 32 + cDstX x.cell)) = true →
    (∀ y, y ∈ productive s pl (cEpoch x.cell) (cDstY x.cell * 32 + cDstX x.cell) → freeSlot s y = none) →
    (((List.range 4).map (pl * 4 + ·)).find? (fun y => live s y && (freeSlot s y).isSome) = some q) →
    freeSlot s q = some j →
    ∃ t, assignEc s pl x = sendLat t q j (marked x.cell) ∧ t.lat = (unheld s pl x).lat ∧ t.outbox = s.outbox ∧ t.time = s.time) ∧
  (∀ (s : State) (pl : Nat) (x : Cand),
    x.held = false →
    (absorbOf s pl).length < 32 →
    ∃ t, noSlot s pl x = setAbsorb t pl (absorbOf s pl ++ [⟨marked x.cell, x.port, s.now⟩]) ∧ t.lat = s.lat ∧ t.outbox = s.outbox ∧ t.time = s.time) ∧
  (∀ (s : State) (p j : Nat) (c : Cell),
    (isFailing s p = true → (sendLat s p j c).outbox = s.outbox) ∧
      (isFailing s p = false → (sendLat s p j c).outbox = s.outbox ++ [.latCell p (depSlot s j).2 { c with hdr := setFld c.hdr 8 8 (cAge c + 1) }])) ∧
  (∀ (s : State) (pl : Nat) (g : Nat),
    s.running = true →
    wfPlane pl = true →
    least ((absorbOf s pl).map (·.at_)) = some g →
    s.Reaches (g + 96) →
    exec (.absorptionAgeing pl) s = .next (commit s (ageAbsorbed (s.goTo (g + 96)) pl))) ∧
  (∀ (s : State),
    s.Ready →
    exec .latticeInjection s = .next { s with cyc := { s.cyc with inject := true } })

/-- SCH_SET_LOAD, SCH_SET_ACTIVATE, SCH_SET_UNLOAD and SCH_FLOW_BIND: acceptance, refusal and effect (R100, R186, R187, R188). SCH_SET_LOAD of a readable aligned image that passes the ten rules of Table 6.8 adds the set, records this adapter's report, tells every adapter and completes; an image that breaks a rule sets LOAD_ERROR with the first rule broken and fails with reason 3. SCH_SET_ACTIVATE of a set every adapter has loaded, with no activation pending and no contingency switch waiting, becomes pending for the least base + n × cycle at or after two ticks on, is announced on every live port and completes; of an absent set, or one not loaded everywhere, it fails with reason 2. SCH_SET_UNLOAD removes a set that is neither active nor pending, fails with reason 1 where it is absent and with reason 2 where it is in use. SCH_FLOW_BIND binds a source flow to an existing QP, unbinds it with QP 0, fails with reason 1 for an absent QP and reason 3 for a flow that is no source flow. -/
def Obligations.GateSetCommands : Prop :=
  (∀ (s : State) (d : Line) (h img : List Byte) (g : GateSet),
    s.MgrReady →
    dfld d 16 0 39 % 64 = 0 →
    rdAlloc s 64 (dfld d 16 0 39) 64 = some h →
    domNamed s 64 (dfld d 16 0 39) 64 = true →
    allocPoison s 64 (dfld d 16 0 39) 64 = false →
    max 64 (imf h 44 0 32) ≤ 2 ^ 28 →
    domNamed s 64 (dfld d 16 0 39) (max 64 (imf h 44 0 32)) = true →
    allocPoison s 64 (dfld d 16 0 39) (max 64 (imf h 44 0 32)) = false →
    rdAlloc s 64 (dfld d 16 0 39) (max 64 (imf h 44 0 32)) = some img →
    validate s img (dfld d 16 0 39) (dfld d 24 0 32) = .ok g →
    leaving s 64 (dfld d 16 0 39) (max 64 (imf h 44 0 32)) = false →
    exec (.schSetLoad d) s = .next (commitNow s (mgrOk (floodLink { takeHanded s .mgrSq d with sched := { s.sched with
          sets := s.sched.sets ++ [g], loadRule := 0, lastLoaded := some (dfld d 24 0 32)
          reports := if s.sched.reports.contains (dfld d 24 0 32, myCoord s) then s.sched.reports
            else (dfld d 24 0 32, myCoord s) :: s.sched.reports } } none (loadedPayload (dfld d 24 0 32) (myCoord s))) d))) ∧
  (∀ (s : State) (d : Line) (h img : List Byte) (r : Nat),
    s.MgrReady →
    dfld d 16 0 39 % 64 = 0 →
    rdAlloc s 64 (dfld d 16 0 39) 64 = some h →
    domNamed s 64 (dfld d 16 0 39) 64 = true →
    allocPoison s 64 (dfld d 16 0 39) 64 = false →
    max 64 (imf h 44 0 32) ≤ 2 ^ 28 →
    domNamed s 64 (dfld d 16 0 39) (max 64 (imf h 44 0 32)) = true →
    allocPoison s 64 (dfld d 16 0 39) (max 64 (imf h 44 0 32)) = false →
    rdAlloc s 64 (dfld d 16 0 39) (max 64 (imf h 44 0 32)) = some img →
    validate s img (dfld d 16 0 39) (dfld d 24 0 32) = .error r →
    exec (.schSetLoad d) s = .next (commitNow s (mgrFail { mark (takeHanded s .mgrSq d) 0x150000 4 with sched := { s.sched with loadError := true, loadRule := r } } d 3))) ∧
  (∀ (s : State) (d : Line) (g : GateSet),
    s.MgrReady →
    (s.sched.sets.find? (fun g => g.id = dfld d 24 0 32) = some g) →
    exec (.schSetActivate d) s = .next (commitNow s (if latticeHas s (dfld d 24 0 32) = true ∧ s.sched.pending = none ∧ switchWaits s = false then
        mgrOk (floodCtl { takeHanded s .mgrSq d with sched := { s.sched with
          pending := some (dfld d 24 0 32, dfld d 16 0 64, g.cycle, startTick (dfld d 16 0 64) g.cycle s.folio) } } none
          (announcePayload 0 (dfld d 24 0 32) (dfld d 16 0 64) g.cycle s.folio)) d
      else mgrFail (takeHanded s .mgrSq d) d 2))) ∧
  (∀ (s : State) (base cycle k : Nat),
    0 < cycle →
    base ≤ startTick base cycle k ∧ k + 2 ≤ startTick base cycle k ∧ (startTick base cycle k - base) % cycle = 0 ∧
      (∀ n, k + 2 ≤ base + n * cycle → startTick base cycle k ≤ base + n * cycle)) ∧
  (∀ (s : State) (d : Line),
    s.MgrReady →
    exec (.schSetUnload d) s = .next (commitNow s (if (s.sched.sets.any fun g => g.id = dfld d 16 0 32) = false then
        mgrFail (takeHanded s .mgrSq d) d 1
      else if s.sched.active = some (dfld d 16 0 32) ∨ s.sched.pending.map (·.1) = some (dfld d 16 0 32) then mgrFail (takeHanded s .mgrSq d) d 2
      else mgrOk { takeHanded s .mgrSq d with sched := { s.sched with
        sets := s.sched.sets.filter fun g => g.id ≠ dfld d 16 0 32
        reports := s.sched.reports.filter fun r => r ≠ (dfld d 16 0 32, myCoord s) } } d))) ∧
  (∀ (s : State) (d : Line),
    s.MgrReady →
    exec (.schFlowBind d) s = .next (commitNow s (if dfld d 20 0 20 ≠ 0 ∧ getQp s (dfld d 20 0 20) = none then mgrFail (takeHanded s .mgrSq d) d 1
      else if sourceFlow s (dfld d 16 0 16) = false then mgrFail (takeHanded s .mgrSq d) d 3
      else mgrOk { takeHanded s .mgrSq d with sched := { s.sched with binds := if dfld d 20 0 20 = 0 then tdel s.sched.binds (dfld d 16 0 16) else tput s.sched.binds (dfld d 16 0 16) (dfld d 20 0 20) } } d)))

/-- Set announcements, SET_LOADED reports, failure notices and the promise's check tick (R187, R188, R192, R193, R194, R195). With no activation pending, a SET_ANNOUNCEMENT of a set not already started there makes it pending for its start tick and floods it to every live port but the one it came from. SET_LOADED not yet known is recorded and flooded; a known one changes nothing. A FAILURE_NOTICE of KIND 1 not recorded before, for a link no port of this adapter serves, is recorded, flooded with its hop count raised, and freezes the source flows that cross the link; a recorded one changes nothing. PROMISE_CHECK_TICK, with no communicator and one SC message of the flow past its check tick, makes that message DEADLINE_MISSED and sends the rest of it elastically. -/
def Obligations.GateSetPayloads : Prop :=
  (∀ (s : State) (port id base cycle k : Nat),
    s.Ready →
    wfLat port = true →
    s.sched.pending = none →
    s.sched.active ≠ some id ∨ s.sched.activeFrom ≠ startTick base cycle k →
    exec (.setAnnouncement port id base cycle k) s = .next (floodCtl { s with sched := { s.sched with
        pending := some (id, base, cycle, startTick base cycle k) } } (some port) (announcePayload 1 id base cycle k))) ∧
  (∀ (s : State) (port id coord : Nat),
    s.Ready →
    wfLat port = true →
    exec (.setLoaded port id coord) s = .next (if s.sched.reports.contains (id, coord) then s else
        floodLink { s with sched := { s.sched with reports := (id, coord) :: s.sched.reports } } (some port) (loadedPayload id coord))) ∧
  (∀ (s u : State) (port : Nat) (p : Line) (n : Notice),
    s.Ready →
    wfLat port = true →
    dfld p 0 0 8 = 1 →
    n = ⟨dfld p 2 0 12, dfld p 2 12 4, dfld p 4 0 32, dfld p 8 0 64⟩ →
    (∀ q, q < 8 → linkOf s q ≠ n.link) →
    ((s.sched.notices.any fun x => x.link = n.link && x.stamp = n.stamp) = false) →
    s.sched.covered.contains n.link = false →
    u = floodCtl { s with sched := { s.sched with notices := s.sched.notices ++ [n] } } (some port) (noticePayload (dfld p 1 0 8 + 1) n) →
    exec (.failureNotice port p) s = .next { u with sched := { u.sched with
        frozen := (s.sched.frozen ++ ((crossing s n.link).filter (sourceFlow s)).filter fun f => ¬ s.sched.voids.contains f).eraseDups } }) ∧
  (∀ (s : State) (port : Nat) (p : Line),
    s.Ready →
    wfLat port = true →
    dfld p 0 0 8 = 1 →
    (∀ q, q < 8 → linkOf s q ≠ dfld p 2 0 12) →
    ((s.sched.notices.any fun x => x.link = dfld p 2 0 12 && x.stamp = dfld p 8 0 64) = true) →
    exec (.failureNotice port p) s = .next s) ∧
  (∀ (s : State) (f k : Nat),
    s.running = true →
    least (promiseTicks s f) = some k →
    k ≤ s.folio →
    exec (.promiseCheckTick f) s = .next (commit s (streamCheck (promiseCheck s f) f))) ∧
  (∀ (s : State) (f n : Nat) (q : Qp) (o : SendOp),
    s.col.comms = [] →
    s.qps = [(n, q)] →
    ((q.ops.filter fun o => dSc o.desc && dScFlow o.desc = f && !o.late && o.phase = .sending && (match o.sc with | some (ta, m) => decide (ta + m + 5 ≤ s.folio) | none => false)) = [o]) →
    streamCheck (promiseCheck s f) f = streamCheck (toEc s n o.idx true) f)

/-- COUNTER_RESET, COMM_CREATE and COMM_DESTROY: acceptance, refusal and effect (R100, R226, R228, R230). COUNTER_RESET for a function in a domain, of counters inside that domain's range or of none, takes every named counter back to 0, releases the pairs that this satisfies and completes; for another function or range it fails with reason 1. COMM_CREATE of a free number on a COLLECTIVE QP of that function in INIT that no communicator uses, with fields in range, members that hold this adapter and no coordinate twice, and within the slot and communicator quotas, adds the communicator and completes; a QP that is absent, of another type or not in INIT gives reason 1, a number or QP in use reason 2. COMM_DESTROY of an absent communicator fails with reason 1, of one whose QP is in neither RESET nor ERROR with reason 2; otherwise it removes it, hands its dedicated slots back at the next tick and completes. -/
def Obligations.CollectiveCommands : Prop :=
  (∀ (s : State) (d : Line) (c : Nat) (dom : Domain),
    s.MgrReady →
    dfld d 16 0 16 ≤ 512 →
    fnDom s (dfld d 16 0 16) = some c →
    getDom s c = some dom →
    dfld d 20 0 16 = 0 ∨ (dom.cfg.trigBase ≤ dfld d 18 0 16 ∧ dfld d 18 0 16 + dfld d 20 0 16 ≤ dom.cfg.trigBase + dom.cfg.trigCount) →
    exec (.counterReset d) s = .next (commitNow s (mgrOk (releasePairs { takeHanded s .mgrSq d with
        trig := s.trig.filter fun e => !(dfld d 18 0 16 ≤ e.1 && e.1 < dfld d 18 0 16 + dfld d 20 0 16) }) d))) ∧
  (∀ (s : State) (d : Line),
    s.MgrReady →
    dfld d 16 0 16 > 512 ∨ (fnDom s (dfld d 16 0 16)).bind (getDom s) = none →
    exec (.counterReset d) s = .next (commitNow s (mgrFail (takeHanded s .mgrSq d) d 1))) ∧
  (∀ (s : State) (d : Line) (q : Qp) (dom : Nat) (cfg : Domain) (l : List Nat) (m : Comm),
    s.MgrReady →
    getQp s (dfld d 20 0 20) = some q →
    q.type = 2 ∧ q.state = .init ∧ q.fn = dfld d 18 0 16 →
    fnDom s (dfld d 18 0 16) = some dom →
    getDom s dom = some cfg →
    getComm s (dfld d 16 0 16) = none →
    ((s.col.comms.any fun e => e.2.qp = dfld d 20 0 20) = false) →
    ((dfld d 24 0 2 = 0 ∧ l = []) ∨ (dfld d 24 0 2 = 1 ∧ 1 ≤ dfld d 40 0 7 ∧ dfld d 40 0 7 ≤ 64 ∧ listMembers s dom (dfld d 32 0 39) (dfld d 40 0 7) = some l ∧ l.eraseDups.length = dfld d 40 0 7 ∧ (l.all fun c => c % 32 < dimX s && c / 32 < dimY s) = true)) →
    m = { fn := dfld d 18 0 16, qp := dfld d 20 0 20, isList := dfld d 24 0 2 = 1, sched := dbit d 24 2, slots := dfld d 25 0 8, shared := if dfld d 25 0 8 = 0 then dfld d 26 0 8 else 0, x0 := dfld d 28 0 5, y0 := dfld d 28 5 5, xc := dfld d 28 10 5 + 1, yc := dfld d 28 15 5 + 1, coords := l, waitUs := max 1 (dfld d 44 0 32), flowMap := dfld d 48 0 39, listAddr := dfld d 32 0 39, nextSeq := 0, begun := false, run := [], stash := [], aborted := [], notice := none } →
    (m.slots ≤ 64 ∧ (m.slots = 0 → 1 ≤ m.shared ∧ m.shared ≤ 64)) →
    (m.isList = false → m.xc ≤ dimX s ∧ m.yc ≤ dimY s ∧ m.x0 < dimX s ∧ m.y0 < dimY s) →
    (m.sched = true → domNamed s dom m.flowMap 32768 = true ∧ allocPoison s dom m.flowMap 32768 = false ∧ leaving s dom m.flowMap 32768 = false) →
    (m.isList = true → leaving s dom m.listAddr (2 * dfld d 40 0 7) = false) →
    (coordRank s m (myCoord s)).isSome = true →
    slotsReserved s dom + m.slots ≤ cfg.cfg.slotQuota ∧ commCount s dom < cfg.cfg.commQuota ∧ s.col.comms.length < 4096 ∧ m.slots ≤ sharedFree s →
    exec (.commCreate d) s = .next (commitNow s (mgrOk { takeHanded s .mgrSq d with col := { s.col with comms := tput s.col.comms (dfld d 16 0 16) m } } d))) ∧
  (∀ (s : State) (d : Line) (q : Qp),
    s.MgrReady →
    getQp s (dfld d 20 0 20) = some q →
    fnDom s (dfld d 18 0 16) ≠ none →
    q.type ≠ 2 ∨ q.state ≠ .init ∨ q.fn ≠ dfld d 18 0 16 →
    exec (.commCreate d) s = .next (commitNow s (mgrFail (takeHanded s .mgrSq d) d 1))) ∧
  (∀ (s : State) (d : Line),
    s.MgrReady →
    getComm s (dfld d 16 0 16) = none →
    exec (.commDestroy d) s = .next (commitNow s (mgrFail (takeHanded s .mgrSq d) d 1))) ∧
  (∀ (s : State) (d : Line) (m : Comm) (q : Qp),
    s.MgrReady →
    getComm s (dfld d 16 0 16) = some m →
    getQp s m.qp = some q →
    s.xl.accesses = [] →
    s.xl.faults = [] →
    exec (.commDestroy d) s = .next (commitNow s (if q.state = .reset ∨ q.state = .error then
        mgrOk { takeHanded s .mgrSq d with col := { s.col with
          comms := tdel s.col.comms (dfld d 16 0 16), fifo := s.col.fifo.filter fun x => x.1 ≠ dfld d 16 0 16,
          back := if m.slots = 0 then s.col.back else s.col.back ++ [(commDom s m, m.slots)] } } d
      else mgrFail (takeHanded s .mgrSq d) d 2)))

/-- SCALE, RED, ABORT and SUSPENDED cells of a communicator (R18, R235, R245, R247, R249, R250). For a good cell no policer counts, from a member of an existing communicator that sends this one that stage, its QP live, with no access in progress: a SCALE or RED cell of a collective that has started here is taken into its stream; of one that waits for its slots, or is still to be admitted, it is stashed where the stash has room; of one already ended it is acknowledged; of one this member aborted it is answered by ABORT. An ABORT of a running collective takes it off the communicator and completes its descriptor NO_SLOT, REMOTE_ACCESS or ABORTED; of one not admitted yet it is remembered. SUSPENDED posts the event with the sender's values. A cell for an absent communicator is dropped and counted. -/
def Obligations.CollectiveCells : Prop :=
  (∀ (s : State) (x : Cell) (m : Comm) (r : Nat) (c : Coll) (i : Instr),
    s.Ready →
    s.xl.accesses = [] →
    (i = .scaleCellArrival x ∧ cType x = 7 ∧ cQp x / 65536 < 4) ∨ (i = .redCellArrival x ∧ cType x = 6 ∧ 4 ≤ cQp x / 65536 ∧ cQp x / 65536 < 10) →
    s.lets x →
    getComm s (cQp x % 65536) = some m →
    coordRank s m (cSrc x) = some r →
    stagePath m (cQp x / 65536) r (myRank s m) = true →
    (getQp s m.qp).map qpLive = some true →
    (m.run.find? (fun c => c.seq % 256 = cSeq x / 16) = some c) →
    c.started = true →
    exec i s = .next (commitNow s (shadowPump (settle (collCollect (collCell (takeEjected s .lattice x) (cQp x % 65536) c.idx (cQp x / 65536) r x)))))) ∧
  (∀ (s : State) (x : Cell) (m : Comm) (r : Nat) (i : Instr),
    s.Ready →
    s.xl.accesses = [] →
    (i = .scaleCellArrival x ∧ cType x = 7 ∧ cQp x / 65536 < 4) ∨ (i = .redCellArrival x ∧ cType x = 6 ∧ 4 ≤ cQp x / 65536 ∧ cQp x / 65536 < 10) →
    s.lets x →
    getComm s (cQp x % 65536) = some m →
    coordRank s m (cSrc x) = some r →
    stagePath m (cQp x / 65536) r (myRank s m) = true →
    (getQp s m.qp).map qpLive = some true →
    (m.run.find? (fun c => c.seq % 256 = cSeq x / 16) = none) →
    (m.aborted.find? (fun a => a.1 % 256 = cSeq x / 16 && a.2.2.2) = none) →
    exec i s = .next (commitNow s (shadowPump (settle (collCollect (if m.passed (cSeq x / 16) then ackStream (takeEjected s .lattice x) m.qp x
      else notStarted (takeEjected s .lattice x) m (cQp x % 65536) x)))))) ∧
  (∀ (s : State) (x : Cell) (m : Comm) (dom : Domain),
    cOff x ≠ 0xFFFF →
    getDom s (commDom s m) = some dom →
    stashUse s (commDom s m) < dom.cfg.stashMib * 8192 →
    getComm s (cQp x % 65536) = some m →
    ∃ t : State, notStarted s m (cQp x % 65536) x = { t with col := { s.col with comms := tupd s.col.comms (cQp x % 65536) fun m => { m with stash := m.stash ++ [(x, s.folio)] } } } ∧
      t.qps = s.qps ∧ t.outbox = s.outbox ∧ t.latOut = s.latOut) ∧
  (∀ (s : State) (x : Cell) (m : Comm) (r : Nat) (c : Coll),
    s.Ready →
    s.xl.accesses = [] →
    cType x = 6 ∧ cQp x / 65536 = 11 →
    s.lets x →
    getComm s (cQp x % 65536) = some m →
    coordRank s m (cSrc x) = some r →
    stagePath m (cQp x / 65536) r (myRank s m) = true →
    (getQp s m.qp).map qpLive = some true →
    (m.run.find? (fun c => c.seq = dfld x.payload 2 0 16) = some c) →
    exec (.abortCellArrival x) s = .next (commitNow s (shadowPump (settle (collCollect (endDesc (modComm
        (leaveColl (takeEjected s .lattice x) (cQp x % 65536) c.idx) (cQp x % 65536) fun m => { m with aborted := m.aborted ++
          [(dfld x.payload 2 0 16, if dfld x.payload 0 0 8 = 9 ∨ dfld x.payload 0 0 8 = 2 then dfld x.payload 0 0 8 else 0xD, 0, false)] })
        m.qp c.idx (if dfld x.payload 0 0 8 = 9 ∨ dfld x.payload 0 0 8 = 2 then dfld x.payload 0 0 8 else 0xD))))))) ∧
  (∀ (s : State) (x : Cell) (m : Comm) (r : Nat),
    s.Ready →
    s.xl.accesses = [] →
    cType x = 6 ∧ cQp x / 65536 = 11 →
    s.lets x →
    getComm s (cQp x % 65536) = some m →
    coordRank s m (cSrc x) = some r →
    stagePath m (cQp x / 65536) r (myRank s m) = true →
    (getQp s m.qp).map qpLive = some true →
    (m.run.find? (fun c => c.seq = dfld x.payload 2 0 16) = none) →
    (dfld x.payload 2 0 16 + 65536 - m.nextSeq) % 65536 < 32768 →
    ((m.aborted.any fun a => a.1 = dfld x.payload 2 0 16) = false) →
    exec (.abortCellArrival x) s = .next (commitNow s (shadowPump (modComm (takeEjected s .lattice x) (cQp x % 65536) fun m => { m with
        aborted := m.aborted ++ [(dfld x.payload 2 0 16, if dfld x.payload 0 0 8 = 9 ∨ dfld x.payload 0 0 8 = 2 then dfld x.payload 0 0 8 else 0xD, 0, false)],
        stash := m.stash.filter fun y => cSeq y.1 / 16 ≠ dfld x.payload 2 0 16 % 256 })))) ∧
  (∀ (s : State) (x : Cell) (m : Comm) (r : Nat),
    s.Ready →
    s.xl.accesses = [] →
    cType x = 6 ∧ cQp x / 65536 = 12 →
    s.lets x →
    getComm s (cQp x % 65536) = some m →
    coordRank s m (cSrc x) = some r →
    stagePath m (cQp x / 65536) r (myRank s m) = true →
    (getQp s m.qp).map qpLive = some true →
    exec (.suspendedCellArrival x) s = .next (commitNow s (shadowPump (settle (collCollect
        (postEvent (takeEjected s .lattice x) m.fn 0x06 (fnSource m.fn) (carrelField (commDom s m)) (cQp x % 65536)
          (evData [(20, 16, dfld x.payload 0 0 16), (22, 10, dfld x.payload 2 0 10), (24, 64, dfld x.payload 8 0 64)]))))))) ∧
  (∀ (s : State) (x : Cell) (i : Instr),
    s.Ready →
    (i = .scaleCellArrival x ∧ cType x = 7) ∨ ((i = .redCellArrival x ∨ i = .abortCellArrival x ∨ i = .suspendedCellArrival x) ∧ cType x = 6) →
    s.lets x →
    getComm s (cQp x % 65536) = none →
    exec i s = .next (dropCell (takeEjected s .lattice x) 0x3FF none x))

/-- Stages of a collective, the shared pool's grant and the waits of a collective (R238, R243, R244, R249). COLLECTIVE_STAGE_START in a carrel that is not suspended starts the stage of the first running collective and round whose start condition holds, and does nothing where none does or the communicator is absent. SHARED_SLOT_GRANT gives the head of the FIFO its slots when they are free, starting its collective, and leaves it waiting otherwise. SLOT_WAIT_EXPIRY moves the clock to the close of the wait and ends the collective NO_SLOT. SUSPENSION_NOTICE_EXPIRY of a suspended carrel at the close of its window sends SUSPENDED to every other member and closes the window. -/
def Obligations.CollectiveProgress : Prop :=
  (∀ (s : State) (comm st : Nat),
    s.Ready →
    stageNext s comm st = none →
    exec (.collectiveStageStart comm st) s = .next s) ∧
  (∀ (s : State) (comm st i n : Nat),
    s.Ready →
    stageNext s comm st = some (i, n) →
    exec (.collectiveStageStart comm st) s = .next (commitNow s (startStage s comm i st n))) ∧
  (∀ (s : State) (comm st : Nat) (m : Comm) (d : Domain),
    getComm s comm = some m →
    getDom s (commDom s m) = some d →
    stageNext s comm st = (if d.suspended then none else
        m.run.findSome? fun c => ((List.range (rounds m c)).find? fun n => canStart m c st n (myRank s m)).map fun n => (c.idx, n))) ∧
  (∀ (s : State) (comm i : Nat) (rest : List (Nat × Nat)) (m : Comm) (c : Coll),
    s.Ready →
    s.col.fifo = (comm, i) :: rest →
    getColl s comm i = some (m, c) →
    exec .sharedSlotGrant s = .next (commitNow s (if m.shared ≤ sharedFree s then
        beginColl (modColl { s with col := { s.col with fifo := rest } } comm i fun c => { c with waits := none, granted := m.shared }) comm i
      else s))) ∧
  (∀ (s : State) (comm : Nat) (m : Comm) (c : Coll) (o : Gtc),
    s.running = true →
    getComm s comm = some m →
    (m.run.find? (fun c => c.waits.isSome) = some c) →
    (m.run.find? (fun x => x.idx = c.idx) = some c) →
    c.waits = some o →
    s.Reaches (o + m.waitUs * 16000) →
    exec (.slotWaitExpiry comm) s = .next (commit s (slotWaitClose (s.goTo (o + m.waitUs * 16000)) comm c.idx))) ∧
  (∀ (s : State) (comm i : Nat),
    slotWaitClose s comm i = collFail (mark { s with col := { s.col with noSlotSeen := true } } 0x1C0000 40) comm i 9) ∧
  (∀ (s : State) (comm k : Nat) (m : Comm) (d : Domain),
    s.running = true →
    getComm s comm = some m →
    m.notice = some k →
    k ≤ s.folio →
    getDom s (commDom s m) = some d →
    d.suspended = true →
    exec (.suspensionNoticeExpiry comm) s = .next (commit s (modComm (pushNotices s m
        (((List.range m.size).filter (· ≠ myRank s m)).map fun r =>
          suspendedCell s comm (((m.run.head?).map Coll.seq).getD m.nextSeq) (rankCoord s m r) (d.suspendedAt * s.F)))
        comm fun m => { m with notice := none })))

/-- The CRC of "123456789" under the twelve fixed parameter sets is the check value of Table 10.4 (R289, R290). Running the nine ASCII bytes 0x31 to 0x39 through the parameter model of R289 with each of the fixed sets 0x0000 to 0x000B gives the check value that Table 10.4 lists, and no other number below 0x10 names a fixed set. -/
def Obligations.CrcFixedSets : Prop :=
  ((List.range 16).map fun n => (fixedSet n).map fun c => crcResult c (crcRun c c.init ((List.range 9).map fun i => BitVec.ofNat 8 (0x31 + i)))) =
        [some 0xE3069283, some 0xCBF43926, some 0xFC891918, some 0x0376E6E7, some 0x995DC9BBDF1939FA, some 0x6C40DF5F0B497347, some 0xBB3D,
         some 0x29B1, some 0x2189, some 0xD0DB, some 0xF4, some 0x21CF02, none, none, none, none]

/-- ENGINE_JOB's admission and refusals, and what ENGINE_JOB_COMPLETE leaves (R100, R254, R256, R257, R259, R292). ENGINE_JOB of a kind with a working engine and a weight, for a function in a domain, with fields and ranges that pass and a job context free, adds the job as the newest one and completes nothing yet; a CRC starts from its set's INIT or the resumed record. A function in no domain gives reason 1, no engine or weight reason 2, bad fields or ranges reason 3, no context reason 4. ENGINE_JOB_COMPLETE of a job on HBM whose steps have all run and which asks the host for no line writes the output of its operation at its destination, takes the job away and completes the command with the operation's status and the bytes written; of a MOV job with every line committed and visible it completes with SUCCESS, or POISON, and the length. -/
def Obligations.EngineJobCommands : Prop :=
  (∀ (s : State) (d : Line) (dom : Nat) (j : Job),
    s.MgrReady →
    dfld d 20 0 16 ≤ 512 →
    fnDom s (dfld d 20 0 16) = some dom →
    dfld d 16 0 8 ≤ 5 ∧ dfld d 16 0 8 ≠ 4 →
    (dfld d 16 0 8 = 5 → (s.xl.ctxs.lookup (dfld d 56 0 12)).isSome = true ∧ (dfld d 17 0 8 = 2 ∨ (s.xl.ctxs.lookup (dfld d 22 0 12)).isSome = true)) →
    working s (dfld d 16 0 8) ≠ [] →
    weightOf s dom (dfld d 16 0 8) ≠ 0 →
    jobOf s d dom = some j →
    opFieldsOk s j = true →
    (if dfld d 16 0 8 = 5 then movRangesOk s j else hbmRangesOk s j) = true →
    exec (.engineJob d) s = .next (commitNow s (if jobFree s dom then
        { takeHanded s .mgrSq d with
          zoo := { s.zoo with jobs := tput s.zoo.jobs s.zoo.nextJob j, nextJob := s.zoo.nextJob + 1 }
          cyc := { s.cyc with newJobs := s.cyc.newJobs ++ [s.zoo.nextJob] } }
      else mgrFail (takeHanded s .mgrSq d) d 4))) ∧
  (∀ (s : State) (d : Line),
    s.MgrReady →
    512 < dfld d 20 0 16 ∨ fnDom s (dfld d 20 0 16) = none →
    exec (.engineJob d) s = .next (commitNow s (mgrFail (takeHanded s .mgrSq d) d 1))) ∧
  (∀ (s : State) (d : Line) (dom : Nat) (j : Job),
    s.MgrReady →
    dfld d 20 0 16 ≤ 512 →
    fnDom s (dfld d 20 0 16) = some dom →
    dfld d 16 0 8 = 4 →
    working s 4 ≠ [] ∧ weightOf s dom 4 ≠ 0 →
    jobOf s d dom = some j →
    opFieldsOk s j = true ∧ hbmRangesOk s j = true →
    exec (.engineJob d) s = .next (commitNow s (match crcResume s j with
        | none => mgrFail (takeHanded s .mgrSq d) d 3
        | some (v, b) => if jobFree s dom then { takeHanded s .mgrSq d with zoo := { s.zoo with
            jobs := tput s.zoo.jobs s.zoo.nextJob { j with v0 := v, bytes0 := b }, nextJob := s.zoo.nextJob + 1 }, cyc := { s.cyc with newJobs := s.cyc.newJobs ++ [s.zoo.nextJob] } }
          else mgrFail (takeHanded s .mgrSq d) d 4))) ∧
  (∀ (s t : State) (id e : Nat) (j : Job) (imgs : List (List Byte × List (Nat × Nat))) (d : Line) (out : JobOut),
    s.Ready →
    getJob s id = some j →
    j.coll = none ∧ j.gcm = none ∧ j.chain = none →
    j.kind ≠ 5 →
    j.cmd = some d →
    j.fin = true ∨ stepCount j = 0 ∨ reached s j = stepCount j →
    jobAsks s id = false →
    jobImages s j = some imgs →
    out = jobResult s j imgs →
    [0, 0xA, 0xB].contains out.status = true →
    out.bytes.length ≤ maxOut j →
    e = ((j.pieces.getLast?).map (·.1)).getD (j.engine.getD 0) →
    (writeSteps (countErrors (countSteps s j e j.done (stepCount j)) j e imgs) id j out (if stepCount j = 0 then [[(0, out.bytes.length)]] else (List.range (stepCount j - j.done)).map fun i => stepRanges j (stepCount j) (j.done + i) out.bytes.length) = (t, true)) →
    exec (.engineJobComplete id) s = .next (commitNow s (mgrDone (dropEngineJob t id) d out.status out.bytes.length))) ∧
  (∀ (s : State) (id : Nat) (j : Job) (d : Line),
    s.Ready →
    getJob s id = some j →
    j.kind = 5 →
    j.coll = none →
    j.cmd = some d →
    j.pieces = [] →
    j.done = stepCount j →
    j.writes = 0 →
    j.ended = none →
    s.xl.accesses = [] →
    exec (.engineJobComplete id) s = .next (commitNow s (mgrDone (dropEngineJob (countSteps s j (j.engine.getD 0) j.done j.done) id) d
        (if j.poison then 0xA else 0) j.len)))

/-- Engine check failures, unfencing, self-tests, a MOV line's data and scrub reads (R265, R271, R272, R273, R276, R279, R513). A check failure of a working engine sets its ENG_FENCED bit, takes from every job of its kind the pieces that run or are to run on it, counts the fence, leaves a codex record and reports it; with no job hit on two engines no job ends. ENGINE_UNFENCE of a fenced engine starts its self-test, completing nothing; of a working one it fails with reason 2. ENGINE_SELFTEST_END at or past two ticks after the acceptance returns a passed engine to service and completes; a failed one stays fenced and the command fails with reason 2; before that tick the result is kept. MOV_READ_RETURN for a destination line that waits puts the bytes into the job's line buffer. A scrub read with the scrubber on counts the line; a corrected one is counted and reported; an uncorrectable one poisons the line, once. A line past 288 GiB does not exist. -/
def Obligations.EnginesAndScrubber : Prop :=
  (∀ (s : State) (b : Nat),
    s.Ready →
    wfFence b = true →
    s.zoo.fenced.contains b = false →
    (∀ e, e ∈ s.zoo.jobs → e.2.hits = []) →
    ∃ t, exec (.engineCheckFailure b) s = .next t ∧ t.zoo.fenced = b :: s.zoo.fenced ∧ t.zoo.jobs.map (·.1) = s.zoo.jobs.map (·.1) ∧
      (∀ e ∈ t.zoo.jobs, e.2.kind = bitKind b → ∀ p ∈ e.2.pieces, p.1 = b - engBase (bitKind b) → p.2.2 ≤ elapsed s) ∧
      (∀ e ∈ s.zoo.jobs, e.2.kind ≠ bitKind b → e ∈ t.zoo.jobs) ∧ t.qps = s.qps ∧ t.xl = s.xl ∧ t.doms = s.doms ∧ t.keys = s.keys) ∧
  (∀ (s : State) (d : Line),
    s.MgrReady →
    exec (.engineUnfence d) s = .next (commitNow s (if dfld d 16 0 8 < 56 ∧ s.zoo.fenced.contains (dfld d 16 0 8) = true then
        { takeHanded s .mgrSq d with zoo := { s.zoo with tests := s.zoo.tests ++ [(dfld d 16 0 8, s.folio, d, none)] } }
      else mgrFail (takeHanded s .mgrSq d) d 2))) ∧
  (∀ (s : State) (b k : Nat) (pass : Bool) (d : Line) (r : Option Bool),
    s.Ready →
    wfFence b = true →
    (s.zoo.tests.find? (fun t => t.1 = b && t.2.1 + 2 ≤ s.folio) = some (b, k, d, r)) →
    exec (.engineSelftestEnd b pass) s = .next (commitNow s (if pass then
        mgrOk { s with zoo := { s.zoo with tests := s.zoo.tests.filter (fun x => x ≠ (b, k, d, r)), fenced := s.zoo.fenced.filter fun x => x ≠ b } } d
      else mgrFail { s with zoo := { s.zoo with tests := s.zoo.tests.filter fun x => x ≠ (b, k, d, r) } } d 2))) ∧
  (∀ (s : State) (b : Nat) (pass : Bool),
    s.Ready →
    wfFence b = true →
    (s.zoo.tests.find? (fun t => t.1 = b && t.2.1 + 2 ≤ s.folio) = none) →
    exec (.engineSelftestEnd b pass) s = .next { s with zoo := { s.zoo with tests := s.zoo.tests.map fun t =>
        if t.1 = b && t.2.1 < s.folio then (t.1, t.2.1, t.2.2.1, some pass) else t } }) ∧
  (∀ (s : State) (id line n : Nat) (data : Line) (p poison : Bool) (j : Job) (bs : List Byte),
    s.Ready →
    s.xl.accesses = [] →
    s.xl.faults = [] →
    getJob s id = some j →
    j.buffer.lookup line = some (bs, n, p) →
    n ≠ 0 →
    exec (.movReadReturn id line data poison) s = .next { s with zoo := { s.zoo with jobs := tupd s.zoo.jobs id fun j => { j with
        buffer := tput j.buffer line ((bytesOf data).take bs.length, 0, p || poison) } } }) ∧
  (∀ (s : State) (l : Nat) (res : ScrubResult),
    s.Ready →
    wfLine l = true →
    bitAt s.zoo.scrubCfg.inForce 8 = true →
    scrubbed s (l / 2 ^ 24) = true →
    ∃ t, exec (.scrubRead l res) s = .next t ∧ t.zoo.scrubLine = l ∧
      t.zoo.corrected = (if res = .corrected then sat (2 ^ 24 - 1) (s.zoo.corrected + 1) else s.zoo.corrected) ∧
      t.zoo.uncorrected = (if res = .uncorrectable ∧ l ∉ s.hbm.poison then sat (2 ^ 16 - 1) (s.zoo.uncorrected + 1) else s.zoo.uncorrected) ∧
      t.zoo.passes = (if l = lastScrubbed s then sat (2 ^ 24 - 1) (s.zoo.passes + 1) else s.zoo.passes) ∧
      t.hbm.poison = (if res = .uncorrectable ∧ l ∉ s.hbm.poison then l :: s.hbm.poison else s.hbm.poison) ∧
      (res ≠ .uncorrectable → t.hbm.cells = s.hbm.cells) ∧ t.qps = s.qps ∧ t.doms = s.doms ∧ t.zoo.fenced = s.zoo.fenced ∧ t.zoo.jobs = s.zoo.jobs) ∧
  (∀ (s : State) (l : Nat) (res : ScrubResult),
    wfLine l = false →
    exec (.scrubRead l res) s = .fault .noSuchMemory)

/-- CHK_SET_DEFINE, the key staging registers and the GO of KEY_LOAD_CTL (R280, R281, R282, R291, R534). CHK_SET_DEFINE is done at the end of its cycle: for a function in a domain, of a set 0x10 to 0x40F with a width of 8 to 64 that every value fits and that no job or descriptor names, it stores the set and completes; an absent function gives reason 1, a bad value reason 3, a set in use reason 2, in that order. A write of KEY_LOAD_DATA lands at the end of its cycle: it places its eight bytes in the staging buffer and sets its DATA_MASK bit. A GO is refused with the first condition of Table 10.2 that holds: the slot is unchanged, LOAD_ERROR and ERROR_CODE say so. A load that passes writes KIND, DU, OWNER, FRESH, key and KCV; a zeroise that passes leaves the slot reading KIND, DU, FRESH and KCV 0. Every GO clears the staging buffer and DATA_MASK, and no other slot changes. -/
def Obligations.CheckSetsAndKeySlots : Prop :=
  (∀ (s : State) (d : Line),
    s.MgrReady →
    exec (.chkSetDefine d) s = .next { takeHanded s .mgrSq d with cyc := { s.cyc with defines := s.cyc.defines ++ [d] } }) ∧
  (∀ (s : State) (d : Line),
    s.cyc.defines = [d] →
    defineCycle s = chkDefine { s with cyc := { s.cyc with defines := [], newJobs := [], newOps := [] } } d) ∧
  (∀ (s : State) (d : Line),
    dfld d 18 0 16 ≤ 512 →
    (fnDom s (dfld d 18 0 16)).isSome = true →
    chkDefine s d = (if 0x10 ≤ dfld d 16 0 16 ∧ dfld d 16 0 16 ≤ 0x40F ∧ 8 ≤ dfld d 20 0 7 ∧ dfld d 20 0 7 ≤ 64 ∧
          dfld d 24 0 64 < 2 ^ dfld d 20 0 7 ∧ dfld d 32 0 64 < 2 ^ dfld d 20 0 7 ∧ dfld d 40 0 64 < 2 ^ dfld d 20 0 7 then
        (if chkBusy s (dfld d 16 0 16) then mgrFail s d 2
         else mgrOk { s with zoo := { s.zoo with chkSets := tput s.zoo.chkSets (dfld d 16 0 16) ⟨dfld d 18 0 16, dfld d 20 0 7, dfld d 24 0 64, dfld d 32 0 64, dbit d 20 7, dbit d 21 0, dfld d 40 0 64, dbit d 21 1⟩ } } d)
      else mgrFail s d 3)) ∧
  (∀ (s : State) (d : Line),
    512 < dfld d 18 0 16 ∨ fnDom s (dfld d 18 0 16) = none →
    chkDefine s d = mgrFail s d 1) ∧
  (∀ (s : State) (i : Nat) (v : W64),
    s.BarReady →
    i < 8 →
    exec (.keyLoadDataWrite i v) s = .next { s with cyc := { s.cyc with staged := s.cyc.staged ++ [(i, v)] } }) ∧
  (∀ (s : State) (i : Nat) (v : W64),
    s.cyc.staged = [(i, v)] →
    s.cyc.unstage = false →
    stageCycle s = { s with cyc := { s.cyc with staged := [], unstage := false }, keyLoad := { s.keyLoad with data := lmod s.keyLoad.data i (fun _ => v), mask := s.keyLoad.mask ||| 2 ^ i } }) ∧
  (∀ (s : State) (v : W64) (load : Bool),
    s.BarReady →
    fld v 40 2 = (if load then 1 else 2) →
    goRefusal s v load ≠ 0 →
    exec (if load then .keyGoLoad v else .keyGoZeroise v) s = .next { mark s 0x1E0008 0 with keyLoad := { s.keyLoad with
        ctl := v &&& 0x3FF1F07FF, data := List.replicate 8 0, mask := 0, error := true, code := goRefusal s v load } }) ∧
  (∀ (s : State) (v : W64) (k : BitVec 512),
    s.BarReady →
    fld v 40 2 = 1 →
    goRefusal s v true = 0 →
    k = (if fld v 16 2 = 1 then stagedKey s else ((stagedKey s).extractLsb' 0 256).setWidth 512) →
    exec (.keyGoLoad v) s = .next { s with
        keys := tput s.keys (fld v 0 11) ⟨fld v 16 2, if fld v 16 2 = 1 then fld v 18 3 else 0, fld v 24 10, k, kcvOf k, false⟩
        keyLoad := { s.keyLoad with ctl := v &&& 0x3FF1F07FF, data := List.replicate 8 0, mask := 0, kcv := kcvOf k } }) ∧
  (∀ (s : State) (v : W64),
    s.BarReady →
    fld v 40 2 = 2 →
    goRefusal s v false = 0 →
    exec (.keyGoZeroise v) s = .next (commitNow s (refuseNew { s with keys := zeroKeys s.keys (fun n _ => n = fld v 0 11), keyLoad := { s.keyLoad with ctl := v &&& 0x3FF1F07FF, data := List.replicate 8 0, mask := 0 } } (fld v 0 11)))) ∧
  (∀ (t : Tbl KeySlot) (n : Nat),
    ((zeroKeys t fun m _ => m = n).lookup n).all (fun k => k.kind = 0 && k.du = 0 && k.kcv = 0 && k.used && k.key = 0) = true ∧
      ∀ m, m ≠ n → (zeroKeys t fun m _ => m = n).lookup m = t.lookup m)

/-- NPT_CFG writes and the bring-up of a near port: from DARK to ACTIVE, timeouts, retries and loss of signal (R301, R302, R320, R321, R323). A write of NPT_CFG with MODE 3, or another MODE while the port is enabled, not dark or in use, sets CFG_REJECT and changes nothing else. One that keeps MODE stores ENABLE: clearing it takes a port that is not dark back to DARK, setting it begins bring-up; RESET_REQ then starts a link reset of an ACTIVE port. An accepted change of MODE waits for the next tick. Signal takes an enabled dark port whose engines are lit to LIGHT, lock takes LIGHT to ALIGN, alignment takes ALIGN to PARAM and sends the first PARAM; an acceptable PARAM is recorded and answered once with an echo, and the port is ACTIVE only once it has the far end's echo. A state's timeout at its close, and loss of signal, take the port to DARK, from ACTIVE with DOWN_SEEN set; 10 ms later a retry may begin. -/
def Obligations.NearPortBringUp : Prop :=
  (∀ (s : State) (n : Nat) (v : W64),
    s.BarReady →
    wfNear n = true →
    (fld v 1 2 = 3 ∨ (fld v 1 2 ≠ (getNear s n).modeNext.getD (getNear s n).mode ∧ ((getNear s n).enable = true ∨ (getNear s n).state ≠ 0 ∨ ringOnNear s n = true ∨ ((getNear s n).windows.all fun w => w.2.len = 0) = false))) →
    ∀ i, i ∈ [Instr.nptEnableWrite n v, .nptModeWrite n v, .nptResetReq n v] → exec i s = .next (modNear (mark s (0x160040 + 8 * n) 4) n fun p => { p with cfgReject := true })) ∧
  (∀ (s : State) (n : Nat) (v : W64),
    s.BarReady →
    wfNear n = true →
    fld v 1 2 ≠ 3 →
    (fld v 1 2 = (getNear s n).modeNext.getD (getNear s n).mode ∨ ((getNear s n).enable = false ∧ (getNear s n).state = 0 ∧ ringOnNear s n = false ∧ ((getNear s n).windows.all fun w => w.2.len = 0) = true)) →
    bitAt v 3 = false →
    ∀ i, i ∈ [Instr.nptEnableWrite n v, .nptModeWrite n v, .nptResetReq n v] → exec i s = .next (commitNow s (
        let u := modNear s n fun p => { p with enable := bitAt v 0, modeNext := if fld v 1 2 = p.mode then none else some (fld v 1 2) }
        if bitAt v 0 = false then (if (getNear s n).state ≠ 0 then nearDark (macsLost u n [0, 1, 2, 3]) n else macsLost u n [0, 1, 2, 3])
        else if (getNear s n).enable = false then modNear u n fun p => { p with since := 0 } else u))) ∧
  (∀ (s : State) (n : Nat) (v : W64),
    s.BarReady →
    wfNear n = true →
    fld v 1 2 = 0 →
    (getNear s n).mode = 0 ∧ (getNear s n).modeNext = none ∧ (getNear s n).enable = true ∧ (getNear s n).state = 4 ∧ (getNear s n).lreset = none →
    bitAt v 0 = true ∧ bitAt v 3 = true →
    (resetWindow (getNear s n).resetTimes s.now).length < 3 →
    exec (.nptResetReq n v) s = .next (emit (bump (modNear s n fun p => { p with enable := true, modeNext := none, resets := sat 255 (p.resets + 1), resetTimes := resetWindow p.resetTimes s.now, waitq := [], lreset := some ⟨s.now, 4, false, false, false, s.now + 192⟩ }) (nearCnt n 12) 1)
        (.nearCell n (zLink 2 4)))) ∧
  (∀ (s : State) (n : Nat),
    s.Ready →
    wfNear n = true →
    (getNear s n).mode = 0 ∧ (getNear s n).enable = true ∧ (getNear s n).state = 0 ∧ (getNear s n).since = 0 →
    nearLit s n = true →
    exec (.nptSignalDetected n) s = .next (modNear s n fun p => { p with state := 1, since := s.now })) ∧
  (∀ (s : State) (n : Nat),
    s.Ready →
    wfNear n = true →
    (getNear s n).state = 1 →
    exec (.nptLanesLocked n) s = 
        .next (modNear (draw s 31).2 n fun p => { p with state := 2, since := s.now, prbs := (draw s 31).1.setWidth 64 <<< 33 })) ∧
  (∀ (s : State) (n : Nat),
    s.Ready →
    wfNear n = true →
    (getNear s n).state = 2 →
    exec (.nptAligned n) s = .next (emit (modNear s n fun p => { p with state := 3, since := s.now, paramRecv := false, echoRecv := false, echoSent := false, paramNext := s.now + 12288 })
        (.nearCell n (zLink 0 (paramPayload false s.now 0 0))))) ∧
  (∀ (s : State) (n : Nat) (c : Cell) (a : Gtc),
    s.Ready →
    wfNear n = true →
    cType c = 0xD →
    (getNear s n).mode = 0 ∧ (getNear s n).state = 3 ∧ (getNear s n).echoRecv = false ∧ (getNear s n).echoSent = false →
    c.crc = crc32c (cellBytes c.hdr c.payload) →
    zOp c = 0 →
    paramOk c.payload = true →
    n < s.near.length →
    ∃ t, exec (.zlinkParam n c a) s = .next t ∧ (dbit c.payload 1 1 = false →
        t = emit (modNear s n fun p => { p with paramRecv := true, scRead := dbit c.payload 1 2, farMax := [dfld c.payload 2 0 16, dfld c.payload 4 0 16, dfld c.payload 6 0 16], tEcho := dfld c.payload 8 0 64, tArrive := a, echoSent := true }) (.nearCell n (zLink 0 (paramPayload true s.now (dfld c.payload 8 0 64) ((s.now - a) / 16))))) ∧
      (dbit c.payload 1 1 = true → (getNear t n).state = 4 ∧ (getNear t n).farMax = [dfld c.payload 2 0 16, dfld c.payload 4 0 16, dfld c.payload 6 0 16] ∧
        (getNear t n).delay = min 65535 ((a - dfld c.payload 16 0 64 - dfld c.payload 24 0 16 * 16) / 2))) ∧
  (∀ (s : State) (n d : Nat),
    s.running = true →
    wfNear n = true →
    nearTimeout (getNear s n).state = some d →
    s.Reaches ((getNear s n).since + d) →
    exec (.nptStateTimeout n) s = .next (commit s (nearDark (s.goTo ((getNear s n).since + d)) n))) ∧
  (∀ (s : State) (n : Nat),
    s.running = true →
    wfNear n = true →
    (getNear s n).state = 0 ∧ (getNear s n).enable = true ∧ (getNear s n).since ≠ 0 →
    s.Reaches ((getNear s n).since + 160000000) →
    exec (.nptRetryTimer n) s = .next (commit s (modNear (s.goTo ((getNear s n).since + 160000000)) n fun p => { p with since := 0 }))) ∧
  (∀ (s : State) (n : Nat),
    s.Ready →
    wfNear n = true →
    ∃ t, exec (.nptSignalLoss n) s = .next t ∧ ((getNear s n).state ≠ 4 → t = if (getNear s n).state = 0 then s else nearDark s n) ∧
      ((getNear s n).state = 4 → n < s.near.length → (getNear t n).state = 0 ∧ (getNear t n).downSeen = true ∧ (getNear t n).windows = (getNear s n).windows ∧ t.xl = s.xl ∧ t.qps = s.qps))

/-- Link reset of a near port, its end and its timeout, and the cells that leave no request behind (R304, R318, R320, R324). A good IDLE cell brings its credits; a good MAINT cell too, and counts the pattern's bit errors. A cell error on an ACTIVE port outside a reset counts and begins a link reset, sending RESET_REQ with its cause; a good RESET_REQ from the far end begins one without sending any, with the cause it carries; the third reset within one second takes the port down instead. With the receive buffers empty RESET_ACK is sent once; once it has been sent and received, in either order, the reset ends and the unanswered requests go again. A reset not over 20 µs after its start takes the port down at that moment. -/
def Obligations.NearLinkResets : Prop :=
  (∀ (s : State) (n : Nat) (c : Cell),
    s.Ready →
    wfNear n = true →
    cType c = 0 →
    s.NearTakes n c →
    exec (.zuquinIdle n c) s = .next (commitNow s ((s.nearTook n c).nearDone n c (getNear (s.nearTook n c) n).heldDb.length))) ∧
  (∀ (s : State) (n e : Nat) (c : Cell),
    s.Ready →
    wfNear n = true →
    cType c = 0xD →
    (getNear s n).state = 4 ∧ (getNear s n).mode = 0 →
    c.crc = crc32c (cellBytes c.hdr c.payload) ∧ cellWrong c = false →
    zOp c = 1 →
    exec (.zlinkMaint n c e) s = .next (commitNow s (bump (bump (creditsBack s n c) (nearCnt n 1) 1) (nearCnt n 14) e))) ∧
  (∀ (s u : State) (n cause : Nat) (asked : Bool) (i : Instr) (c : Cell),
    s.Ready →
    wfNear n = true →
    (1 ≤ cause ∧ cause ≤ 3 ∧ asked = false ∧ i = .zuquinCellError n cause) ∨ ((cType c = 0xD ∧ c.crc = crc32c (cellBytes c.hdr c.payload) ∧ cellWrong c = false ∧ zOp c = 2) ∧ cause = max 1 (min 4 (dfld c.payload 0 0 8)) ∧ asked = true ∧ i = .zlinkResetReq n c) →
    (getNear s n).state = 4 ∧ (getNear s n).mode = 0 ∧ (getNear s n).lreset = none →
    (resetWindow (getNear s n).resetTimes s.now).length < 3 →
    (u = (if asked then bump (creditsBack s n c) (nearCnt n 1) 1 else if cause = 1 then [8 + 2 * n, 9 + 2 * n].foldl (fun s e => modEng s e fun g => { g with excluded := g.excluded + 1 }) { bump s (nearCnt n 13) 1 with cals := lmod s.cals (8 + n) fun c => { c with uncorr := sat 65535 (c.uncorr + 1) } } else s)) →
    exec i s = .next (if asked then
        bump (modNear u n fun p => { p with resets := sat 255 (p.resets + 1), resetTimes := resetWindow p.resetTimes s.now, waitq := [], lreset := some ⟨s.now, cause, false, false, true, s.now + 192⟩ }) (nearCnt n 12) 1
      else emit (bump (modNear u n fun p => { p with resets := sat 255 (p.resets + 1), resetTimes := resetWindow p.resetTimes s.now, waitq := [], lreset := some ⟨s.now, cause, false, false, false, s.now + 192⟩ }) (nearCnt n 12) 1)
          (.nearCell n (zLink 2 (BitVec.ofNat 512 cause))))) ∧
  (∀ (s : State) (n cause : Nat) (i : Instr) (c : Cell),
    s.Ready →
    wfNear n = true →
    (1 ≤ cause ∧ cause ≤ 3 ∧ i = .zuquinCellError n cause) ∨ ((cType c = 0xD ∧ c.crc = crc32c (cellBytes c.hdr c.payload) ∧ cellWrong c = false ∧ zOp c = 2) ∧ i = .zlinkResetReq n c) →
    (getNear s n).state = 4 ∧ (getNear s n).mode = 0 ∧ (getNear s n).lreset = none →
    3 ≤ (resetWindow (getNear s n).resetTimes s.now).length →
    n < s.near.length →
    ∃ t, exec i s = .next t ∧ (getNear t n).state = 0 ∧ (getNear t n).downSeen = true ∧ (getNear t n).resets = sat 255 ((getNear s n).resets + 1) ∧ t.qps = s.qps ∧ t.xl = s.xl) ∧
  (∀ (s : State) (n : Nat) (r : NearReset),
    s.Ready →
    wfNear n = true →
    (getNear s n).lreset = some r →
    r.sentAck = false ∧ (getNear s n).heldDb = [] →
    exec (.nptRxBuffersEmpty n) s = .next (commitNow s (settleAll (resetEnd (emit (modNear s n fun p => { p with lreset := some { r with sentAck := true } }) (.nearCell n (zLink 3 0))) n)))) ∧
  (∀ (s : State) (n : Nat) (c : Cell) (r : NearReset),
    s.Ready →
    wfNear n = true →
    cType c = 0xD →
    (getNear s n).state = 4 ∧ (getNear s n).mode = 0 →
    c.crc = crc32c (cellBytes c.hdr c.payload) ∧ cellWrong c = false →
    zOp c = 3 →
    (getNear s n).lreset = some r →
    exec (.zlinkResetAck n c) s = .next (commitNow s (settleAll (resetEnd (modNear (bump (creditsBack s n c) (nearCnt n 1) 1) n fun p => { p with lreset := some { r with recvAck := true, heard := true } }) n)))) ∧
  (∀ (s : State) (n : Nat) (r : NearReset),
    (getNear s n).lreset = some r →
    n < s.near.length →
    resetEnd s n = if r.sentAck = true ∧ r.recvAck = true then nearResume s n else s) ∧
  (∀ (s : State) (n : Nat) (r : NearReset),
    s.running = true →
    wfNear n = true →
    (getNear s n).lreset = some r →
    s.Reaches (r.start + 320000) →
    exec (.linkResetTimeout n) s = .next (commit s (nearDown (s.goTo (r.start + 320000)) n))) ∧
  (∀ (s : State) (n : Nat),
    (getNear s n).state = 4 →
    n < s.near.length →
    (getNear (nearDown s n) n).state = 0 ∧ (getNear (nearDown s n) n).downSeen = true ∧ (getNear (nearDown s n) n).lreset = none ∧ (getNear (nearDown s n) n).windows = (getNear s n).windows ∧ (nearDown s n).xl = s.xl ∧ (nearDown s n).qps = s.qps)

/-- Inbound requests of a near endpoint and the answers to the device's own requests (R304, R308, R309, R310, R312, R314, R317, R513). A ZREQ cell an ACTIVE port takes is counted and carried out, its buffer then freed and its credit returned. A READ or WRITE whose address the window check refuses is answered by ERROR with the check's code. A WRITE to a line of HBM that lies in no host-bias page stores exactly the bytes FIRST to LAST of its payload, or marks the line poisoned where the cell is, and is answered by WRITE_DONE. A ZRSP of the command's OP is counted and applied: a tag that is not outstanding is counted only; ERROR ends its access KEY_INVALID, WRITE_DONE of a write's last request ends the access in success, and READ_DATA of a one-line read ends its access with the bytes asked for. -/
def Obligations.NearPortRequests : Prop :=
  (∀ (s : State) (n : Nat) (c : Cell) (i : Instr),
    s.Ready →
    wfNear n = true →
    cType c = 0xA →
    s.NearTakes n c →
    (zOp c = 1 ∧ i = .zreqWrite n c) ∨ (zOp c ≠ 1 ∧ i = .zreqRead n c) →
    exec i s = .next (commitNow s (settleAll ((inboundReq (s.nearTook n c) n c).nearDone n c (getNear (s.nearTook n c) n).heldDb.length)))) ∧
  (∀ (s : State) (n e : Nat) (c : Cell),
    (cClass c = 0 ∧ zOp c ≤ 1 ∧ (zOp c = 1 → zFirst c ≤ zLast c) ∧ (zOp c = 0 → zAddr c + 64 * (zLast c + 1) ≤ 2 ^ 56)) →
    windowCheck (bump s (nearCnt n 3) 1) n (zAddr c) (if zOp c = 0 then 64 * (zLast c + 1) else 64) (decide (zOp c = 1)) = .error e →
    inboundReq s n c = zError (bump s (nearCnt n 3) 1) n (zTag c) (zAddr c) e) ∧
  (∀ (s : State) (n ph va i : Nat) (c : Cell) (w : Window) (x : Ctx) (g : Seg),
    cClass c = 0 ∧ zOp c = 1 ∧ zFirst c ≤ zLast c →
    windowCheck (bump s (nearCnt n 3) 1) n (zAddr c) 64 true = .ok (w, x, i, g, va) →
    domPhys s x.dom (g.tbase + (va - g.base)) = some ph →
    hostBiased (logSeg (bump s (nearCnt n 3) 1) g va) ph = false →
    inboundReq s n c = zWriteDone (hbmLines (if zPoison c = true then markPoison (logSeg (bump s (nearCnt n 3) 1) g va) (ph / 64)
        else hbmWrite (logSeg (bump s (nearCnt n 3) 1) g va) (ph + zFirst c) (((bytesOf c.payload).drop (zFirst c)).take (zLast c - zFirst c + 1))) (nearSource n) none 1) n (zTag c)) ∧
  (∀ (s : State) (n : Nat) (c : Cell) (i : Instr),
    s.Ready →
    wfNear n = true →
    cType c = 0xB →
    s.NearTakes n c →
    (zOp c, i) ∈ [(0, .zrspReadData n c), (1, .zrspWriteDone n c), (2, .zrspPageAbsent n c), (3, .zrspError n c)] →
    exec i s = .next (commitNow s (settleAll ((match zOp c with
        | 0 => readData (bump (s.nearTook n c) (nearCnt n 5) 1) n c
        | 1 => (List.range (min 31 (dfld c.payload 0 0 8))).foldl (fun s i => writeDoneTag s n (dfld c.payload (2 + 2 * i) 0 12)) (bump (s.nearTook n c) (nearCnt n 5) 1)
        | 2 => pageAbsent (bump (s.nearTook n c) (nearCnt n 5) 1) n c
        | _ => errorAnswer (bump (s.nearTook n c) (nearCnt n 5) 1) n c).nearDone n c (getNear (s.nearTook n c) n).heldDb.length)))) ∧
  (∀ (s : State) (n : Nat) (c : Cell),
    (getNear s n).owner (zTag c) = none →
    readData s n c = unknownTag s n ∧ writeDoneTag s n (zTag c) = unknownTag s n ∧ pageAbsent s n c = unknownTag (bump s (nearCnt n 9) 1) n ∧
      errorAnswer s n c = unknownTag (bump s (nearCnt n 10) 1) n) ∧
  (∀ (s : State) (n id : Nat) (c : Cell) (r : NearReq) (a : Access),
    (getNear s n).owner (zTag c) = some r →
    r.access = some id →
    (s.xl.accesses.find? (fun a => a.id = id) = some a) →
    a.result = none ∧ a.issued = true →
    errorAnswer s n c = settle (endAccess (detach (modReq (bump s (nearCnt n 10) 1) n r.id fun r => { r with done := true }) n id) id 0xC) ∧
      (r.read = false → a.left ≤ 1 → writeDoneTag s n (zTag c) = settle (endAccess (modReq s n r.id fun r => { r with answered := [0], done := true }) id 0)) ∧
      (r.read = true → r.lines = 1 → r.cls = 0 → r.answered = [] → r.got = [] → r.poisoned = [] → r.tag = zTag c →
        readData s n c = settle (endAccess (modReq s n r.id fun r => { r with answered := [0], got := [(0, c.payload)], poisoned := if zPoison c then [0] else [], done := true }) id 0
          (((bytesOf c.payload).drop (a.addr % 64)).take a.len) (zPoison c))))

/-- ZDB cells of an endpoint, and NPT_WINDOW_SET with its completion (R72, R314, R315, R316, R317). A ZDB cell is taken at once, or held behind writes that are not visible yet. A cell nothing holds is carried out at once. The only enabled entry of a DOORBELL cell, for a function in a domain the port is bound to, rings that doorbell; for one it is not bound to it is counted only. NPT_WINDOW_SET for a function in a domain bound to the port, with a page-aligned range that lies in HBM segments of a context of that domain, or of length 0, stores the window and completes at once where no window was open; where one was open it waits with the accesses of the older setting, and completes at WINDOW_CHANGE_DONE once none of them is left. A function in no domain gives reason 1. -/
def Obligations.NearPortDoorbellsAndWindows : Prop :=
  (∀ (s : State) (n : Nat) (c : Cell) (i : Instr),
    s.Ready →
    wfNear n = true →
    cType c = 0xC →
    s.NearTakes n c →
    (zOp c = 2 ∧ i = .zdbPageReady n c) ∨ (zOp c ≠ 2 ∧ i = .zdbDoorbell n c) →
    exec i s = .next (commitNow s (settleAll ((zdbArrive (s.nearTook n c) n c).nearDone n c (getNear (s.nearTook n c) n).heldDb.length)))) ∧
  (∀ (s : State) (n : Nat) (c : Cell),
    inboundBusy s n = false →
    (getNear s n).heldDb = [] →
    zdbArrive s n c = (match zOp c with
        | 0 => doorbellCell s n c
        | 2 => pageReady s n c
        | _ => nearReset s n 3 false)) ∧
  (∀ (s : State) (n fn dom : Nat) (c : Cell),
    dbit c.payload 4 0 = true ∧ dbit c.payload 20 0 = false ∧ dbit c.payload 36 0 = false ∧ dbit c.payload 52 0 = false →
    fn = dfld c.payload 0 0 16 →
    fn ≤ 512 →
    fnDom s fn = some dom →
    doorbellCell s n c = (if nearBound s n dom then doorbell (bump s (nearCnt n 6) 1) fn (dfld c.payload 2 0 16) (dfld c.payload 12 0 8) (dfld c.payload 8 0 64 % 2 ^ 32)
      else bump s (nearCnt n 7) 1)) ∧
  (∀ (s : State) (d : Line) (dom : Nat) (x : Ctx),
    s.MgrReady →
    dfld d 18 0 16 ≤ 512 →
    fnDom s (dfld d 18 0 16) = some dom →
    nearBound s (dfld d 17 0 2) dom = true →
    s.xl.ctxs.lookup (dfld d 20 0 12) = some x →
    (dfld d 32 0 48 ≠ 0 → dfld d 24 0 57 % 4096 = 0 ∧ dfld d 32 0 48 % 4096 = 0 ∧ x.dom = dom ∧ ctxCovers s (dfld d 20 0 12) (dfld d 24 0 57) (dfld d 32 0 48) (fun g => g.target = 1) = true) →
    exec (.nptWindowSet d) s = .next (commitNow s (
        let old := (getNear s (dfld d 17 0 2)).windows.lookup (dfld d 16 0 8)
        let u := modNear (takeHanded s .mgrSq d) (dfld d 17 0 2) fun p => { p with windows := tput p.windows (dfld d 16 0 8) { fn := dfld d 18 0 16, ctx := dfld d 20 0 12, base := dfld d 24 0 57, len := dfld d 32 0 48, readOk := dbit d 38 0, writeOk := dbit d 38 1, waiting := (old.map (·.waiting)).getD [] ++ (if old.isSome = true then [(d, windowUsers s (dfld d 17 0 2) (dfld d 16 0 8))] else []) } }
        if old.isSome = true then windowDone u (dfld d 17 0 2) (dfld d 16 0 8) else mgrOk u d))) ∧
  (∀ (s : State) (d : Line),
    s.MgrReady →
    512 < dfld d 18 0 16 ∨ fnDom s (dfld d 18 0 16) = none →
    exec (.nptWindowSet d) s = .next (commitNow s (mgrFail (takeHanded s .mgrSq d) d 1))) ∧
  (∀ (s : State) (n w : Nat) (x : Window) (d : Line) (l : List Nat),
    s.Ready →
    wfNear n = true ∧ w < 256 →
    (getNear s n).windows.lookup w = some x →
    x.waiting = [(d, l)] →
    ((s.xl.accesses.any fun a => l.contains a.id) = false) →
    exec (.windowChangeDone n w) s = .next (commitNow s (settleAll (mgrOk (modNear s n fun p => { p with
        windows := if x.len = 0 then tdel p.windows w else tput p.windows w { x with waiting := [] } }) d))))

/-- OPT_CFG and the bring-up of a lattice port: DARK, LIGHT, ALIGN, ATTEST, the timeouts and the retry (R333, R334, R335, R336, R487). A write of OPT_CFG stores its defined bits; clearing a port's L_ENABLE takes it to DARK without a retry pending (an ACTIVE one at the end of the cycle), setting it allows bring-up and clears damping, and a port whose bit does not change keeps its state. Light takes a dark port that may come up to LIGHT; lock with at most 100 bit errors takes LIGHT to ALIGN and starts its survey cells at the next slot of 1536 units; alignment takes ALIGN to ATTEST and starts attestation. A state's timeout at its close counts one failure in CAL_STATUS and takes the port to DARK; 10 ms after a fall to DARK bring-up may run again. -/
def Obligations.LatticePortBringUp : Prop :=
  (∀ (s : State) (v : W64) (p : Nat),
    s.BarReady →
    p < 8 ∧ p < s.lports.length →
    exec (.optLEnableWrite v) s = .next (commitNow s (optWrite s v)) ∧ (optWrite s v).optCfg = v &&& 0x7F00FF ∧
      (bitAt s.optCfg p = bitAt v p → getLat (optWrite s v) p = getLat s p) ∧
      (bitAt s.optCfg p = true → bitAt v p = false → (getLat s p).state ≠ 5 → (getLat (optWrite s v) p).state = 0 ∧ (getLat (optWrite s v) p).wait = false) ∧
      (bitAt s.optCfg p = true → bitAt v p = false → (getLat s p).state = 5 → getLat (optWrite s v) p = getLat s p ∧ p ∈ (optWrite s v).cyc.darken) ∧
      (bitAt s.optCfg p = false → bitAt v p = true → (getLat (optWrite s v) p).state = (getLat s p).state ∧ (getLat (optWrite s v) p).wait = false ∧ (getLat (optWrite s v) p).damped = false)) ∧
  (∀ (s : State) (p : Nat),
    s.cyc.darken = [p] →
    darkenCycle s = modPort (if (getLat s p).state = 5 then latDark (modCyc s fun c => { c with darken := [] }) p else modCyc s fun c => { c with darken := [] }) p fun x => { x with wait := false }) ∧
  (∀ (s : State) (p : Nat),
    s.Ready →
    wfLat p = true →
    (getLat s p).state = 0 →
    bringUpOk s p = true →
    exec (.latLightDetected p) s = .next (modPort s p fun x => { x with state := 1, since := s.now })) ∧
  (∀ (s : State) (p bitErrors : Nat),
    s.Ready →
    wfLat p = true →
    (getLat s p).state = 1 →
    exec (.latLanesLocked p bitErrors) s = .next (if bitErrors ≤ 100 then
        modPort (draw s 31).2 p fun x => { x with state := 2, since := s.now, surveyFrom := cdiv s.now 1536 * 1536, surveyNext := cdiv s.now 1536 * 1536, surveySeq := 0, far := none, prbs := (draw s 31).1.setWidth 64 <<< 33 } else s)) ∧
  (∀ (s : State) (p : Nat),
    s.Ready →
    wfLat p = true →
    (getLat s p).state = 2 →
    exec (.latAligned p) s = .next (attestStart (modPort s p fun x => { x with state := 3, since := s.now, checked := none, attested := none, nonce := none, chain := none, resp := none }) p)) ∧
  (∀ (s : State) (p d : Nat),
    s.running = true →
    wfLat p = true →
    latTimeout (getLat s p).state = some d →
    timeoutRuns s p = true →
    s.Reaches ((getLat s p).since + d) →
    exec (.latStateTimeout p) s = .next (commit s (preFail (s.goTo ((getLat s p).since + d)) p))) ∧
  (∀ (s : State) (p : Nat),
    p < s.lports.length ∧ p < s.cals.length →
    (getLat (preFail s p) p).state = 0 ∧ (getLat (preFail s p) p).wait = true ∧ (getLat (preFail s p) p).since = s.now ∧
      (lget (preFail s p).cals p Cal.reset).fails = sat 255 ((lget s.cals p Cal.reset).fails + 1)) ∧
  (∀ (s : State) (p : Nat),
    s.running = true →
    wfLat p = true →
    (getLat s p).state = 0 ∧ (getLat s p).wait = true →
    s.Reaches ((getLat s p).since + 160000000) →
    exec (.latRetryTimer p) s = .next (commit s (modPort (s.goTo ((getLat s p).since + 160000000)) p fun x => { x with wait := false })))

/-- Survey cells, the attestation messages of a lattice link and the end of a signature (R32, R149, R336, R472, R485, R487, R488, R489). A survey cell of a dark or lit port, of another type or with a bad CRC changes nothing. A good one whose area is empty, on a port outside ATTEST, leaves the far end's state, READY, root and stamps on record and adds its measurement pair. In ATTEST a CHALLENGE queues the port for a RESPONSE and the queue is served; CHAIN and RESPONSE are kept and, once both are there, the checks of R489 admit the link, which then is TIMED where R32 and R149 also passed, or refuse it with one codex record; outside ATTEST the messages change nothing. A signature ends the job in the block: a certificate is stored, a RESPONSE is sent to every port of the job, and the next request is taken. -/
def Obligations.LatticeSurveyAndAttestation : Prop :=
  (∀ (s : State) (p : Nat) (c : Cell) (a : Gtc),
    s.Ready →
    wfLat p = true →
    (getLat s p).state < 2 ∨ cType c ≠ 8 ∨ c.crc ≠ latCrc c.hdr c.payload →
    exec (.surveyCellArrival p c a) s = .next s) ∧
  (∀ (s : State) (p : Nat) (c : Cell) (a : Gtc),
    s.Ready →
    wfLat p = true →
    p < s.lports.length →
    2 ≤ (getLat s p).state ∧ (getLat s p).state ≠ 3 →
    cType c = 8 ∧ c.crc = latCrc c.hdr c.payload →
    dfld c.payload 20 4 2 = 0 →
    exec (.surveyCellArrival p c a) s = .next (commitNow s (surveyArrival s p c a)) ∧
      (getLat (surveyArrival s p c a) p).far = some { state := dfld c.payload 20 0 3, ready := dbit c.payload 20 3, rootPri := dfld c.payload 24 0 8, rootHops := dfld c.payload 25 0 6, rootIdx := dfld c.payload 26 0 10, heard := s.folio, seq := dfld c.payload 16 0 16, arrival := a, prbs := (c.payload >>> 256).setWidth 64 } ∧
      (getLat (surveyArrival s p c a) p).state = (getLat s p).state ∧
      (getLat (surveyArrival s p c a) p).pairs = (getLat s p).pairs ++ (if dfld c.payload 18 0 16 = 0xFFFF then none else (surveyStamp (getLat s p) (dfld c.payload 18 0 16)).map fun t1 => pairOf s p t1 (dfld c.payload 8 0 64) (dfld c.payload 0 0 64) a).toList) ∧
  (∀ (s : State) (p : Nat) (c : Cell),
    (getLat s p).state = 3 →
    p < s.lports.length →
    dfld c.payload 21 0 2 ≠ s.time.fsize ∨ dfld c.payload 22 0 10 ≠ fld s.lat.cfg 0 10 →
    surveyCheck s p c = (if (getLat s p).checked = some false then s else linkRefused (modPort s p fun x => { x with checked := some false }) p 0)) ∧
  (∀ (s : State) (p farPort farCoord : Nat) (nonce : BitVec 256) (ch : ChainMsg) (re : RespMsg),
    s.Ready →
    wfLat p = true ∧ farPort < 256 ∧ farCoord < 1024 →
    ((getLat s p).state ≠ 3 → exec (.attestChallenge p nonce farPort farCoord) s = .next s ∧ exec (.attestChain p ch) s = .next s ∧ exec (.attestResponse p re) s = .next s) ∧
      ((getLat s p).state = 3 →
        exec (.attestChallenge p nonce farPort farCoord) s = .next (commitNow s (sigPump (modSec (modPort s p fun x => { x with farNonce := some (nonce, farPort, farCoord) }) fun x => { x with linkQ := if x.linkQ.contains p then x.linkQ else x.linkQ ++ [p] }))) ∧
        exec (.attestChain p ch) s = .next (commitNow s (attestVerify (modPort s p fun x => { x with chain := some ch }) p)) ∧
        exec (.attestResponse p re) s = .next (commitNow s (attestVerify (modPort s p fun x => { x with resp := some re }) p)))) ∧
  (∀ (s : State) (p : Nat) (ch : ChainMsg) (re : RespMsg),
    (getLat s p).state = 3 ∧ (getLat s p).attested = none →
    fwAlive s = true →
    (getLat s p).chain = some ch ∧ (getLat s p).resp = some re →
    attestVerify s p = (if attestCheck s p (getLat s p) ch re = 0 then linkAdmit (modPort s p fun x => { x with attested := some true }) p
      else linkRefused (modPort s p fun x => { x with attested := some false }) p (attestCheck s p (getLat s p) ch re))) ∧
  (∀ (s : State) (p : Nat) (ch : ChainMsg) (re : RespMsg),
    (ch.verifies = false ∨ re.sigKey ≠ some ch.attKey ∨ 8 < re.entries.length ∨ fld ch.svnVersion 0 7 < fld s.sec.policy 0 7) →
    attestCheck s p (getLat s p) ch re ≠ 0) ∧
  (∀ (s : State) (sig : List Byte),
    s.Ready →
    exec (.signatureDone sig) s = .next (commitNow s (signatureDone s sig)) ∧ (s.sec.signing = none → signatureDone s sig = s) ∧
      (s.sec.signing = some .certificate → signatureDone s sig = sigPump (modSec (modSec s fun x => { x with signing := none }) fun x => { x with attCert := sig }))) ∧
  (∀ (s : State) (p fp fc : Nat) (n : BitVec 256) (sig : List Byte),
    s.sec.signing = some (.link [(p, n, fp, fc)]) →
    fwAlive s = true →
    signatureDone s sig = sigPump (attestSend (modSec s fun x => { x with signing := none }) p 3 (respBody (modSec s fun x => { x with signing := none }) [(p, n, fp, fc)] ++ sig)))

/-- Laser, heater and temperature failures of an optical engine, loss of light, codeword errors and the bit-error window (R328, R338, R340, R342, R343, R344, R345, R347). LASER_LOW, HEATER_LIMIT and OE_SHUTDOWN set the engine's flag and fail its port: an ACTIVE lattice port goes down at the next tick, one on its way up falls back at once, a dark one stays, and a near port goes down; a flag already standing changes nothing, and LASER_LOW_CLEAR clears it. Loss of light declares an ACTIVE port down with cause 0 and the lane: it is DARK, DOWN_SEEN and LAST_CAUSE say so, and a third declaration within 60 s damps it. An uncorrectable codeword is counted, and the port goes down with cause 1 once the count of its window reaches the threshold. A window of 16 folios is evaluated once. -/
def Obligations.OpticalFailures : Prop :=
  (∀ (s u : State) (e : Nat) (i : Instr),
    s.Ready →
    wfEngine e = true →
    ((i = .laserLow e ∧ (getEng s e).laserLow = false ∧ u = modEng s e fun g => { g with laserLow := true }) ∨ (i = .heaterLimit e ∧ u = modEng (mark s (0x130080 + 8 * e) 11) e fun g => { g with heaterLimit := true }) ∨ (i = .oeShutdown e ∧ (getEng s e).shutdown = false ∧ u = modEng s e fun g => { g with shutdown := true })) →
    exec i s = .next (commitNow s (
        if 8 ≤ e then macsLost (nearDown u ((e - 8) / 2)) ((e - 8) / 2) (if e % 2 = 0 then [0, 1] else [2, 3])
        else if (getLat s e).state = 5 then modEng u e fun x => { x with failNext := true }
        else if (getLat s e).state = 0 then u else preFail u e))) ∧
  (∀ (s : State) (e : Nat),
    s.Ready →
    wfEngine e = true →
    exec (.laserLowClear e) s = .next (modEng s e fun g => { g with laserLow := false }) ∧
      ((getEng s e).laserLow = true → exec (.laserLow e) s = .next s) ∧ ((getEng s e).shutdown = true → exec (.oeShutdown e) s = .next s)) ∧
  (∀ (s : State) (p lane : Nat),
    s.Ready →
    wfLat p = true ∧ lane < 8 →
    exec (.lossOfLight p lane) s = .next (commitNow s (if (getLat s p).state = 5 then markDown s p 0 lane else if (getLat s p).state = 0 then s else preFail s p))) ∧
  (∀ (s : State) (p cause lane : Nat),
    (getLat s p).state = 5 →
    ((s.cyc.failing.find? fun f => f.1 = p) = none → markDown s p cause lane = { s with cyc := { s.cyc with failing := s.cyc.failing ++ [(p, cause, lane)] } }) ∧
      (s.cyc.failing = [(p, cause, lane)] → declareCycle s = declareDown { s with cyc := { s.cyc with failing := [] } } p cause lane)) ∧
  (∀ (s : State) (p cause lane : Nat),
    (getLat s p).state = 5 →
    p < s.lports.length ∧ p < s.cals.length →
    (getLat (declareDown s p cause lane) p).state = 0 ∧ (getLat (declareDown s p cause lane) p).wait = true ∧
      ((getLat (declareDown s p cause lane) p).damped = ((getLat s p).damped || decide ((downWindow (getLat s p).downs s.now).length ≥ 3))) ∧
      (lget (declareDown s p cause lane).cals p Cal.reset).downSeen = true ∧ (lget (declareDown s p cause lane).cals p Cal.reset).lastCause = cause) ∧
  (∀ (s : State) (p : Nat),
    s.Ready →
    wfLat p = true →
    2 ≤ (getLat s p).state →
    exec (.latticeUncorrectableCw p) s = .next (commitNow s (
        let fresh : Bool := match (getLat s p).uncWin with | some g => decide (g + 1536 ≤ s.now) | none => true
        let n := if fresh then 1 else (getLat s p).uncCount + 1
        let u := modPort (modEng (modCal (bump s (latCnt p 14) 1) p fun c => { c with uncorr := sat 65535 (c.uncorr + 1) }) p fun g => { g with excluded := g.excluded + 1 }) p fun x => { x with uncWin := if fresh then some s.now else x.uncWin, uncCount := n }
        if max 1 (fld s.calCfg.inForce 32 3) ≤ n then portFails u p 1 0xFF else u))) ∧
  (∀ (s : State) (bits : List (Nat × Nat × Nat)),
    s.Ready →
    ((bits.all fun b => b.1 < 12) = true) →
    exec (.calWindowClose bits) s = .next (commitNow s (windowClose (countBits s bits))) ∧ (s.folio / 16 * 16 ≤ s.calAt → windowClose s = s) ∧
      (s.calAt < s.folio / 16 * 16 → (windowClose s).calAt = s.folio / 16 * 16)) ∧
  (∀ (s : State) (i l n : Nat),
    i < s.cals.length →
    (lget (countBits s [(i, l, n)]).cals i Cal.reset).bits = (lget s.cals i Cal.reset).bits + n)

/-- Frames that arrive at a MAC and leave its buffer, PAUSE and PFC frames, and the MAC's link (R355, R356, R359, R367, R368, R370, R371). A frame that arrives on a MAC in an Ethernet mode with its link up joins the receive buffer, or is dropped and counted with DROP_SEEN where it does not fit. A PAUSE or PFC frame that is good does not wait in the buffer. RELEASE takes the MAC's oldest frame where no other MAC of its port has an older one: one with a bad FCS, or of a length outside 64 to MAX_FRAME, is counted and dropped, another goes through the steps of Table 13.2; an empty buffer releases nothing. A PAUSE frame in mode 1 pauses all eight priorities, a PFC frame in mode 2 each enabled one, for quanta of 512 bit times or, with quanta 0, not at all; in the other mode and during the hold-off it is only counted. The link coming up sets link and lock and clears the faults; its loss ends the frame in transmission and drops waiting pause frames. -/
def Obligations.EthernetReceive : Prop :=
  (∀ (s : State) (k : Nat) (f : Frame),
    s.Ready →
    wfMac k = true →
    exec (.ethFrameArrival k f) s = .next (commitNow s (
        if (macLive s k && (getMac s k).linkUp) = true then
          if f.etherType = 0x8808 ∧ (match f.body with | .pause _ => true | .pfc _ _ => true | _ => false) = true ∧ f.fcsOk = true ∧ 64 ≤ f.len ∧ f.len ≤ maxFrame s (k / 2) then goodFrame (bwBytes s (12 + k) false f.len) k f
          else if heldBytes (getMac s k) none + f.len ≤ bufferSize s k then flowGen (modMac (bwBytes s (12 + k) false f.len) k fun m => { m with buffer := m.buffer ++ [⟨f, maxFrame s (k / 2), s.now⟩] }) k
          else modMac (mark (macBump (bwBytes s (12 + k) false f.len) k 4 1) (0x170180 + 8 * k) 7) k fun m => { m with dropSeen := true }
        else s))) ∧
  (∀ (s : State) (k : Nat),
    s.Ready →
    wfMac k = true →
    exec (.ethFrameRelease k) s = .next (commitNow s (match (getMac s k).buffer with
        | [] => s
        | h :: rest => if ((List.range 4).any fun j => (getMac s (4 * (k / 4) + j)).buffer.head?.any fun x => decide (x.arrived < h.arrived)) = true then s else settleAll (flowGen (
            if h.frame.fcsOk = false then macBump (modMac s k fun m => { m with buffer := rest }) k 2 1
            else if h.frame.len < 64 ∨ h.maxFrame < h.frame.len then macBump (modMac s k fun m => { m with buffer := rest }) k 3 1
            else goodFrame (modMac s k fun m => { m with buffer := rest }) k h.frame) k)))) ∧
  (∀ (s : State) (k q : Nat),
    s.Ready →
    wfMac k = true →
    macLive s k = true ∧ (getMac s k).linkUp = true →
    exec (.pauseFrame k q) s = .next (commitNow s (pauseIn (controlFrame s k) k q)) ∧
      (pauseIn (controlFrame s k) k q).cnt.fixed.lookup (macCnt k 7) = some (((s.cnt.fixed.lookup (macCnt k 7)).getD 0 + 1) % 2 ^ 64) ∧
      (pauseMode s k ≠ 1 ∨ pauseHonoured s k = false → (pauseIn (controlFrame s k) k q).macs = s.macs) ∧
      (pauseMode s k = 1 → pauseHonoured s k = true → k < s.macs.length → ∀ p ∈ List.range 8,
        (getMac (pauseIn (controlFrame s k) k q) k).pauses.lookup p = if q = 0 then none else some ⟨s.now + quantaUnits s k q, (((getMac s k).pauses.lookup p).map (·.began)).getD s.now⟩)) ∧
  (∀ (s : State) (k : Nat) (en : BitVec 8) (qs : List Nat),
    s.Ready →
    wfMac k = true →
    macLive s k = true ∧ (getMac s k).linkUp = true →
    exec (.pfcFrame k en qs) s = .next (commitNow s (pfcIn (controlFrame s k) k en qs)) ∧
      (pfcIn (controlFrame s k) k en qs).cnt.fixed.lookup (macCnt k 7) = some (((s.cnt.fixed.lookup (macCnt k 7)).getD 0 + 1) % 2 ^ 64) ∧
      (pauseMode s k ≠ 2 ∨ pauseHonoured s k = false → (pfcIn (controlFrame s k) k en qs).macs = s.macs) ∧
      (pauseMode s k = 2 → pauseHonoured s k = true → k < s.macs.length → ∀ p ∈ List.range 8,
        (getMac (pfcIn (controlFrame s k) k en qs) k).pauses.lookup p = if bitAt en p = true ∧ bitAt (getMac s k).pfc.inForce (24 + p) = true then
          (if qs.getD p 0 = 0 then none else some ⟨s.now + quantaUnits s k (qs.getD p 0), (((getMac s k).pauses.lookup p).map (·.began)).getD s.now⟩)
        else (getMac s k).pauses.lookup p)) ∧
  (∀ (s : State) (k sent : Nat),
    s.Ready →
    wfMac k = true →
    (macLive s k = true → macLit s k = true → exec (.macLinkUp k) s = .next (commitNow s (sendPauses (modMac s k fun m => { m with linkUp := true, fecLock := true, localFault := false, remoteFault := false, hiSer := false }) k))) ∧
      exec (.macLinkLoss k sent) s = .next (commitNow s (macDown s k sent)) ∧
      ((getMac s k).tx.bind (·.raw) = none → macDown s k sent = modMac s k fun m => { m with tx := none, linkUp := false, fecLock := false, localFault := true, ctlq := [] }))

/-- The pause timer, the pause watchdog, the hold-off and the repeated XOFF of a MAC (R368, R369, R370). Each acts at its own moment, to which the clock moves, where that lies before the next tick. The pause timer's close ends the priority's pause, in mode 1 the pauses of every priority with the same close. The watchdog's close, WD_MS milliseconds after the pause began and while it still stands, ends every pause, opens the hold-off, sets PAUSE_BROKEN_SEEN and posts event and record; WD_MS 0 does nothing. The hold-off's close ends it. Half of the QUANTA time after the last XOFF of a priority that still holds XON_KIB or more, XOFF is queued again and stamped. -/
def Obligations.EthernetFlowControlTimers : Prop :=
  (∀ (s : State) (k p : Nat) (x : Pause),
    s.running = true →
    wfMac k = true ∧ wfPrio p = true →
    (getMac s k).pauses.lookup p = some x →
    s.Reaches x.till →
    exec (.pauseTimerExpiry k p) s = .next (commit s (pauseClosed (s.goTo x.till) k p))) ∧
  (∀ (s : State) (k p : Nat) (x : Pause),
    (getMac s k).pauses.lookup p = some x →
    pauseClosed s k p = modMac s k fun m => { m with pauses := if pauseMode s k = 1 then m.pauses.filter fun e => e.2.till ≠ x.till else tdel m.pauses p }) ∧
  (∀ (s : State) (k p g : Nat) (x : Pause),
    s.running = true →
    wfMac k = true ∧ wfPrio p = true →
    (getMac s k).pauses.lookup p = some x →
    (0 < fld (macCfgOf s k) 40 8 ∧ (pauseMode s k = 1 → p = 0)) →
    g = x.began + fld (macCfgOf s k) 40 8 * 16000000 ∧ g ≤ x.till →
    s.Reaches g →
    exec (.pauseWatchdogExpiry k p) s = .next (commit s (watchdogClosed (s.goTo g) k p))) ∧
  (∀ (s : State) (k p : Nat) (x : Pause),
    (getMac s k).pauses.lookup p = some x →
    watchdogClosed s k p = eventAndCodex (modMac (mark s (0x170180 + 8 * k) 6) k fun m => { m with pauses := [], holdoff := some (s.now + max 1 (fld (macCfgOf s k) 48 8) * 160000000), brokenSeen := true }) 0x0A 0x50 (macSource k) (k + 16 * p)
        (evData [(20, 64, x.began), (28, 8, pauseMode s k)])) ∧
  (∀ (s : State) (k p : Nat),
    s.Ready →
    wfMac k = true ∧ wfPrio p = true →
    (getMac s k).pauses.lookup p = none ∨ fld (macCfgOf s k) 40 8 = 0 →
    exec (.pauseWatchdogExpiry k p) s = .next s) ∧
  (∀ (s : State) (k g : Nat),
    s.running = true →
    wfMac k = true →
    (getMac s k).holdoff = some g →
    s.Reaches g →
    exec (.holdoffExpiry k) s = .next (commit s (modMac (s.goTo g) k fun m => { m with holdoff := none }))) ∧
  (∀ (s : State) (k p last : Nat),
    s.running = true →
    wfMac k = true ∧ wfPrio p = true →
    (getMac s k).xoff.lookup p = some last →
    s.Reaches (last + cdiv (quantaUnits s k (sendQuanta s k)) 2) →
    exec (.xoffRefresh k p) s = .next (commit s (xoffAgain (s.goTo (last + cdiv (quantaUnits s k (sendQuanta s k)) 2)) k p))) ∧
  (∀ (s : State) (k p last : Nat) (e : Nat × Option Nat × Nat),
    (getMac s k).xoff.lookup p = some last →
    ((flowKeys s k).find? (fun e => e.1 = p) = some e) →
    xonBytes s k ≤ e.2.2 →
    xoffAgain s k p = sendPauses (modMac s k fun m => { m with xoff := tput m.xoff p s.now, ctlq := m.ctlq ++ [(e.2.1, sendQuanta s k)] }) k)

/-- Frames a MAC sends, the peer and filter tables, and the compatibility counters (R359, R360, R361, R371, R376, R446, R452). MAC_FRAME_START has its effect at the end of its cycle. A MAC that is not in an Ethernet mode, or whose frame is still in transmission, starts none; one with nothing to send changes no QP. The end of a frame counts it with its bytes and frees the MAC; a RAW_SEND then completes with the frame's stamp. ETH_PEER_SET and ETH_FILTER_SET with good fields store the entry, a filter with EN 0 removes it, and a bad one changes nothing and gives its reason. An aligned 8-byte read of a compatibility counter answers its value and clears it; any other read of the block answers 0. -/
def Obligations.EthernetSendAndTables : Prop :=
  (∀ (s : State) (k : Nat),
    s.Ready →
    wfMac k = true →
    exec (.macFrameStart k) s = .next { s with cyc := { s.cyc with starts := s.cyc.starts ++ [k] } }) ∧
  (∀ (s : State) (k : Nat),
    s.cyc.starts = [k] →
    startCycle s = frameStart { s with cyc := { s.cyc with starts := [] } } k) ∧
  (∀ (s : State) (k : Nat),
    macLive s k = false ∨ (getMac s k).tx.isSome = true →
    frameStart s k = s) ∧
  (∀ (s : State) (k : Nat),
    macLive s k = true ∧ (getMac s k).tx = none ∧ (getMac s k).ctlq = [] →
    s.qps = [] ∧ (getOut s (some k)).ctl = [] ∧ (getOut s (some k)).carrelTags = [] →
    (frameStart s k).qps = [] ∧ getMac (frameStart s k) k = getMac s k ∧ (frameStart s k).outbox = s.outbox) ∧
  (∀ (s : State) (k : Nat) (g : Gtc) (x : TxFrame),
    s.Ready →
    wfMac k = true →
    (getMac s k).tx = some x →
    (getMac s k).ctlq = [] →
    exec (.macFrameEnd k g) s = .next (commitNow s (sendPauses (match x.raw with
        | none => countTx (modMac s k fun m => { m with tx := none }) k x.bytes
        | some (n, idx) => doneOp (modOp (countTx (modMac s k fun m => { m with tx := none }) k x.bytes) n idx fun o => { o with stampAt := some g }) n idx 0) k))) ∧
  (∀ (s : State) (d : Line) (dom : Nat),
    s.MgrReady →
    dfld d 18 3 2 < 2 ∧ dfld d 22 0 16 ≤ 512 →
    peerHeld s (dfld d 16 0 12) = false →
    fnDom s (dfld d 22 0 16) = some dom →
    nearBound s (dfld d 18 0 3 / 2) dom = true →
    exec (.ethPeerSet d) s = .next (commitNow s (mgrOk { takeHanded s .mgrSq d with peers := tput s.peers (dfld d 16 0 12) {
        mac := dfld d 18 0 3, sub := dfld d 18 3 2, ipv6 := dbit d 18 5, vlanEn := dbit d 18 6, ecnEn := dbit d 18 7, dscp := dfld d 19 0 6, vlan := dfld d 20 0 12, fn := dfld d 22 0 16,
        nextHop := BitVec.ofNat 48 (dfld d 24 0 48), remoteIp := BitVec.ofNat 128 (dfld d 32 0 128), localIp := BitVec.ofNat 128 (dfld d 48 0 128) } } d))) ∧
  (∀ (s : State) (d : Line),
    s.MgrReady →
    2 ≤ dfld d 18 3 2 ∨ 512 < dfld d 22 0 16 →
    exec (.ethPeerSet d) s = .next (commitNow s (mgrFail (takeHanded s .mgrSq d) d 3))) ∧
  (∀ (s : State) (d : Line),
    s.MgrReady →
    exec (.ethFilterSet d) s = .next (commitNow s (
        if dbit d 18 5 = true ∧ ((getQp s (dfld d 32 0 20)).map fun q => decide (q.type = 1)) ≠ some true then mgrFail (takeHanded s .mgrSq d) d 1
        else if 2 ≤ dfld d 18 3 2 then mgrFail (takeHanded s .mgrSq d) d 3
        else if dbit d 18 5 = true then mgrOk { takeHanded s .mgrSq d with filters := tput s.filters (dfld d 16 0 10) {
          mac := dfld d 18 0 3, sub := dfld d 18 3 2, vlanMatch := dbit d 18 6, typeMatch := dbit d 18 7, vlan := dfld d 20 0 12, etherType := dfld d 22 0 16, da := BitVec.ofNat 48 (dfld d 24 0 48), qp := dfld d 32 0 20 } } d
        else mgrOk { takeHanded s .mgrSq d with filters := tdel s.filters (dfld d 16 0 10) } d))) ∧
  (∀ (s : State) (off e i : Nat),
    s.BarReady →
    e < 8 ∧ i < 11 →
    off = 0xF00000 + 0x80 * e + 8 * i →
    ∃ t, exec (.compatCounterRead off 8) s = .next t ∧ t.compat = tdel s.compat (11 * e + i) ∧ t.cnt = s.cnt ∧ t.outbox = s.outbox ++ [.regData (BitVec.ofNat 64 ((s.compat.lookup (11 * e + i)).getD 0))]) ∧
  (∀ (s : State) (off w : Nat),
    s.BarReady →
    wfOffset off = true ∧ inCompat off = true →
    w ∈ [1, 2, 4] ∨ (w = 8 ∧ off % 8 ≠ 0) →
    ∃ t, exec (.compatCounterRead off w) s = .next t ∧ t.compat = s.compat ∧ t.outbox = s.outbox ++ [.regData 0])

/-- Loss of the host link by each of its causes, its return, a retrain, IDE keying and configuration writes (R381, R390, R393, R394, R396, R397). DL_DOWN, HOT_RESET, PERST_N with no device reset asked for, PF0_FLR and an IDE failure each declare a link loss once while the link is up: LINK_LOSS_SEEN, the count and the journal's loss header. All but the last two end with the link down; hot reset, PERST_N and the FLR also reset the host interface's enables. PERST_N with CXL_CFG bit 0 begins a device reset. DL_UP and the release of PERST_N bring the link up with its width and speed, the loss over, IDE_REQUIRED taken from CXL_CFG. A retrain is counted, and a lower width or speed recorded. IDE_KM keying over an established session sets IDE security. A configuration write stores its bit while the link is up and nothing else. -/
def Obligations.HostLinkLossAndUp : Prop :=
  (∀ (s : State) (i : Instr),
    s.Alive →
    s.cxl.linkUp = true ∧ s.cxl.lost = false ∧ s.glb.fatal = false ∧ s.glb.initDone = true →
    i ∈ [Instr.dlDown, .hotReset, .pf0Flr, .ideIntegrityFailure] →
    ∃ t, exec i s = .next t ∧ t.cxl.lossSeen = true ∧ t.cxl.losses = sat 255 (s.cxl.losses + 1) ∧ t.journal.losses = (s.journal.losses + 1) % 2 ^ 32 ∧ t.journal.lossStamp = s.now ∧
      t.cxl.linkUp = decide (i = .pf0Flr ∨ i = .ideIntegrityFailure) ∧ t.cxl.lost = decide (i ≠ .pf0Flr) ∧ t.cxl.ideFail = (s.cxl.ideFail || decide (i = .ideIntegrityFailure)) ∧
      (i = .hotReset ∨ i = .pf0Flr → t.cxl.memSpace = false ∧ t.cxl.busMaster = false ∧ t.cxl.vfEnable = false ∧ t.cxl.hdmBase = none)) ∧
  (∀ (s : State),
    s.Alive →
    s.cxl.linkUp = false ∨ s.cxl.lost = true →
    exec .dlDown s = .next (linkDown s)) ∧
  (∀ (s : State) (w sp : Nat) (f : Bool),
    s.Alive →
    wfLink w sp f = true →
    (s.pkg.perst = true → exec (.dlUp w sp f) s = .next s) ∧ (s.pkg.perst = false → exec (.dlUp w sp f) s = .next (commitNow s (linkUpWith s w sp f)))) ∧
  (∀ (s : State) (w sp : Nat) (f : Bool),
    (linkUpWith s w sp f).cxl.linkUp = true ∧ (linkUpWith s w sp f).cxl.lost = false ∧ (linkUpWith s w sp f).cxl.width = w ∧ (linkUpWith s w sp f).cxl.speed = sp ∧ (linkUpWith s w sp f).cxl.ideRequired = bitAt s.cxl.cfg 1) ∧
  (∀ (s : State),
    s.Powered →
    (s.pkg.inReset = true → exec .perstAssert s = .next { s with pkg := { s.pkg with perst := true } }) ∧
      (s.pkg.inReset = false → bitAt s.cxl.cfg 0 = true → ∃ t, exec .perstAssert s = .next t ∧ t.pkg.inReset = true ∧ t.pkg.perstReset = true ∧ t.glb = Glb.reset ∧ t.cxl = Cxl.reset ∧ t.hbm.cells = s.hbm.cells) ∧
      (s.pkg.inReset = false → bitAt s.cxl.cfg 0 = false → ∃ t, exec .perstAssert s = .next t ∧ t.cxl.linkUp = false ∧ t.cxl.memSpace = false ∧ t.pkg.perst = true ∧ t.cxl.losses = (if s.cxl.linkUp = true ∧ s.cxl.lost = false then sat 255 (s.cxl.losses + 1) else s.cxl.losses))) ∧
  (∀ (s : State) (w sp : Nat) (f : Bool),
    s.Powered →
    wfLink w sp f = true →
    ∃ t, exec (.perstRelease w sp f) s = .next t ∧ t.pkg.perst = false ∧
      (s.pkg.inReset = false → s.pkg.testMode = false → s.pkg.perstReset = false → t.cxl.linkUp = true ∧ t.cxl.lost = false ∧ t.cxl.width = w ∧ t.cxl.speed = sp) ∧
      (s.pkg.inReset = true → s.pkg.perstReset = true → s.pkg.refclk = true → t.pkg.inReset = false ∧ t.pkg.perstReset = false)) ∧
  (∀ (s : State) (w sp : Nat) (f : Bool),
    s.Ready →
    wfLink w sp f = true →
    s.cxl.linkUp = true →
    exec (.linkRetrain w sp f) s = .next (
        let u := bump (modCxl s fun c => { c with retrains := sat 65535 (c.retrains + 1), width := w, speed := sp, flit256 := f, retrainSeen := c.retrainSeen || (decide (w < s.cxl.width) || decide (sp < s.cxl.speed)) }) (cxlCnt 12) 1
        if w < s.cxl.width ∨ sp < s.cxl.speed then codexHand (mark u 0x180008 3) 0x51 cxlSource 0xFF (codexCause 0 0) else u)) ∧
  (∀ (s : State) (n : Nat) (a : Bool),
    s.Ready →
    s.cxl.linkUp = true →
    ∃ t, exec (.ideKmKeyProg n a) s = .next t ∧ t.cxl.ideSecure = (if (s.sec.sessions.any fun x => x.id = n && x.bus = .doe && x.established) then a else s.cxl.ideSecure)) ∧
  (∀ (s : State) (op : ConfigOp),
    s.Alive →
    configFn op = true →
    s.cxl.linkUp = false →
    exec (.configWrite op) s = .next s) ∧
  (∀ (s : State) (b : Bool),
    s.Alive →
    s.cxl.linkUp = true ∧ s.glb.initDone = true →
    (∃ t, exec (.configWrite (.busMaster b)) s = .next t ∧ t.cxl.busMaster = b ∧ t.cxl.memSpace = s.cxl.memSpace) ∧ (∃ t, exec (.configWrite (.memorySpace b)) s = .next t ∧ t.cxl.memSpace = b ∧ t.cxl.busMaster = s.cxl.busMaster) ∧
      (∃ t, exec (.configWrite (.vfEnable b)) s = .next t ∧ t.cxl.vfEnable = b) ∧ (∃ t, exec (.configWrite (.cacheEnable b)) s = .next t ∧ t.cxl.cacheEnable = b) ∧ (∃ t, exec (.configWrite (.memEnable b)) s = .next t ∧ t.cxl.memEnable = b) ∧
      (∃ t, exec (.configWrite (.ats 0 b)) s = .next t ∧ (b = false → t.xl.atc = s.xl.atc.filter fun y => y.fn ≠ 0)))

/-- Completions and timeouts of device reads, ATS results and invalidations, and page-request answers (R389, R391, R395, R407, R408, R410, R411, R417). A completion ends the read's access with its bytes padded to its length and its poison, or a memory write's access in success, or KEY_INVALID where the status is an error; a timeout ends it HOST_LINK_LOST and is counted; one of no outstanding read, or of a write, changes nothing. A translation result nothing asked for changes nothing, and one for a request an invalidation overtook only forgets the request; a granted one is cached, oldest translations going beyond 65,536, and what waited goes on. An invalidation is counted, drops cached and pinned translations of its pages, asks again for the pinned ones and is answered at once where no issued request used them. A page-request answer of success asks for the translation again; the other codes end every waiter of the fault, and a response failure stops the function's page requests. -/
def Obligations.HostReadsAndTranslations : Prop :=
  (∀ (s : State) (r : Nat),
    s.Ready →
    s.cxl.reads.lookup r = none →
    ∀ i ∈ [Instr.completionTimeout r, .hostReadCompletion r [] .success false, .hostReadCompletion r [1] .completerAbort true], exec i s = .next s) ∧
  (∀ (s : State) (r : Nat) (x : HostRead) (data : List Byte) (p : Bool),
    s.Ready →
    s.cxl.reads.lookup r = some x →
    exec (.hostReadCompletion r data .success p) s = .next (commitNow s (settleAll (atsPump (
        let u := if p then bump (modCxl s fun c => { c with reads := tdel c.reads r }) (cxlCnt 16) 1 else modCxl s fun c => { c with reads := tdel c.reads r }
        if x.write = true then endAccess u x.access 0 else endAccess (bwBytes u 28 false x.len) x.access 0 (padTo x.len data) p)))) ∧
      (∀ st ∈ [HostStatus.unsupportedRequest, .completerAbort], exec (.hostReadCompletion r data st false) s = .next (commitNow s (settleAll (atsPump (endAccess (modCxl s fun c => { c with reads := tdel c.reads r }) x.access 0xC))))) ∧
      (x.write = false → exec (.completionTimeout r) s = .next (commitNow s (settleAll (atsPump (endAccess (bump (modCxl s fun c => { c with reads := tdel c.reads r }) (cxlCnt 17) 1) x.access 6))))) ∧
      (x.write = true → exec (.completionTimeout r) s = .next s)) ∧
  (∀ (s : State) (fn pasid page target : Nat) (r w : Bool),
    s.Ready →
    wfFn fn = true →
    (s.xl.stale.contains (fn, pasid, page) = true → exec (.atsTranslationResult fn pasid page r w target) s = .next (modXl s fun x => { x with stale := x.stale.erase (fn, pasid, page) })) ∧
      (s.xl.stale.contains (fn, pasid, page) = false → asking s fn pasid page = [] → (s.xl.faults.filter fun f => !f.resolved && f.pri = 2 && f.key = .host fn pasid page) = [] → (s.xl.pinAsk.find? fun x => x.fn = fn && x.pasid = pasid && x.page = page) = none →
        exec (.atsTranslationResult fn pasid page r w target) s = .next { s with fns := tmap s.fns fun _ f => { f with awaits := f.awaits.erase (.xlat fn pasid page) } })) ∧
  (∀ (s : State) (fn pasid page target : Nat) (r w : Bool) (a : Access),
    s.Ready →
    wfFn fn = true →
    (s.xl.stale.contains (fn, pasid, page) = false ∧ (s.xl.pinAsk.find? fun x => x.fn = fn && x.pasid = pasid && x.page = page) = none) →
    (asking s fn pasid page = [a] ∧ (s.xl.faults.filter fun f => !f.resolved && f.pri = 2 && f.key = .host fn pasid page) = []) →
    (r = true ∧ (a.write = true → w = true)) →
    exec (.atsTranslationResult fn pasid page r w target) s = .next (commitNow s (settleAll (tryAccess (modXl { s with fns := tmap s.fns fun _ f => { f with awaits := f.awaits.erase (.xlat fn pasid page) } } fun t => { t with atc := (⟨fn, pasid, page, 1, target, r, w, 0⟩ :: t.atc.filter fun z => !z.covers fn pasid page 1).take 65536 }) a.id)))) ∧
  (∀ (s : State) (fn pasid page count : Nat),
    s.Ready →
    wfFn fn = true →
    ∃ t, exec (.atsInvalidationRequest fn pasid page count) s = .next t ∧ t.xl.atc = s.xl.atc.filter (fun y => !y.covers fn pasid page count) ∧ t.xl.pinned = s.xl.pinned.filter (fun y => !y.covers fn pasid page count) ∧
      t.xl.pinAsk = s.xl.pinAsk ++ s.xl.pinned.filter (fun y => y.covers fn pasid page count) ∧ t.hbm = s.hbm ∧ t.qps = s.qps ∧
      (s.xl.accesses = [] → s.xl.faults = [] → (s.xl.pinned.filter fun y => y.covers fn pasid page count) = [] → s.xl.atsInv = [] → t.outbox = s.outbox ++ [.atsInvalidated fn pasid page])) ∧
  (∀ (s : State) (f : FaultRec) (fn pasid page : Nat),
    s.Ready →
    ((s.xl.faults.find? fun g => g.id = f.id && !g.resolved && g.pri = 1) = some f) →
    f.key = .host fn pasid page →
    exec (.prgResponse f.id .success) s = .next (bump (emit (modXl s fun x => { x with faults := x.faults.map fun g => if g.id = f.id then { g with pri := 2 } else g }) (.atsRequest fn pasid page f.write)) (cxlCnt 8) 1) ∧
      exec (.prgResponse f.id .invalidRequest) s = .next (commitNow s (settleAll (abortFault s f.id))) ∧
      exec (.prgResponse f.id .responseFailure) s = .next (commitNow s (settleAll (abortFault (modFn s fn fun x => { x with priStopped := true }) f.id))))

/-- CXL.mem reads and writes, the HDM decoder, snoops, BIAS_SET and its page changes, CXL.cache answers (R378, R384, R385, R386, R387, R388, R390, R518). A CXL.mem access beyond the 288 granules stops as no such memory. One that arrives on a working link with the decoder committed is served: a read of a line of a filled granule the host may reach answers its bytes and poison, one of another line answers zeros and is counted as denied; a full-line write stores its bytes, a poisoned one marks the line, and a denied one stores nothing. Without link, decoder or enable it is discarded; an access to a page whose bias changes waits. In the fatal state the answer is poison. A snoop misses. A decoder base must be 256 MiB aligned. BIAS_SET checks its range and the link and joins the queue; a page's bit changes once its flushes are answered. A cache answer leaves the list, its data standing in for HBM. -/
def Obligations.CxlMemoryAndBias : Prop :=
  (∀ (s : State) (a : Nat) (p q : Bool) (d : Line) (m : BitVec 64),
    288 * 2 ^ 30 ≤ a →
    exec (.cxlMemRead a p) s = .fault .noSuchMemory ∧ exec (.cxlMemWrite a d m q p) s = .fault .noSuchMemory) ∧
  (∀ (s : State) (a : Nat) (p : Bool),
    s.Ready →
    a < 288 * 2 ^ 30 →
    (s.cxl.linkUp && !s.cxl.lost && s.cxl.hdmBase.isSome && s.cxl.memEnable && linkAlive s) = true →
    biasChanging s a = false →
    exec (.cxlMemRead a p) s = .next (commitNow s (shadowPump (if hdmAllowed s a = true ∧ hdmFilled s (a / 64 * 64) = true then
        emit (bwBytes (hbmLines (bump (bump s (cxlCnt 4) 1) (devCnt 0) 1) cxlSource none 1) 28 true 64) (.memData (a / 64 * 64) (ofBytes 512 (readPhys s (a / 64 * 64) 64)) (lineBad s (a / 64 * 64 / 64)))
      else emit (bump (modCxl (mark s 0x190040 1) fun c => { c with deniedSeen := true, denied := sat (2 ^ 32 - 1) (c.denied + 1) }) (cxlCnt 6) 1) (.memData (a / 64 * 64) 0 false))))) ∧
  (∀ (s : State) (a : Nat) (p q : Bool) (d : Line),
    s.Ready →
    a < 288 * 2 ^ 30 →
    (s.cxl.linkUp && !s.cxl.lost && s.cxl.hdmBase.isSome && s.cxl.memEnable && linkAlive s) = true →
    biasChanging s a = false →
    exec (.cxlMemWrite a d (-1) q p) s = .next (commitNow s (shadowPump (if hdmAllowed s a = true ∧ hdmFilled s (a / 64 * 64) = true then
        (if q then bump (markPoison (notePlaced (bwBytes (hbmLines (bump s (cxlCnt 5) 1) cxlSource none 1) 28 false 64) [1] (a / 64 * 64)) (a / 64 * 64 / 64)) (cxlCnt 16) 1
        else maskWrite (bwBytes (hbmLines (bump s (cxlCnt 5) 1) cxlSource none 1) 28 false 64) (a / 64 * 64) d (-1))
      else bump (modCxl (mark s 0x190040 1) fun c => { c with deniedSeen := true, denied := sat (2 ^ 32 - 1) (c.denied + 1) }) (cxlCnt 6) 1)))) ∧
  (∀ (s : State) (a : Nat) (d : Line),
    maskWrite s a d (-1) = wrPhys (notePlaced (logAlloc s a 64) (List.range 64) a) a (bytesOf d)) ∧
  (∀ (s : State) (a : Nat) (p : Bool),
    s.Ready →
    a < 288 * 2 ^ 30 →
    s.glb.fatal = false →
    (s.cxl.linkUp = false ∨ s.cxl.lost = true ∨ s.cxl.hdmBase = none ∨ s.cxl.memEnable = false → exec (.cxlMemRead a p) s = .next s ∧ exec (.cxlMemWrite a 0 0 false p) s = .next s) ∧
      (s.cxl.linkUp = true → s.cxl.lost = false → s.cxl.hdmBase ≠ none → s.cxl.memEnable = true → linkAlive s = true → biasChanging s a = true →
        exec (.cxlMemRead a p) s = .next (modCxl s fun c => { c with biasWait := c.biasWait ++ [.mem a none (hdmAllowed s a)] }))) ∧
  (∀ (s : State) (a : Nat) (p : Bool),
    a < 288 * 2 ^ 30 →
    s.glb.fatal = true ∧ s.cxl.linkUp = true →
    exec (.cxlMemRead a p) s = .next (emit s (.memData (a / 64 * 64) 0 true))) ∧
  (∀ (s : State) (a : Nat),
    s.Ready →
    exec (.hostSnoop a) s = .next (if linkAlive s = true then emit s (.snoopMiss a) else s)) ∧
  (∀ (s : State) (b : Nat),
    s.BarReady →
    exec (.hdmDecoderCommit b) s = .next (if b % 2 ^ 28 = 0 then modCxl s fun c => { c with hdmBase := some b } else s)) ∧
  (∀ (s : State) (d : Line),
    s.MgrReady →
    exec (.biasSet d) s = .next (commitNow s (
        if dfld d 20 0 27 = 0 ∨ dfld d 16 0 27 < 4 * 2 ^ 18 ∨ 288 * 2 ^ 18 < dfld d 16 0 27 + dfld d 20 0 27 then mgrFail (takeHanded s .mgrSq d) d 3
        else if dbit d 24 0 = true ∧ (s.cxl.lost = true ∨ s.cxl.linkUp = false ∨ s.cxl.hdmBase = none) then mgrFail (takeHanded s .mgrSq d) d 2
        else if s.cxl.biasJob = [] then biasNext 1 (modCxl (takeHanded s .mgrSq d) fun c => { c with biasJob := c.biasJob ++ [(d, dfld d 16 0 27, dfld d 20 0 27, dbit d 24 0)] })
        else modCxl (takeHanded s .mgrSq d) fun c => { c with biasJob := c.biasJob ++ [(d, dfld d 16 0 27, dfld d 20 0 27, dbit d 24 0)] }))) ∧
  (∀ (s : State) (p pg left : Nat) (d : Line) (host : Bool) (rest : List (Line × Nat × Nat × Bool)),
    s.Ready →
    s.cxl.biasJob = (d, pg, left, host) :: rest →
    (p ≠ pg ∨ (s.cxl.cacheReqs.any fun r => r.2.flush && r.2.line / 64 = pg) = true → exec (.biasPageChange p) s = .next s) ∧
      (p = pg → (s.cxl.cacheReqs.any fun r => r.2.flush && r.2.line / 64 = pg) = false → s.cxl.biasWait = [] →
        exec (.biasPageChange p) s = .next (commitNow s (settleAll (biasNext (rest.length + 1) (modCxl s fun c => { c with biasWait := [], biasJob := (d, pg + 1, left - 1, host) :: rest, hostBias := if host then pg :: c.hostBias else c.hostBias.filter (· ≠ pg) })))))) ∧
  (∀ (s : State) (n : Nat) (x : Option Line),
    s.Ready →
    (s.cxl.cacheReqs.lookup n = none → exec (.cxlCacheResponse n x) s = .next s) ∧
      (∀ r, s.cxl.cacheReqs.lookup n = some r → r.access = none → r.job = none →
        exec (.cxlCacheResponse n x) s = .next (commitNow s (match x with
          | some d => if (r.write && !r.flush) = true then wrPhys (modCxl s fun c => { c with cacheReqs := tdel c.cacheReqs n }) (64 * r.line) (bytesOf d) else modCxl s fun c => { c with cacheReqs := tdel c.cacheReqs n }
          | none => modCxl s fun c => { c with cacheReqs := tdel c.cacheReqs n }))))

/-- CTX_CREATE, CTX_DESTROY, SEG_SET, SEG_INVALIDATE and its end (R402, R403, R404, R405, R415, R416). CTX_CREATE for a function of the named carrel's domain creates the lowest free context of its pool and answers its number, with no pool entry left it fails with reason 4; a carrel number above 64 gives 3, a function of another domain 1. CTX_DESTROY removes a context without segments that nothing names, with reasons 1 and 2 otherwise. SEG_SET stores an entry whose fields, overlap and target range are good, pinned pages being taken first, with reason 1 for no context, 2 for an entry in use or a range in granules that leave, 3 for bad fields. SEG_INVALIDATE of an entry that stands, in which no ring lies, withdraws it, with reasons 1 and 2 otherwise; it completes once nothing holds the entry, which is then gone. -/
def Obligations.ContextsAndSegments : Prop :=
  (∀ (s : State) (d : Line) (dom : Domain),
    s.MgrReady →
    dfld d 16 0 7 ≤ 64 →
    dfld d 18 0 16 ≤ 512 ∧ fnDom s (dfld d 18 0 16) = some (dfld d 16 0 7) →
    getDom s (dfld d 16 0 7) = some dom →
    exec (.ctxCreate d) s = .next (commitNow s (
        let i := freeFrom (fun i => (getCtx s i).isSome) s.xl.ctxs.length dom.cfg.ctxBase
        if dom.cfg.ctxBase + dom.cfg.ctxCount ≤ i ∨ 4096 ≤ i then mgrFail (takeHanded s .mgrSq d) d 4
        else mgrOk (modXl (takeHanded s .mgrSq d) fun t => { t with ctxs := tput t.ctxs i { dom := dfld d 16 0 7, atsFn := dfld d 18 0 16, pasid := dfld d 20 0 20, pasidEn := dbit d 22 4, timeoutMs := max 1 (dfld d 24 0 16), segs := [] } }) d i))) ∧
  (∀ (s : State) (d : Line),
    s.MgrReady →
    (64 < dfld d 16 0 7 → exec (.ctxCreate d) s = .next (commitNow s (mgrFail (takeHanded s .mgrSq d) d 3))) ∧
      (dfld d 16 0 7 ≤ 64 → dfld d 18 0 16 ≤ 512 → fnDom s (dfld d 18 0 16) ≠ some (dfld d 16 0 7) → exec (.ctxCreate d) s = .next (commitNow s (mgrFail (takeHanded s .mgrSq d) d 1)))) ∧
  (∀ (s : State) (d : Line),
    s.MgrReady →
    exec (.ctxDestroy d) s = .next (commitNow s (match s.xl.ctxs.lookup (dfld d 16 0 12) with
        | none => mgrFail (takeHanded s .mgrSq d) d 1
        | some x => if x.segs ≠ [] ∨ ctxNamed s (dfld d 16 0 12) = true then mgrFail (takeHanded s .mgrSq d) d 2
          else mgrOk (modXl (takeHanded s .mgrSq d) fun t => { t with ctxs := tdel t.ctxs (dfld d 16 0 12) }) d))) ∧
  (∀ (s : State) (d : Line) (x : Ctx) (pins : List Pin),
    s.MgrReady →
    s.xl.ctxs.lookup (dfld d 16 0 12) = some x →
    x.segs.lookup (dfld d 18 0 4) = none →
    (segFields (segOf d) = true ∧ (x.segs.any fun e => e.2.base < (segOf d).base + (segOf d).len && (segOf d).base < e.2.base + e.2.len) = false ∧ segTarget s x.dom (segOf d) = true ∧ ((segOf d).target = 1 → leaving s x.dom (segOf d).tbase (segOf d).len = false)) →
    (segOf d).pinned = false ∨ pinRange (takeHanded s .mgrSq d) x [(dfld d 18 0 4, segOf d, (segOf d).base, (segOf d).len)] pins = .ok (takeHanded s .mgrSq d) →
    exec (.segSet d pins) s = .next (commitNow s (mgrOk (modCtx (takeHanded s .mgrSq d) (dfld d 16 0 12) fun x => { x with segs := tput x.segs (dfld d 18 0 4) (segOf d) }) d))) ∧
  (∀ (s : State) (d : Line) (x : Ctx) (pins : List Pin),
    s.MgrReady →
    s.xl.ctxs.lookup (dfld d 16 0 12) = some x →
    x.segs.lookup (dfld d 18 0 4) = none →
    (segFields (segOf d) = true ∧ (x.segs.any fun e => e.2.base < (segOf d).base + (segOf d).len && (segOf d).base < e.2.base + e.2.len) = false ∧ segTarget s x.dom (segOf d) = true ∧ (segOf d).target = 1 ∧ leaving s x.dom (segOf d).tbase (segOf d).len = true) →
    exec (.segSet d pins) s = .next (commitNow s (mgrFail (takeHanded s .mgrSq d) d 2))) ∧
  (∀ (s : State) (d : Line) (pins : List Pin),
    s.MgrReady →
    (s.xl.ctxs.lookup (dfld d 16 0 12) = none → exec (.segSet d pins) s = .next (commitNow s (mgrFail (takeHanded s .mgrSq d) d 1))) ∧
      (∀ x, s.xl.ctxs.lookup (dfld d 16 0 12) = some x → (x.segs.lookup (dfld d 18 0 4)).isSome = true → exec (.segSet d pins) s = .next (commitNow s (mgrFail (takeHanded s .mgrSq d) d 2))) ∧
      (∀ x, s.xl.ctxs.lookup (dfld d 16 0 12) = some x → x.segs.lookup (dfld d 18 0 4) = none → segFields (segOf d) = false → exec (.segSet d pins) s = .next (commitNow s (mgrFail (takeHanded s .mgrSq d) d 3)))) ∧
  (∀ (s : State) (d : Line),
    s.MgrReady →
    (((s.xl.ctxs.lookup (dfld d 16 0 12)).bind fun x => x.segs.lookup (dfld d 18 0 4)) = none → exec (.segInvalidate d) s = .next (commitNow s (mgrFail (takeHanded s .mgrSq d) d 1))) ∧
      (∀ g, ((s.xl.ctxs.lookup (dfld d 16 0 12)).bind fun x => x.segs.lookup (dfld d 18 0 4)) = some g → g.withdrawn.isSome = true ∨ ringInSeg s (dfld d 16 0 12) (dfld d 18 0 4) = true →
        exec (.segInvalidate d) s = .next (commitNow s (mgrFail (takeHanded s .mgrSq d) d 2))) ∧
      (∀ g, ((s.xl.ctxs.lookup (dfld d 16 0 12)).bind fun x => x.segs.lookup (dfld d 18 0 4)) = some g → g.withdrawn = none → ringInSeg s (dfld d 16 0 12) (dfld d 18 0 4) = false → g.invAbort = false →
        exec (.segInvalidate d) s = .next (commitNow s (settleAll (modCtx (takeHanded s .mgrSq d) (dfld d 16 0 12) fun x => { x with segs := tupd x.segs (dfld d 18 0 4) fun g => { g with withdrawn := some d } }))))) ∧
  (∀ (s : State) (c i : Nat) (x : Ctx) (g : Seg) (d : Line),
    s.Ready →
    s.xl.ctxs.lookup c = some x →
    x.segs.lookup i = some g →
    g.withdrawn = some d ∧ g.log = none ∧ g.pinned = false ∧ g.target ≠ 0 →
    (segHolders s c g = [] ∧ (s.xl.accesses.any fun a => a.ctx = c && a.seg = i) = false ∧ nearUnanswered s g = false) →
    exec (.segInvalidateDone c i) s = .next (commitNow s (mgrOk (modCtx s c fun x => { x with segs := tdel x.segs i }) d))) ∧
  (∀ (s : State) (c i : Nat),
    s.Ready →
    (((s.xl.ctxs.lookup c).bind fun x => (x.segs.lookup i).bind fun g => g.withdrawn) = none) →
    exec (.segInvalidateDone c i) s = .next s)

/-- FAULT_RESUME, the close of a waiter's window, and DIRTY_LOG of a segment (R411, R413, R418, R442). FAULT_RESUME of an open fault resolves it and its waiters go on, or with bit 0 of byte 20 ends them, and then completes; for another fault it fails with reason 1. The window of a waiter, the context's timeout after it began to wait, ends its access with PAGE_FAULT at the close. DIRTY_LOG of no entry gives reason 1, of an undefined operation 3; START of a log that stands 2; HARVEST and STOP of none 2; START with bitmaps in PF0's allocation zeroes the first and logs from the next folio; a harvest completes later. -/
def Obligations.FaultsAndDirtyLogs : Prop :=
  (∀ (s : State) (d : Line),
    s.MgrReady →
    exec (.faultResume d) s = .next (commitNow s (
        if (s.xl.faults.any fun f => f.id = dfld d 16 0 32 && !f.resolved) = false then mgrFail (takeHanded s .mgrSq d) d 1
        else if dbit d 20 0 = true then settleAll (mgrOk (modXl (abortFault (takeHanded s .mgrSq d) (dfld d 16 0 32)) fun x => { x with faults := x.faults.map fun f => if f.id = dfld d 16 0 32 then { f with resolved := true } else f }) d)
        else settleAll (mgrOk (resolveFault (takeHanded s .mgrSq d) (dfld d 16 0 32)) d)))) ∧
  (∀ (s : State) (f id : Nat) (a : Access) (o : Gtc),
    s.running = true →
    ((s.xl.accesses.find? fun a => a.id = id && a.result.isNone && (match a.fault with | some (g, _) => g = f | none => false)) = some a) →
    a.fault = some (f, o) →
    s.Reaches (o + 16000000 * ((s.xl.ctxs.lookup a.ctx).map (·.timeoutMs)).getD 1) →
    exec (.faultWaiterTimeout f id) s = .next (commit s (waiterTimeout (s.goTo (o + 16000000 * ((s.xl.ctxs.lookup a.ctx).map (·.timeoutMs)).getD 1)) f id))) ∧
  (∀ (s : State) (f id : Nat) (a : Access),
    ((s.xl.accesses.find? fun a => a.id = id && a.result.isNone && (match a.fault with | some (g, _) => g = f | none => false)) = some a) →
    waiterTimeout s f id = settleAll (closeEmptyFaults (endAccess s id 3))) ∧
  (∀ (s : State) (f id : Nat),
    s.Ready →
    ((s.xl.accesses.find? fun a => a.id = id && a.result.isNone && (match a.fault with | some (g, _) => g = f | none => false)) = none) →
    exec (.faultWaiterTimeout f id) s = .next s) ∧
  (∀ (s : State) (d : Line),
    s.MgrReady →
    (((s.xl.ctxs.lookup (dfld d 16 0 12)).bind fun x => x.segs.lookup (dfld d 18 0 4)) = none) →
    exec (.dirtyLog d) s = .next (commitNow s (mgrFail (takeHanded s .mgrSq d) d (if dfld d 18 4 2 = 3 then 3 else 1)))) ∧
  (∀ (s : State) (d : Line) (g : Seg),
    s.MgrReady →
    (((s.xl.ctxs.lookup (dfld d 16 0 12)).bind fun x => x.segs.lookup (dfld d 18 0 4)) = some g) →
    exec (.dirtyLog d) s = .next (commitNow s (match logCommand (takeHanded s .mgrSq d) g.log (dfld d 18 4 2) (dfld d 24 0 39) (dfld d 32 0 39) (bitmapLen g.len) d with
        | .error r => mgrFail (takeHanded s .mgrSq d) d r
        | .ok (u, l) => if dfld d 18 4 2 = 1 then modCtx u (dfld d 16 0 12) fun x => { x with segs := tupd x.segs (dfld d 18 0 4) fun g => { g with log := some l } }
          else mgrOk (modCtx u (dfld d 16 0 12) fun x => { x with segs := tupd x.segs (dfld d 18 0 4) fun g => { g with log := some l } }) d))) ∧
  (∀ (s : State) (l : DirtyLog) (b0 b1 n : Nat) (d : Line),
    l.stopAt = none →
    logCommand s (some l) 0 b0 b1 n d = .error 2 ∧ logCommand s none 1 b0 b1 n d = .error 2 ∧ logCommand s none 2 b0 b1 n d = .error 2 ∧ logCommand s none 3 b0 b1 n d = .error 3 ∧
      (b0 % 64 = 0 → b1 % 64 = 0 → domNamed s 64 b0 n = true → domNamed s 64 b1 n = true → logCommand s none 0 b0 b1 n d = .ok (wrAlloc s 64 b0 (List.replicate n 0), ⟨b0, b1, 0, s.folio + 1, none, none⟩)) ∧
      (l.harvest = none → logCommand s (some l) 1 b0 b1 n d = .ok (wrAlloc s 64 (if l.active = 0 then l.bitmap1 else l.bitmap0) (List.replicate n 0), { l with harvest := some (s.folio + 1, d) })) ∧
      logCommand s (some l) 2 b0 b1 n d = .ok (s, { l with stopAt := some (s.folio + 1) }))

/-- Staging, destroying, suspending, exporting and importing a carrel, and its dirty log (R429, R430, R431, R433, R439, R440, R442). CARREL_STAGE reads a 704-byte descriptor of PF0's allocation and, where every check of Table 16.5 passes, holds it for the next tick with the stages it displaces; a bad pointer gives reason 3 and a failed check its own reason. CARREL_DESTROY of an empty carrel and CARREL_SUSPEND and RESUME of one that is there wait for the next tick, with reason 1 for none, 2 for one in use and 3 for a number that is no carrel. CARREL_EXPORT of a carrel not quiesced gives 2. CARREL_IMPORT of a good export into a suspended carrel that owns nothing restores what the export holds. ALLOC_DIRTY runs the log operation of R418 on the carrel's granules past the transport region. -/
def Obligations.CarrelCommands : Prop :=
  (∀ (s : State) (d : Line) (bs : List Byte),
    s.MgrReady →
    dfld d 16 0 39 % 64 = 0 ∧ domNamed s 64 (dfld d 16 0 39) 704 = true ∧ allocPoison s 64 (dfld d 16 0 39) 704 = false →
    rdAlloc s 64 (dfld d 16 0 39) 704 = some bs →
    exec (.carrelStage d) s = .next (commitNow s (
        if stageReason s (parseCarrel bs).1 (parseCarrel bs).2 bs ≠ 0 then mgrFail (takeHanded s .mgrSq d) d (stageReason s (parseCarrel bs).1 (parseCarrel bs).2 bs)
        else { takeHanded s .mgrSq d with stages := tput s.stages (parseCarrel bs).1 ((parseCarrel bs).2, d, match s.stages.lookup (parseCarrel bs).1 with | some x => x.2.2 ++ [x.2.1] | none => []) }))) ∧
  (∀ (s : State) (d : Line),
    s.MgrReady →
    dfld d 16 0 39 % 64 ≠ 0 ∨ domNamed s 64 (dfld d 16 0 39) 704 = false ∨ allocPoison s 64 (dfld d 16 0 39) 704 = true →
    exec (.carrelStage d) s = .next (commitNow s (mgrFail (takeHanded s .mgrSq d) d 3))) ∧
  (∀ (s : State) (d : Line) (dom : Domain),
    s.MgrReady →
    getDom s (dfld d 16 0 6) = some dom →
    dom.cfg.vfs = 0 ∧ dom.allocLog = none ∧ dom.destroyNext = none →
    s.qps = [] ∧ s.regions = [] ∧ s.xl.ctxs = [] ∧ s.stages = [] ∧ s.col.comms = [] →
    exec (.carrelDestroy d) s = .next (modDom (takeHanded s .mgrSq d) (dfld d 16 0 6) fun x => { x with destroyNext := some d })) ∧
  (∀ (s : State) (d : Line),
    s.MgrReady →
    getDom s (dfld d 16 0 6) = none →
    ∀ i ∈ [Instr.carrelDestroy d, .carrelExport d, .carrelImport d, .allocDirty d], exec i s = .next (commitNow s (mgrFail (takeHanded s .mgrSq d) d 1))) ∧
  (∀ (s : State) (d : Line) (b : Bool) (i : Instr),
    s.MgrReady →
    i = (if b then .carrelSuspend d else .carrelResume d) →
    exec i s = .next (commitNow s (
        if 64 ≤ dfld d 16 0 7 then mgrFail (takeHanded s .mgrSq d) d 3
        else match getDom s (dfld d 16 0 7) with
          | none => mgrFail (takeHanded s .mgrSq d) d 1
          | some dom => modDom (takeHanded s .mgrSq d) (dfld d 16 0 7) fun x => { x with suspendNext := some (b, d, match dom.suspendNext with | some y => y.2.2 ++ [y.2.1] | none => []) }))) ∧
  (∀ (s : State) (d : Line) (dom : Domain),
    s.MgrReady →
    getDom s (dfld d 16 0 6) = some dom →
    (dom.quiesced = false → exec (.carrelExport d) s = .next (commitNow s (mgrFail (takeHanded s .mgrSq d) d 2))) ∧
      (dom.suspended = false → exec (.carrelImport d) s = .next (commitNow s (mgrFail (takeHanded s .mgrSq d) d 2))) ∧
      (dom.quiesced = true → exportBound dom.cfg ≤ dfld d 32 0 32 → domNamed s 64 (dfld d 24 0 39) (dfld d 32 0 32) = true →
        exec (.carrelExport d) s = .next (commitNow s (carrelExport (takeHanded s .mgrSq d) d)) ∧ (carrelExport s d).exports.length = s.exports.length + 1 ∧ (carrelExport s d).draws = s.draws + 1 ∧
        (carrelExport s d).exports.head? = some (snapshot s (dfld d 16 0 6) dom.cfg (bytesOf (draw s 512).1)))) ∧
  (∀ (s : State) (d : Line) (dom : Domain) (h body : List Byte) (x : Export) (c off : Nat),
    s.MgrReady →
    c = dfld d 16 0 6 ∧ off = dfld d 24 0 39 →
    getDom s c = some dom →
    dom.suspended = true ∧ ownsObjects s c dom.cfg = false →
    domNamed s 64 off 768 = true ∧ allocPoison s 64 off 768 = false →
    rdAlloc s 64 off 768 = some h →
    rangesFit dom.cfg (parseCarrel (h.drop 64)).2 = true ∧ bfld h 12 0 32 = 0 ∧ bfld h 0 0 8 = 1 →
    domNamed s 64 (off + bfld h 16 0 32) (bfld h 20 0 32) = true ∧ allocPoison s 64 (off + bfld h 16 0 32) (bfld h 20 0 32) = false →
    rdAlloc s 64 (off + bfld h 16 0 32) (bfld h 20 0 32) = some body →
    domNamed s 64 (off + bfld h 8 0 32) 0 = true ∧ allocPoison s 64 (off + bfld h 8 0 32) 0 = false ∧ (rdAlloc s 64 (off + bfld h 8 0 32) 0).isSome = true →
    bodyOf s c dom.cfg body = x →
    (crc32c body).toNat = bfld h 4 0 32 →
    bfld h 2 0 10 = myCoord s →
    exec (.carrelImport d) s = .next (commitNow s (mgrOk (importErrors (importEqs { modXl (takeHanded s .mgrSq d) (fun t => { t with ctxs := x.ctxs.foldl (fun t e => tput t e.1 { e.2 with dom := c }) t.ctxs }) with
        qps := x.qps.foldl (fun t e => tput t e.1 (importQp e.2)) s.qps
        regions := x.regions.foldl (fun t e => tput t e.1 e.2) s.regions
        regionGen := x.regions.foldl (fun t e => tput t e.1 e.2.gen) s.regionGen
        trig := x.trig.foldl (fun t e => tput t e.1 e.2) s.trig
        cqs := x.cqs.foldl (fun t e => tput t e.1 e.2) s.cqs
        col := { s.col with comms := x.comms.foldl (fun t e => tput t e.1 e.2) s.col.comms } } x.eqs) x false) d))) ∧
  (∀ (s : State) (d : Line) (dom : Domain),
    s.MgrReady →
    getDom s (dfld d 16 0 6) = some dom →
    exec (.allocDirty d) s = .next (commitNow s (match logCommand (takeHanded s .mgrSq d) dom.allocLog (dfld d 17 0 2) (dfld d 24 0 39) (dfld d 32 0 39) ((dom.cfg.granules.length - dom.cfg.transport) * 32768) d with
        | .error r => mgrFail (takeHanded s .mgrSq d) d r
        | .ok (u, l) => if dfld d 17 0 2 = 1 then modDom u (dfld d 16 0 6) fun x => { x with allocLog := some l } else mgrOk (modDom u (dfld d 16 0 6) fun x => { x with allocLog := some l }) d)))

/-- VF enable, disable and reset from the command to its end, and commands of the scheduler that wait for a tick (R423, R435, R436, R437, R441, R453, R454). A VF trigger, by VF_RESET, VF_FLR or clearing ENABLE of an enabled VF, starts a reset whose fence lies at the next tick, or joins the one under way; a VF of no carrel is not touched, and VF_RESET then gives reason 1, for a number that is no VF reason 3. Setting ENABLE of a disabled VF enables it at the next tick. A reset that has been cleaned, with every request answered, ends: the VF is DISABLED, RESET_SEEN is set, it is counted and recorded, and the commands that waited complete. SCHED_CARREL, QP_SHAPE and QP_PEER_MOVE wait for the next tick, with reasons 1, 2 and 3 for what is not there, not in a live state or no domain number. -/
def Obligations.VfResetsAndShaping : Prop :=
  (∀ (s : State) (n : Nat),
    s.Ready →
    wfVf n = true →
    exec (.vfFlr n) s = .next (commitNow s (if s.cxl.linkUp = false ∨ s.glb.initDone = false ∨ (fnDom s n).isNone = true then s else vfTrigger s n true none))) ∧
  (∀ (s : State) (d : Line),
    s.MgrReady →
    exec (.vfReset d) s = .next (commitNow s (
        if dfld d 16 0 10 = 0 ∨ 512 < dfld d 16 0 10 then mgrFail (takeHanded s .mgrSq d) d 3
        else if (fnDom s (dfld d 16 0 10)).isNone = true then mgrFail (takeHanded s .mgrSq d) d 1
        else vfTrigger (takeHanded s .mgrSq d) (dfld d 16 0 10) true (some d)))) ∧
  (∀ (s : State) (n : Nat) (e : Bool) (c : Option Line),
    ((getFn s n).state ≠ .quiescing → s.cyc.ctlWas.lookup n = none → getFn (vfTrigger s n e c) n = { getFn s n with waiters := (getFn s n).waiters ++ c.toList, endEnabled := e, state := .quiescing, fence := some (s.folio + 1), fenced := false, cleaned := false, enableNext := false }) ∧
      ((getFn s n).state ≠ .quiescing → (getFn (ctlUndo s n) n).state ≠ .quiescing → getFn (vfTrigger s n e c) n = { getFn (ctlUndo s n) n with waiters := (getFn (ctlUndo s n) n).waiters ++ c.toList, endEnabled := e, state := .quiescing, fence := some (s.folio + 1), fenced := false, cleaned := false, enableNext := false }) ∧
      ((getFn s n).state = .quiescing → getFn (vfTrigger s n e c) n = { getFn s n with waiters := (getFn s n).waiters ++ c.toList, endEnabled := e })) ∧
  (∀ (s : State) (n : Nat) (v : W64) (i : Instr),
    s.BarReady →
    wfVf n = true →
    i = (if bitAt v 0 then .vfEnable n v else .vfDisable n v) →
    ∃ t, exec i s = .next t ∧ (getFn t n).resetSeen = ((getFn s n).resetSeen && !bitAt v 4) ∧
      ((fnDom s n).isNone = true → (getFn t n).enable = (getFn s n).enable ∧ (getFn t n).state = (getFn s n).state) ∧
      ((fnDom s n).isSome = true → (getFn t n).enable = bitAt v 0 ∧
        ((getFn s n).state = .enabled → (getFn t n).state = (if bitAt v 0 then .enabled else .quiescing)) ∧
        ((getFn s n).state = .disabled → (getFn t n).state = .disabled ∧ (getFn t n).enableNext = bitAt v 0) ∧
        ((getFn s n).state = .quiescing → (getFn t n).state = .quiescing ∧ (getFn t n).endEnabled = bitAt v 0))) ∧
  (∀ (s : State) (n k : Nat),
    s.Ready →
    wfVf n = true →
    (getFn s n).fence = some k ∧ (getFn s n).state = .quiescing ∧ (getFn s n).cleaned = true →
    vfAnswered s n = true ∨ k * s.F + 14400000 ≤ s.now →
    (getFn s n).waiters = [] →
    exec (.vfResetComplete n) s = .next (codexHand (modFn (mark s (0x1A1000 + 8 * (n - 1)) 4) n fun f => { f with state := .disabled, fence := none, fenced := false, cleaned := false, waiters := [], awaits := [], enableNext := f.endEnabled, resetSeen := true, resets := sat 65535 (f.resets + 1) }) 0x70 (fnSource n) (carrelField ((fnDom s n).getD 64)) (codexCause 0 n))) ∧
  (∀ (s : State) (n : Nat),
    s.Ready →
    wfVf n = true →
    (getFn s n).fence = none ∨ (getFn s n).state ≠ .quiescing ∨ (getFn s n).cleaned = false →
    exec (.vfResetComplete n) s = .next s) ∧
  (∀ (s : State) (d : Line),
    s.MgrReady →
    exec (.schedCarrel d) s = .next (commitNow s (
        if 64 < dfld d 16 0 7 then mgrFail (takeHanded s .mgrSq d) d 3
        else if getDom s (dfld d 16 0 7) = none then mgrFail (takeHanded s .mgrSq d) d 1
        else modDom (takeHanded s .mgrSq d) (dfld d 16 0 7) fun x => { x with schedNext := x.schedNext ++ [d] }))) ∧
  (∀ (s : State) (d : Line) (q : Qp),
    s.MgrReady →
    getQp s (dfld d 16 0 20) = some q →
    exec (.qpShape d) s = .next (commitNow s (if 64 ≤ qpDom s q then mgrFail (takeHanded s .mgrSq d) d 1 else { takeHanded s .mgrSq d with qpNext := s.qpNext ++ [(dfld d 16 0 20, d)] })) ∧
      exec (.qpPeerMove d) s = .next (commitNow s (if qpLive q = true then { takeHanded s .mgrSq d with qpNext := s.qpNext ++ [(dfld d 16 0 20, d)] } else mgrFail (takeHanded s .mgrSq d) d 2))) ∧
  (∀ (s : State) (d : Line),
    s.MgrReady →
    getQp s (dfld d 16 0 20) = none →
    ∀ i ∈ [Instr.qpShape d, .qpPeerMove d], exec i s = .next (commitNow s (mgrFail (takeHanded s .mgrSq d) d 1)))

/-- A carrel's counter dump, the end of a bandwidth window and a sample record (R459, R460, R463, R466). CNT_CARREL_DUMP of a carrel with a ring that is 64-byte aligned and inside its allocation makes it the carrel's ring from the next tick on, and fails with reason 3 for a bad ring or a number that is no carrel, 2 for one in granules that leave, and 1 for a carrel not there. The end of a bandwidth window makes the window that closed at the last tick the one the registers show; without one nothing changes. A sample that is due takes the event its skid names and is written at the slot of its sequence number where PF0's allocation covers it, or sets SAMPLE_MISS where it does not; it is counted and the sequence advances. With none due nothing changes. -/
def Obligations.DumpsWindowsAndSamples : Prop :=
  (∀ (s : State) (d : Line),
    s.MgrReady →
    exec (.cntCarrelDump d) s = .next (commitNow s (
        if 64 ≤ dfld d 16 0 7 then mgrFail (takeHanded s .mgrSq d) d 3
        else match getDom s (dfld d 16 0 7) with
          | none => mgrFail (takeHanded s .mgrSq d) d 1
          | some x => if dfld d 20 0 39 % 64 ≠ 0 ∨ allocNamed x.cfg (dfld d 20 0 39) (2304 * 2 ^ dfld d 28 0 4) = false then mgrFail (takeHanded s .mgrSq d) d 3
            else if dbit d 28 4 = true ∧ leaving s (dfld d 16 0 7) (dfld d 20 0 39) (2304 * 2 ^ dfld d 28 0 4) = true then mgrFail (takeHanded s .mgrSq d) d 2
            else mgrOk (modCnt (takeHanded s .mgrSq d) fun t => { t with carrelNext := tput t.carrelNext (dfld d 16 0 7) { offset := dfld d 20 0 39, log2 := dfld d 28 0 4, enable := dbit d 28 4, seq := 0, prevTick := 0, stepped := false } }) d))) ∧
  (∀ (s : State),
    s.Ready →
    (∀ k b, s.cnt.bwDue = some (k, b) → k ≤ s.folio → exec .bwWindowClose s = .next (modCnt s fun c => { c with bwDue := none, bwEnd := k, bwLast := b })) ∧
      (s.cnt.bwDue = none → exec .bwWindowClose s = .next s)) ∧
  (∀ (s : State) (skid : Nat),
    s.Ready →
    exec (.sampleCapture skid) s = .next (commitNow s (match s.cnt.samples with
        | [] => s
        | x :: rest => match x.events[skid]? with
          | none => s
          | some e =>
            let off := fld s.cnt.sampleBase.inForce 6 33 * 64 + 64 * (s.cnt.sampleSeq % 2 ^ fld s.cnt.sampleCfg.inForce 8 5)
            bump (modCnt (if pf0Covers s off 64 = true then wrAlloc s 64 off (bytesOf (sampleRec s e skid)) else mark (modCnt s fun c => { c with sampleMiss := true }) 0x1F0028 2) fun c => { c with samples := rest, sampleSeq := (c.sampleSeq + 1) % 2 ^ 32 }) (devCnt 14) 1)))

/-- Owner binding, the rollback counter, the certificate, and firmware updates (R479, R480, R481, R482, R490). Each command reads its block of PF0's allocation; one outside it or poisoned gives reason 3. SEC_OWNER_BIND fails with 3 where the signature does not verify over the identity key and PLK-BIND, with 2 where both owner hashes are set, and otherwise stores the key's hash in the first free one. SEC_SVN_COMMIT fails with 2 while the other slot is PENDING, and otherwise raises the counter to the running image's, at most 64, and makes the running slot VALID and PREFERRED. SEC_CERT_INSTALL stores a certificate that names the identity key. FW_STAGE, and a PLDM update that firmware, recovery or halted firmware's ROM answers, make the other slot INVALID and hold the image, one at a time; its end makes the slot PENDING where the image verifies, and an image from the management bus then restarts firmware that had halted. FW_ACTIVATE with no PENDING slot fails with 2, with an image that does not verify with 3, and otherwise restarts firmware. -/
def Obligations.OwnerSvnCertificateAndFirmware : Prop :=
  (∀ (s : State) (d : Line) (bs : List Byte),
    s.MgrReady →
    readBlock s (dfld d 16 0 39) 7888 = some bs →
    exec (.secOwnerBind d) s = .next (commitNow s (
        if Config.slhDsaVerify (bs.take 32) (Config.identityKey ++ bindTag) (bs.drop 32) = false then mgrFail (takeHanded s .mgrSq d) d 3
        else if s.sec.ownerHash0 ≠ 0 ∧ s.sec.ownerHash1 ≠ 0 then mgrFail (takeHanded s .mgrSq d) d 2
        else mgrOk (modSec (takeHanded s .mgrSq d) fun x => if x.ownerHash0 = 0 then { x with ownerHash0 := shaBits (bs.take 32) } else { x with ownerHash1 := shaBits (bs.take 32) }) d))) ∧
  (∀ (s : State) (d : Line) (b : Bool),
    s.MgrReady →
    (readBlock s (dfld d 16 0 39) 7888 = none → exec (.secOwnerBind d) s = .next (commitNow s (mgrFail (takeHanded s .mgrSq d) d 3))) ∧
      (readBlock s (dfld d 16 0 39) 4 = none → exec (.secCertInstall d b) s = .next (commitNow s (mgrFail (takeHanded s .mgrSq d) d 3))) ∧
      (s.sec.staging = none → readBlock s (dfld d 16 0 39) (dfld d 24 0 32) = none → exec (.fwStage d) s = .next (commitNow s (mgrFail (takeHanded s .mgrSq d) d 3)))) ∧
  (∀ (s : State) (d : Line),
    s.MgrReady →
    exec (.secSvnCommit d) s = .next (commitNow s (
        if (bootRec s).state (1 - s.sec.slot) = 2 then mgrFail (takeHanded s .mgrSq d) d 2
        else mgrOk (bootWrite (modSec (takeHanded s .mgrSq d) fun x => { x with svn := min 64 (max x.svn x.fwSvn) }) fun b => { b.set s.sec.slot 1 with preferred := s.sec.slot }) d))) ∧
  (∀ (s : State) (d : Line) (n : Nat) (h bs : List Byte) (b : Bool),
    s.MgrReady →
    readBlock s (dfld d 16 0 39) 4 = some h →
    derLength h = some n →
    readBlock s (dfld d 16 0 39) n = some bs →
    exec (.secCertInstall d b) s = .next (commitNow s (
        if b then sigPump ((List.range 8).foldl (fun s p => attestVerify (attestStart s p) p) (mgrOk (modSec (takeHanded s .mgrSq d) fun x => { x with identCert := bs }) d))
        else mgrFail (takeHanded s .mgrSq d) d 3))) ∧
  (∀ (s : State) (d : Line) (img : List Byte),
    s.MgrReady →
    s.sec.staging = none ∧ dfld d 24 0 32 ≤ 15 * 2 ^ 20 →
    readBlock s (dfld d 16 0 39) (dfld d 24 0 32) = some img →
    exec (.fwStage d) s = .next (commitNow s (stageImage (takeHanded s .mgrSq d) (some d) img))) ∧
  (∀ (s : State) (d : Line) (c : Option Line) (img : List Byte),
    (s.MgrReady → s.sec.staging.isSome = true → exec (.fwStage d) s = .next (commitNow s (mgrFail (takeHanded s .mgrSq d) d 2))) ∧
      (stageImage s c img).sec.staging = some (c, updateSlot s, img) ∧ updateSlot s = (if s.glb.recovery = true then 0 else 1 - s.sec.slot)) ∧
  (∀ (s : State),
    s.Ready →
    exec .fwStageDone s = .next (commitNow s (match s.sec.staging with
        | none => s
        | some (c, k, img) =>
          let u := setImage (modSec s fun x => { x with staging := none }) k img
          let v := if imageOk u img = true then bootWrite u fun b => { b.set k 2 with preferred := k } else u
          match c with
          | some d => if imageOk u img = true then mgrOk v d else mgrFail v d 3
          | none => if imageOk u img = true ∧ s.glb.fwHalted = true then reload (mctpEmit v (.mctpUpdate (b2n (!imageOk u img)))) k else mctpEmit v (.mctpUpdate (b2n (!imageOk u img)))))) ∧
  (∀ (s : State) (img : List Byte),
    s.Ready →
    ((fwAlive s || s.glb.recovery || s.glb.fwHalted) = false ∨ s.sec.staging.isSome = true → exec (.pldmFwUpdate img) s = .next s) ∧
      ((fwAlive s || s.glb.recovery || s.glb.fwHalted) = true → s.sec.staging = none → img.length ≤ 15 * 2 ^ 20 → exec (.pldmFwUpdate img) s = .next (commitNow s (stageImage s none img)))) ∧
  (∀ (s : State) (d : Line),
    s.MgrReady →
    (bootRec s).state 0 ≠ 2 ∧ (bootRec s).state 1 ≠ 2 →
    exec (.fwActivate d) s = .next (commitNow s (mgrFail (takeHanded s .mgrSq d) d 2))) ∧
  (∀ (s : State) (d : Line) (k : Nat),
    s.MgrReady →
    (k ≤ 1 ∧ (bootRec s).state k = 2 ∧ (k = 1 → (bootRec s).state 0 ≠ 2)) →
    exec (.fwActivate d) s = .next (commitNow s (
        if imageOk (takeHanded s .mgrSq d) (slotImage (takeHanded s .mgrSq d) k) = false then mgrFail (takeHanded s .mgrSq d) d 3
        else beginRestart (mgrOk (modSec (loadImage (spendPending (takeHanded s .mgrSq d) k) k) fun x => { x with sessions := [] }) d) 1)))

/-- SPDM requests over DOE and MCTP (R482, R483, R484, R485). GET_VERSION starts the agreement over; GET_CAPABILITIES needs the version, NEGOTIATE_ALGORITHMS the capabilities and all four required algorithms. The others need the algorithms agreed and answer UnexpectedRequest before. Slots other than 0 are refused. CHALLENGE, signed GET_MEASUREMENTS and KEY_EXCHANGE join the signing queue, refused while a certificate is missing; a fifth session is refused. FINISH establishes its session, or ends it where the requester's data is wrong; END_SESSION and HEARTBEAT need an established session. ResponseNotReady goes to the request that has waited longest, which keeps its place. Requests that are not heard, firmware or host link being down, change nothing. -/
def Obligations.SpdmRequests : Prop :=
  (∀ (s : State) (b : SpdmBus) (i : Instr) (n m k : Nat) (h a1 a2 a3 : Bool) (x : BitVec 256),
    s.Ready →
    spdmHeard s b = false →
    i ∈ [Instr.spdmGetVersion b, .spdmGetCapabilities b, .spdmNegotiateAlgorithms b h a1 a2 a3, .spdmGetDigests b, .spdmGetCertificate b n m k, .spdmChallenge b n x, .spdmGetMeasurements b n x h, .spdmKeyExchange b n, .spdmFinish b n h, .spdmEndSession b n, .spdmHeartbeat b n] →
    exec i s = .next s) ∧
  (∀ (s : State) (b : SpdmBus) (i : Instr) (n m k : Nat) (h : Bool) (x : BitVec 256),
    s.Ready →
    spdmHeard s b = true →
    (spdmAgreed s b).2.2 = false →
    i ∈ [Instr.spdmGetDigests b, .spdmGetCertificate b n m k, .spdmChallenge b n x, .spdmGetMeasurements b n x h, .spdmKeyExchange b n, .spdmFinish b n h, .spdmEndSession b n, .spdmHeartbeat b n] →
    exec i s = .next (commitNow s (spdmError s b 4))) ∧
  (∀ (s : State) (b : SpdmBus) (h a1 a2 a3 : Bool),
    s.Ready →
    spdmHeard s b = true →
    exec (.spdmGetVersion b) s = .next (commitNow s (spdmAnswer (setAgreed s b (true, false, false)) b 0x04 [0x13])) ∧
      exec (.spdmGetCapabilities b) s = .next (commitNow s (if (spdmAgreed s b).1 = true then spdmAnswer (setAgreed s b (true, true, false)) b 0x61 [] else spdmError s b 4)) ∧
      exec (.spdmNegotiateAlgorithms b h a1 a2 a3) s = .next (commitNow s (
        if (spdmAgreed s b).2.1 = false then spdmError s b 4
        else if (h && a1 && a2 && a3) = true then spdmAnswer (setAgreed s b (true, true, true)) b 0x63 [] else spdmError s b 7))) ∧
  (∀ (s : State) (b : SpdmBus) (n o l id : Nat) (x : BitVec 256) (ok : Bool),
    s.Ready →
    spdmHeard s b = true →
    (spdmAgreed s b).2.2 = true →
    exec (.spdmGetDigests b) s = .next (commitNow s (spdmAnswer s b 0x01 [] (sha256 (s.sec.identCert ++ s.sec.attCert)))) ∧
      exec (.spdmGetCertificate b n o l) s = .next (commitNow s (if n = 0 then spdmAnswer s b 0x02 [0, o, l] (((s.sec.identCert ++ s.sec.attCert).drop o).take l) else spdmError s b 1)) ∧
      exec (.spdmChallenge b n x) s = .next (commitNow s (if n = 0 then spdmSign s b 0x03 [x.toNat, (measDigest s).toNat] else spdmError s b 1)) ∧
      exec (.spdmGetMeasurements b n x ok) s = .next (commitNow s (getMeasurements s b n x ok)) ∧
      exec (.spdmKeyExchange b n) s = .next (commitNow s (
        if 4 ≤ s.sec.sessions.length then spdmError s b 0x0A
        else if certReady s = false then spdmError s b 7
        else spdmSign (modSec s fun y => { y with nextSession := y.nextSession + 1, sessions := y.sessions ++ [⟨s.sec.nextSession, b, false⟩] }) b 0x64 [n, s.sec.nextSession])) ∧
      (getSession s b id = none → ∀ i ∈ [Instr.spdmFinish b id ok, .spdmEndSession b id, .spdmHeartbeat b id], exec i s = .next (commitNow s (spdmError s b 2)))) ∧
  (∀ (s : State) (b : SpdmBus) (code : Nat) (args : List Nat),
    spdmSign s b code args = (if certReady s = false then spdmError s b 7 else sigPump (modSec s fun x => { x with spdmQ := x.spdmQ ++ [⟨b, code, args, s.now⟩] }))) ∧
  (∀ (s : State) (b : SpdmBus) (id : Nat) (x : Session),
    s.Ready →
    spdmHeard s b = true →
    (spdmAgreed s b).2.2 = true →
    getSession s b id = some x →
    (x.established = true → exec (.spdmHeartbeat b id) s = .next (commitNow s (spdmAnswer s b 0x68 [])) ∧
        exec (.spdmEndSession b id) s = .next (commitNow s (spdmAnswer (modSec s fun x => { x with sessions := x.sessions.filter fun y => y.id ≠ id }) b 0x6C [])) ∧ exec (.spdmFinish b id true) s = .next (commitNow s (spdmError s b 4))) ∧
      (x.established = false →
        exec (.spdmFinish b id true) s = .next (commitNow s (spdmAnswer (modSec s fun y => { y with sessions := y.sessions.map fun z => if z.id = id then { z with established := true } else z }) b 0x65 [id])) ∧
        exec (.spdmFinish b id false) s = .next (commitNow s (spdmError (modSec s fun x => { x with sessions := x.sessions.filter fun y => y.id ≠ id }) b 6)) ∧
        exec (.spdmHeartbeat b id) s = .next (commitNow s (spdmError s b 4)) ∧ exec (.spdmEndSession b id) s = .next (commitNow s (spdmError s b 4)))) ∧
  (∀ (s : State) (l : List SpdmReq),
    s.Ready →
    l = (match s.sec.signing with | some (.spdm r) => (if r.code = 0 then [] else [r]) | _ => []) ++ s.sec.spdmQ →
    (l = [] → exec .spdmResponseNotReady s = .next s) ∧
      (∀ r rest, l = r :: rest → exec .spdmResponseNotReady s = .next (if spdmHeard s r.bus = true then commitNow s (spdmError s r.bus 0x42) else s)))

/-- The codex writer, its checkpoint, and CODEX_READ, CODEX_CLEAR and the MCTP read (R38, R495, R496, R499, R501, R502, R503, R513). CODEX_WRITE, once the writer has resumed, writes the oldest released record at the moment the writer is free, or, with none released, the oldest one handed over once it is released; in a reset, where no clock runs, it writes the released one; the record it gets the next sequence number and a chain value over the last one and its bytes, goes to the first-fault region where its code belongs there and fewer than 4096 are held and otherwise to the ring, and the writer is busy for 150 ns; with nothing released or handed over it does nothing. A checkpoint not due changes nothing. CODEX_READ copies the records of its range in order to a range of PF0's allocation and answers their number, with reason 3 for a bad range. CODEX_CLEAR empties the first-fault region where its signature verifies over the count and newest sequence, and writes a record. The MCTP read answers the same range. -/
def Obligations.CodexCommands : Prop :=
  (∀ (s : State) (g : Gtc),
    s.codex.resumed = true →
    codexWhen s = some g →
    (s.running = true → s.Reaches g → exec .codexWrite s = .next (commit s (codexNext (s.goTo g)))) ∧
      (s.running = false → s.pkg.rails = true → exec .codexWrite s = .next (commit s (codexNext s)))) ∧
  (∀ (s : State) (r : CodexRec) (rest : List CodexRec),
    (s.codex.queue = r :: rest → codexWhen s = some s.codex.freeAt ∧
        codexNext s = codexPut (modCodex (if s.codex.lost ≠ 0 ∧ rest.length < 1024 then mark s 0x210000 45 else s) fun c => overflowPump { c with queue := rest, freeAt := s.now + 2400 }) r) ∧
      (s.codex.queue = [] → s.codex.handed = r :: rest → codexWhen s = some (max s.codex.freeAt (r.stamp + 32000)))) ∧
  (∀ (s : State) (r : CodexRec),
    (codexPut s r).codex.nextSeq = (s.codex.nextSeq + 1) % 2 ^ 32 ∧
      ((firstFaultCodes.contains r.code && decide (s.codex.first.length < 4096)) = true → ∃ x : CodexRec, (codexPut s r).codex.first = s.codex.first ++ [x] ∧ (codexPut s r).codex.ring = s.codex.ring ∧
        x.seq = s.codex.nextSeq ∧ x.stamp = r.stamp ∧ x.code = r.code ∧ (codexPut s r).codex.lastChain = x.chain ∧ x.chain = shaBits (bytesOf s.codex.lastChain ++ codexBytes { r with ff := true, seq := s.codex.nextSeq })) ∧
      ((firstFaultCodes.contains r.code && decide (s.codex.first.length < 4096)) = false → ∃ x : CodexRec, (codexPut s r).codex.ring = (x :: s.codex.ring).take 520192 ∧ (codexPut s r).codex.first = s.codex.first ∧
        x.seq = s.codex.nextSeq ∧ (codexPut s r).codex.lastChain = x.chain ∧ x.chain = shaBits (bytesOf s.codex.lastChain ++ codexBytes { r with ff := false, seq := s.codex.nextSeq }))) ∧
  (∀ (s : State),
    s.Ready →
    s.codex.resumed = false ∨ (s.codex.queue = [] ∧ s.codex.handed = []) →
    exec .codexWrite s = .next s) ∧
  (∀ (s : State),
    s.Ready →
    (fwAlive s = false ∨ checkpointDue s = false → exec .codexCheckpoint s = .next s) ∧
      (∀ r, codexFind s.codex (sub32 s.codex.nextSeq 1) = some r → fwAlive s = true → checkpointDue s = true →
        exec .codexCheckpoint s = .next (commitNow s (sigPump (modSec (modCodex s fun c => { c with ckPending := some (sub32 s.codex.nextSeq 1) }) fun x => { x with ckptQ := some (.checkpoint (sub32 s.codex.nextSeq 1) r.stamp r.chain) }))))) ∧
  (∀ (s : State) (d : Line),
    s.MgrReady →
    exec (.codexRead d) s = .next (commitNow s (
        if dfld d 16 0 39 % 64 ≠ 0 ∨ (dfld d 28 0 32 ≠ 0 ∧ domNamed s 64 (dfld d 16 0 39) (128 * dfld d 28 0 32) = false) then mgrFail (takeHanded s .mgrSq d) d 3
        else mgrOk (wrAlloc (takeHanded s .mgrSq d) 64 (dfld d 16 0 39) ((codexRange s.codex (dfld d 24 0 32) (dfld d 28 0 32)).flatMap codexLine)) d (codexRange s.codex (dfld d 24 0 32) (dfld d 28 0 32)).length))) ∧
  (∀ (s : State) (d : Line),
    s.MgrReady →
    readBlock s (dfld d 16 0 39) 7888 = none →
    exec (.codexClear d) s = .next (commitNow s (mgrFail (takeHanded s .mgrSq d) d 3))) ∧
  (∀ (s : State) (d : Line) (bs : List Byte),
    s.MgrReady →
    readBlock s (dfld d 16 0 39) 7888 = some bs →
    exec (.codexClear d) s = .next (commitNow s (
        if clearKeyOk s (bs.take 32) = false then mgrFail (takeHanded s .mgrSq d) d 3
        else if Config.slhDsaVerify (bs.take 32) (clearMsg s.codex.clearCount (newestFf s.codex)) (bs.drop 32) = true then
          mgrOk (codexHand (modCodex (takeHanded s .mgrSq d) fun c => { c with first := [], clearCount := (c.clearCount + 1) % 2 ^ 32 }) 0x06 0x090 0xFF (layout 624 [(0, 32, s.codex.clearCount), (32, 32, newestFf s.codex)]) true) d
        else if ((List.range (s.codex.clearCount + 1)).any fun n => (List.range s.codex.nextSeq).any fun q => Config.slhDsaVerify (bs.take 32) (clearMsg n q) (bs.drop 32)) = true then mgrFail (takeHanded s .mgrSq d) d 2
        else mgrFail (takeHanded s .mgrSq d) d 3))) ∧
  (∀ (s : State) (f n : Nat),
    s.Ready →
    exec (.mctpCodexRead f n) s = .next (if fwAlive s = true then mctpEmit s (.mctpCodex (codexRange s.codex (f % 2 ^ 32) n)) else s))

/-- Register writes over a BAR, management-bus reads and writes, and what no register shows (R4, R15, R518, R522, R523, R525, R534, R535). A write over a BAR that is not up, or before INIT_DONE, does nothing. Through PF0 a narrow or unaligned access of a block register sets NARROW_SEEN with its offset, an aligned 8-byte write acts on the block's register: GLB_ERR_CFG keeps its defined bits, an RWT register reads back at once and is in force from the next tick, a W1C bit written 1 clears unless the block set it in this cycle, an unnamed offset ignores it. A management read answers the register's value, or 0 where it is misaligned; a management write of GLB_ERR_CFG or GLB_STATUS acts at the end of its cycle; a write of a register that is not one of the five writable ones sets MGMT_WRITE_SEEN, and with a wrong PEC in SMBus mode is ignored. In the fatal state only GLB and CDX answer. No register shows the bytes of a key. -/
def Obligations.RegisterAccess : Prop :=
  (∀ (s : State) (fn off w : Nat) (v : W64),
    s.Alive →
    wfFn fn = true ∧ wfOffset off = true ∧ w ∈ [1, 2, 4, 8] →
    barUp s = false ∨ s.glb.initDone = false →
    exec (.registerWrite fn off w v) s = .next s) ∧
  (∀ (s : State) (off w : Nat) (v : W64),
    s.Alive →
    barUp s = true ∧ s.glb.initDone = true ∧ s.glb.fatal = false →
    wfOffset off = true ∧ inBlocks off = true ∧ w ∈ [1, 2, 4, 8] →
    w ≠ 8 ∨ off % 8 ≠ 0 →
    exec (.registerWrite 0 off w v) s = .next { mark s 0x100030 0 with glb := { s.glb with narrowSeen := true, lastOffset := off / 256 } }) ∧
  (∀ (s : State) (v : W64),
    s.Alive →
    barUp s = true ∧ s.glb.initDone = true ∧ s.glb.fatal = false →
    exec (.registerWrite 0 0x100020 8 v) s = .next { s with glb := { s.glb with errCfg := v &&& 0xFF01 } } ∧
      exec (.registerWrite 0 0x120000 8 v) s = .next { s with calCfg := { s.calCfg with written := v &&& 0x7FFFFFFFF } } ∧
      exec (.registerWrite 0 0x140010 8 v) s = .next { s with lat := { s.lat with ccCfg := { s.lat.ccCfg with written := v &&& 0x1FFFFFFFFFFFF } } } ∧
      exec (.registerWrite 0 0x180008 8 v) s = .next { s with cxl := { s.cxl with lossSeen := s.cxl.lossSeen && !bitAt (unmarked s 0x180008 v) 2, retrainSeen := s.cxl.retrainSeen && !bitAt (unmarked s 0x180008 v) 3, ideFail := s.cxl.ideFail && !bitAt (unmarked s 0x180008 v) 4 } } ∧
      exec (.registerWrite 0 0x200008 8 v) s = .next { s with sec := { s.sec with policy := v &&& 0x1FF } } ∧
      exec (.registerWrite 0 0x200010 8 v) s = .next s) ∧
  (∀ (s : State) (v : W64),
    bitAt (unmarked s 0x180008 v) 2 = (bitAt v 2 && !s.cyc.sticky.contains (0x180008, 2)) ∧ bitAt (unmarked s 0x180008 v) 3 = (bitAt v 3 && !s.cyc.sticky.contains (0x180008, 3)) ∧
      bitAt (unmarked s 0x180008 v) 4 = (bitAt v 4 && !s.cyc.sticky.contains (0x180008, 4))) ∧
  (∀ (s : State) (off : Nat),
    s.Alive →
    exec (.mgmtRegRead off) s = .next (if off % 8 ≠ 0 ∨ 2 ^ 25 ≤ off then
        emit { mark s 0x100030 0 with glb := { s.glb with narrowSeen := true, lastOffset := off / 256 } } (.mgmtData 0)
      else emit (readEffect s off) (.mgmtData (mgmtValue s off)))) ∧
  (∀ (s : State) (off : Nat),
    inBlocks off = true →
    (off / 65536 = 0x10 → mgmtValue s off = glbReg s (off % 65536)) ∧
      (s.glb.fatal = true ∨ s.glb.initDone = false → off / 65536 ≠ 0x10 → off / 65536 ≠ 0x21 → mgmtValue s off = 0) ∧
      (s.glb.fatal = false → s.glb.initDone = true → off / 65536 ≠ 0x10 → off / 65536 ≠ 0x21 → mgmtValue s off = blockReg s (off / 65536) (off % 65536))) ∧
  (∀ (s : State) (off : Nat) (v : W64) (pec : Bool),
    s.Alive →
    (pec = false → s.pkg.mgmtMode = false → exec (.mgmtRegWrite off v pec) s = .next s) ∧
      (pec = true → off % 8 = 0 → off < 2 ^ 25 → off ∉ [0x100020, 0x100028, 0x100030, 0x210000, 0x210010] →
        exec (.mgmtRegWrite off v pec) s = .next { mark s 0x100030 1 with glb := { s.glb with mgmtWriteSeen := true, lastOffset := off / 256 } }) ∧
      (pec = true → off ∈ [0x100020, 0x100030] → exec (.mgmtRegWrite off v pec) s = .next { s with cyc := { s.cyc with mgmt := s.cyc.mgmt ++ [(off, v)] } })) ∧
  (∀ (s : State) (v : W64),
    s.cyc.mgmt = [(0x100020, v)] →
    mgmtCycle s = { s with cyc := { s.cyc with mgmt := [] }, glb := { s.glb with errCfg := v &&& 0xFF01 } }) ∧
  (∀ (s t : State) (off : Nat),
    (t = { s with keys := s.keys.map fun e => (e.1, { e.2 with key := 0 }) }) →
    mgmtValue t off = mgmtValue s off ∧ compatReg t off = compatReg s off)
end

