-- ==== Sys2Proof/Laws/State.lean ====
section
/-! SUPPORT. Laws/State.lean: one lemma per field of State per shared update, true by rfl: the update changes its own field and
no other. -/

namespace Sys2Proof.Machine

/-! ## modFn -/

@[simp] theorem modFn_pending (s : State) (n : Nat) (f : Fn → Fn) : (modFn s n f).pending = s.pending := rfl
@[simp] theorem modFn_pkg (s : State) (n : Nat) (f : Fn → Fn) : (modFn s n f).pkg = s.pkg := rfl
@[simp] theorem modFn_glb (s : State) (n : Nat) (f : Fn → Fn) : (modFn s n f).glb = s.glb := rfl
@[simp] theorem modFn_fw (s : State) (n : Nat) (f : Fn → Fn) : (modFn s n f).fw = s.fw := rfl
@[simp] theorem modFn_codex (s : State) (n : Nat) (f : Fn → Fn) : (modFn s n f).codex = s.codex := rfl
@[simp] theorem modFn_time (s : State) (n : Nat) (f : Fn → Fn) : (modFn s n f).time = s.time := rfl
@[simp] theorem modFn_hbm (s : State) (n : Nat) (f : Fn → Fn) : (modFn s n f).hbm = s.hbm := rfl
@[simp] theorem modFn_wlog (s : State) (n : Nat) (f : Fn → Fn) : (modFn s n f).wlog = s.wlog := rfl
@[simp] theorem modFn_wipe (s : State) (n : Nat) (f : Fn → Fn) : (modFn s n f).wipe = s.wipe := rfl
@[simp] theorem modFn_cyc (s : State) (n : Nat) (f : Fn → Fn) : (modFn s n f).cyc = s.cyc := rfl
@[simp] theorem modFn_draws (s : State) (n : Nat) (f : Fn → Fn) : (modFn s n f).draws = s.draws := rfl
@[simp] theorem modFn_fns (s : State) (n : Nat) (f : Fn → Fn) : (modFn s n f).fns = tput s.fns n (f (getFn s n)) := rfl
@[simp] theorem modFn_cqs (s : State) (n : Nat) (f : Fn → Fn) : (modFn s n f).cqs = s.cqs := rfl
@[simp] theorem modFn_mgrSq (s : State) (n : Nat) (f : Fn → Fn) : (modFn s n f).mgrSq = s.mgrSq := rfl
@[simp] theorem modFn_mgrCq (s : State) (n : Nat) (f : Fn → Fn) : (modFn s n f).mgrCq = s.mgrCq := rfl
@[simp] theorem modFn_mgrBase (s : State) (n : Nat) (f : Fn → Fn) : (modFn s n f).mgrBase = s.mgrBase := rfl
@[simp] theorem modFn_mgrCfg (s : State) (n : Nat) (f : Fn → Fn) : (modFn s n f).mgrCfg = s.mgrCfg := rfl
@[simp] theorem modFn_mgrErr (s : State) (n : Nat) (f : Fn → Fn) : (modFn s n f).mgrErr = s.mgrErr := rfl
@[simp] theorem modFn_journal (s : State) (n : Nat) (f : Fn → Fn) : (modFn s n f).journal = s.journal := rfl
@[simp] theorem modFn_doms (s : State) (n : Nat) (f : Fn → Fn) : (modFn s n f).doms = s.doms := rfl
@[simp] theorem modFn_stages (s : State) (n : Nat) (f : Fn → Fn) : (modFn s n f).stages = s.stages := rfl
@[simp] theorem modFn_exports (s : State) (n : Nat) (f : Fn → Fn) : (modFn s n f).exports = s.exports := rfl
@[simp] theorem modFn_xl (s : State) (n : Nat) (f : Fn → Fn) : (modFn s n f).xl = s.xl := rfl
@[simp] theorem modFn_cxl (s : State) (n : Nat) (f : Fn → Fn) : (modFn s n f).cxl = s.cxl := rfl
@[simp] theorem modFn_qps (s : State) (n : Nat) (f : Fn → Fn) : (modFn s n f).qps = s.qps := rfl
@[simp] theorem modFn_qpNext (s : State) (n : Nat) (f : Fn → Fn) : (modFn s n f).qpNext = s.qpNext := rfl
@[simp] theorem modFn_gone (s : State) (n : Nat) (f : Fn → Fn) : (modFn s n f).gone = s.gone := rfl
@[simp] theorem modFn_regions (s : State) (n : Nat) (f : Fn → Fn) : (modFn s n f).regions = s.regions := rfl
@[simp] theorem modFn_regionGen (s : State) (n : Nat) (f : Fn → Fn) : (modFn s n f).regionGen = s.regionGen := rfl
@[simp] theorem modFn_trig (s : State) (n : Nat) (f : Fn → Fn) : (modFn s n f).trig = s.trig := rfl
@[simp] theorem modFn_lat (s : State) (n : Nat) (f : Fn → Fn) : (modFn s n f).lat = s.lat := rfl
@[simp] theorem modFn_latOut (s : State) (n : Nat) (f : Fn → Fn) : (modFn s n f).latOut = s.latOut := rfl
@[simp] theorem modFn_macOut (s : State) (n : Nat) (f : Fn → Fn) : (modFn s n f).macOut = s.macOut := rfl
@[simp] theorem modFn_prioWeight (s : State) (n : Nat) (f : Fn → Fn) : (modFn s n f).prioWeight = s.prioWeight := rfl
@[simp] theorem modFn_police (s : State) (n : Nat) (f : Fn → Fn) : (modFn s n f).police = s.police := rfl
@[simp] theorem modFn_sched (s : State) (n : Nat) (f : Fn → Fn) : (modFn s n f).sched = s.sched := rfl
@[simp] theorem modFn_cnt (s : State) (n : Nat) (f : Fn → Fn) : (modFn s n f).cnt = s.cnt := rfl
@[simp] theorem modFn_near (s : State) (n : Nat) (f : Fn → Fn) : (modFn s n f).near = s.near := rfl
@[simp] theorem modFn_keys (s : State) (n : Nat) (f : Fn → Fn) : (modFn s n f).keys = s.keys := rfl
@[simp] theorem modFn_keyLoad (s : State) (n : Nat) (f : Fn → Fn) : (modFn s n f).keyLoad = s.keyLoad := rfl
@[simp] theorem modFn_lports (s : State) (n : Nat) (f : Fn → Fn) : (modFn s n f).lports = s.lports := rfl
@[simp] theorem modFn_cals (s : State) (n : Nat) (f : Fn → Fn) : (modFn s n f).cals = s.cals := rfl
@[simp] theorem modFn_engs (s : State) (n : Nat) (f : Fn → Fn) : (modFn s n f).engs = s.engs := rfl
@[simp] theorem modFn_optCfg (s : State) (n : Nat) (f : Fn → Fn) : (modFn s n f).optCfg = s.optCfg := rfl
@[simp] theorem modFn_calCfg (s : State) (n : Nat) (f : Fn → Fn) : (modFn s n f).calCfg = s.calCfg := rfl
@[simp] theorem modFn_calAt (s : State) (n : Nat) (f : Fn → Fn) : (modFn s n f).calAt = s.calAt := rfl
@[simp] theorem modFn_sec (s : State) (n : Nat) (f : Fn → Fn) : (modFn s n f).sec = s.sec := rfl
@[simp] theorem modFn_zoo (s : State) (n : Nat) (f : Fn → Fn) : (modFn s n f).zoo = s.zoo := rfl
@[simp] theorem modFn_col (s : State) (n : Nat) (f : Fn → Fn) : (modFn s n f).col = s.col := rfl
@[simp] theorem modFn_macCfg (s : State) (n : Nat) (f : Fn → Fn) : (modFn s n f).macCfg = s.macCfg := rfl
@[simp] theorem modFn_macs (s : State) (n : Nat) (f : Fn → Fn) : (modFn s n f).macs = s.macs := rfl
@[simp] theorem modFn_compat (s : State) (n : Nat) (f : Fn → Fn) : (modFn s n f).compat = s.compat := rfl
@[simp] theorem modFn_peers (s : State) (n : Nat) (f : Fn → Fn) : (modFn s n f).peers = s.peers := rfl
@[simp] theorem modFn_filters (s : State) (n : Nat) (f : Fn → Fn) : (modFn s n f).filters = s.filters := rfl
@[simp] theorem modFn_outbox (s : State) (n : Nat) (f : Fn → Fn) : (modFn s n f).outbox = s.outbox := rfl

/-! ## modDom -/

@[simp] theorem modDom_pending (s : State) (n : Nat) (f : Domain → Domain) : (modDom s n f).pending = s.pending := rfl
@[simp] theorem modDom_pkg (s : State) (n : Nat) (f : Domain → Domain) : (modDom s n f).pkg = s.pkg := rfl
@[simp] theorem modDom_glb (s : State) (n : Nat) (f : Domain → Domain) : (modDom s n f).glb = s.glb := rfl
@[simp] theorem modDom_fw (s : State) (n : Nat) (f : Domain → Domain) : (modDom s n f).fw = s.fw := rfl
@[simp] theorem modDom_codex (s : State) (n : Nat) (f : Domain → Domain) : (modDom s n f).codex = s.codex := rfl
@[simp] theorem modDom_time (s : State) (n : Nat) (f : Domain → Domain) : (modDom s n f).time = s.time := rfl
@[simp] theorem modDom_hbm (s : State) (n : Nat) (f : Domain → Domain) : (modDom s n f).hbm = s.hbm := rfl
@[simp] theorem modDom_wlog (s : State) (n : Nat) (f : Domain → Domain) : (modDom s n f).wlog = s.wlog := rfl
@[simp] theorem modDom_wipe (s : State) (n : Nat) (f : Domain → Domain) : (modDom s n f).wipe = s.wipe := rfl
@[simp] theorem modDom_cyc (s : State) (n : Nat) (f : Domain → Domain) : (modDom s n f).cyc = s.cyc := rfl
@[simp] theorem modDom_draws (s : State) (n : Nat) (f : Domain → Domain) : (modDom s n f).draws = s.draws := rfl
@[simp] theorem modDom_fns (s : State) (n : Nat) (f : Domain → Domain) : (modDom s n f).fns = s.fns := rfl
@[simp] theorem modDom_cqs (s : State) (n : Nat) (f : Domain → Domain) : (modDom s n f).cqs = s.cqs := rfl
@[simp] theorem modDom_mgrSq (s : State) (n : Nat) (f : Domain → Domain) : (modDom s n f).mgrSq = s.mgrSq := rfl
@[simp] theorem modDom_mgrCq (s : State) (n : Nat) (f : Domain → Domain) : (modDom s n f).mgrCq = s.mgrCq := rfl
@[simp] theorem modDom_mgrBase (s : State) (n : Nat) (f : Domain → Domain) : (modDom s n f).mgrBase = s.mgrBase := rfl
@[simp] theorem modDom_mgrCfg (s : State) (n : Nat) (f : Domain → Domain) : (modDom s n f).mgrCfg = s.mgrCfg := rfl
@[simp] theorem modDom_mgrErr (s : State) (n : Nat) (f : Domain → Domain) : (modDom s n f).mgrErr = s.mgrErr := rfl
@[simp] theorem modDom_journal (s : State) (n : Nat) (f : Domain → Domain) : (modDom s n f).journal = s.journal := rfl
@[simp] theorem modDom_doms (s : State) (n : Nat) (f : Domain → Domain) : (modDom s n f).doms = tupd s.doms n f := rfl
@[simp] theorem modDom_stages (s : State) (n : Nat) (f : Domain → Domain) : (modDom s n f).stages = s.stages := rfl
@[simp] theorem modDom_exports (s : State) (n : Nat) (f : Domain → Domain) : (modDom s n f).exports = s.exports := rfl
@[simp] theorem modDom_xl (s : State) (n : Nat) (f : Domain → Domain) : (modDom s n f).xl = s.xl := rfl
@[simp] theorem modDom_cxl (s : State) (n : Nat) (f : Domain → Domain) : (modDom s n f).cxl = s.cxl := rfl
@[simp] theorem modDom_qps (s : State) (n : Nat) (f : Domain → Domain) : (modDom s n f).qps = s.qps := rfl
@[simp] theorem modDom_qpNext (s : State) (n : Nat) (f : Domain → Domain) : (modDom s n f).qpNext = s.qpNext := rfl
@[simp] theorem modDom_gone (s : State) (n : Nat) (f : Domain → Domain) : (modDom s n f).gone = s.gone := rfl
@[simp] theorem modDom_regions (s : State) (n : Nat) (f : Domain → Domain) : (modDom s n f).regions = s.regions := rfl
@[simp] theorem modDom_regionGen (s : State) (n : Nat) (f : Domain → Domain) : (modDom s n f).regionGen = s.regionGen := rfl
@[simp] theorem modDom_trig (s : State) (n : Nat) (f : Domain → Domain) : (modDom s n f).trig = s.trig := rfl
@[simp] theorem modDom_lat (s : State) (n : Nat) (f : Domain → Domain) : (modDom s n f).lat = s.lat := rfl
@[simp] theorem modDom_latOut (s : State) (n : Nat) (f : Domain → Domain) : (modDom s n f).latOut = s.latOut := rfl
@[simp] theorem modDom_macOut (s : State) (n : Nat) (f : Domain → Domain) : (modDom s n f).macOut = s.macOut := rfl
@[simp] theorem modDom_prioWeight (s : State) (n : Nat) (f : Domain → Domain) : (modDom s n f).prioWeight = s.prioWeight := rfl
@[simp] theorem modDom_police (s : State) (n : Nat) (f : Domain → Domain) : (modDom s n f).police = s.police := rfl
@[simp] theorem modDom_sched (s : State) (n : Nat) (f : Domain → Domain) : (modDom s n f).sched = s.sched := rfl
@[simp] theorem modDom_cnt (s : State) (n : Nat) (f : Domain → Domain) : (modDom s n f).cnt = s.cnt := rfl
@[simp] theorem modDom_near (s : State) (n : Nat) (f : Domain → Domain) : (modDom s n f).near = s.near := rfl
@[simp] theorem modDom_keys (s : State) (n : Nat) (f : Domain → Domain) : (modDom s n f).keys = s.keys := rfl
@[simp] theorem modDom_keyLoad (s : State) (n : Nat) (f : Domain → Domain) : (modDom s n f).keyLoad = s.keyLoad := rfl
@[simp] theorem modDom_lports (s : State) (n : Nat) (f : Domain → Domain) : (modDom s n f).lports = s.lports := rfl
@[simp] theorem modDom_cals (s : State) (n : Nat) (f : Domain → Domain) : (modDom s n f).cals = s.cals := rfl
@[simp] theorem modDom_engs (s : State) (n : Nat) (f : Domain → Domain) : (modDom s n f).engs = s.engs := rfl
@[simp] theorem modDom_optCfg (s : State) (n : Nat) (f : Domain → Domain) : (modDom s n f).optCfg = s.optCfg := rfl
@[simp] theorem modDom_calCfg (s : State) (n : Nat) (f : Domain → Domain) : (modDom s n f).calCfg = s.calCfg := rfl
@[simp] theorem modDom_calAt (s : State) (n : Nat) (f : Domain → Domain) : (modDom s n f).calAt = s.calAt := rfl
@[simp] theorem modDom_sec (s : State) (n : Nat) (f : Domain → Domain) : (modDom s n f).sec = s.sec := rfl
@[simp] theorem modDom_zoo (s : State) (n : Nat) (f : Domain → Domain) : (modDom s n f).zoo = s.zoo := rfl
@[simp] theorem modDom_col (s : State) (n : Nat) (f : Domain → Domain) : (modDom s n f).col = s.col := rfl
@[simp] theorem modDom_macCfg (s : State) (n : Nat) (f : Domain → Domain) : (modDom s n f).macCfg = s.macCfg := rfl
@[simp] theorem modDom_macs (s : State) (n : Nat) (f : Domain → Domain) : (modDom s n f).macs = s.macs := rfl
@[simp] theorem modDom_compat (s : State) (n : Nat) (f : Domain → Domain) : (modDom s n f).compat = s.compat := rfl
@[simp] theorem modDom_peers (s : State) (n : Nat) (f : Domain → Domain) : (modDom s n f).peers = s.peers := rfl
@[simp] theorem modDom_filters (s : State) (n : Nat) (f : Domain → Domain) : (modDom s n f).filters = s.filters := rfl
@[simp] theorem modDom_outbox (s : State) (n : Nat) (f : Domain → Domain) : (modDom s n f).outbox = s.outbox := rfl

/-! ## modQp -/

@[simp] theorem modQp_pending (s : State) (n : Nat) (f : Qp → Qp) : (modQp s n f).pending = s.pending := rfl
@[simp] theorem modQp_pkg (s : State) (n : Nat) (f : Qp → Qp) : (modQp s n f).pkg = s.pkg := rfl
@[simp] theorem modQp_glb (s : State) (n : Nat) (f : Qp → Qp) : (modQp s n f).glb = s.glb := rfl
@[simp] theorem modQp_fw (s : State) (n : Nat) (f : Qp → Qp) : (modQp s n f).fw = s.fw := rfl
@[simp] theorem modQp_codex (s : State) (n : Nat) (f : Qp → Qp) : (modQp s n f).codex = s.codex := rfl
@[simp] theorem modQp_time (s : State) (n : Nat) (f : Qp → Qp) : (modQp s n f).time = s.time := rfl
@[simp] theorem modQp_hbm (s : State) (n : Nat) (f : Qp → Qp) : (modQp s n f).hbm = s.hbm := rfl
@[simp] theorem modQp_wlog (s : State) (n : Nat) (f : Qp → Qp) : (modQp s n f).wlog = s.wlog := rfl
@[simp] theorem modQp_wipe (s : State) (n : Nat) (f : Qp → Qp) : (modQp s n f).wipe = s.wipe := rfl
@[simp] theorem modQp_cyc (s : State) (n : Nat) (f : Qp → Qp) : (modQp s n f).cyc = s.cyc := rfl
@[simp] theorem modQp_draws (s : State) (n : Nat) (f : Qp → Qp) : (modQp s n f).draws = s.draws := rfl
@[simp] theorem modQp_fns (s : State) (n : Nat) (f : Qp → Qp) : (modQp s n f).fns = s.fns := rfl
@[simp] theorem modQp_cqs (s : State) (n : Nat) (f : Qp → Qp) : (modQp s n f).cqs = s.cqs := rfl
@[simp] theorem modQp_mgrSq (s : State) (n : Nat) (f : Qp → Qp) : (modQp s n f).mgrSq = s.mgrSq := rfl
@[simp] theorem modQp_mgrCq (s : State) (n : Nat) (f : Qp → Qp) : (modQp s n f).mgrCq = s.mgrCq := rfl
@[simp] theorem modQp_mgrBase (s : State) (n : Nat) (f : Qp → Qp) : (modQp s n f).mgrBase = s.mgrBase := rfl
@[simp] theorem modQp_mgrCfg (s : State) (n : Nat) (f : Qp → Qp) : (modQp s n f).mgrCfg = s.mgrCfg := rfl
@[simp] theorem modQp_mgrErr (s : State) (n : Nat) (f : Qp → Qp) : (modQp s n f).mgrErr = s.mgrErr := rfl
@[simp] theorem modQp_journal (s : State) (n : Nat) (f : Qp → Qp) : (modQp s n f).journal = s.journal := rfl
@[simp] theorem modQp_doms (s : State) (n : Nat) (f : Qp → Qp) : (modQp s n f).doms = s.doms := rfl
@[simp] theorem modQp_stages (s : State) (n : Nat) (f : Qp → Qp) : (modQp s n f).stages = s.stages := rfl
@[simp] theorem modQp_exports (s : State) (n : Nat) (f : Qp → Qp) : (modQp s n f).exports = s.exports := rfl
@[simp] theorem modQp_xl (s : State) (n : Nat) (f : Qp → Qp) : (modQp s n f).xl = s.xl := rfl
@[simp] theorem modQp_cxl (s : State) (n : Nat) (f : Qp → Qp) : (modQp s n f).cxl = s.cxl := rfl
@[simp] theorem modQp_qps (s : State) (n : Nat) (f : Qp → Qp) : (modQp s n f).qps = tupd s.qps n f := rfl
@[simp] theorem modQp_qpNext (s : State) (n : Nat) (f : Qp → Qp) : (modQp s n f).qpNext = s.qpNext := rfl
@[simp] theorem modQp_gone (s : State) (n : Nat) (f : Qp → Qp) : (modQp s n f).gone = s.gone := rfl
@[simp] theorem modQp_regions (s : State) (n : Nat) (f : Qp → Qp) : (modQp s n f).regions = s.regions := rfl
@[simp] theorem modQp_regionGen (s : State) (n : Nat) (f : Qp → Qp) : (modQp s n f).regionGen = s.regionGen := rfl
@[simp] theorem modQp_trig (s : State) (n : Nat) (f : Qp → Qp) : (modQp s n f).trig = s.trig := rfl
@[simp] theorem modQp_lat (s : State) (n : Nat) (f : Qp → Qp) : (modQp s n f).lat = s.lat := rfl
@[simp] theorem modQp_latOut (s : State) (n : Nat) (f : Qp → Qp) : (modQp s n f).latOut = s.latOut := rfl
@[simp] theorem modQp_macOut (s : State) (n : Nat) (f : Qp → Qp) : (modQp s n f).macOut = s.macOut := rfl
@[simp] theorem modQp_prioWeight (s : State) (n : Nat) (f : Qp → Qp) : (modQp s n f).prioWeight = s.prioWeight := rfl
@[simp] theorem modQp_police (s : State) (n : Nat) (f : Qp → Qp) : (modQp s n f).police = s.police := rfl
@[simp] theorem modQp_sched (s : State) (n : Nat) (f : Qp → Qp) : (modQp s n f).sched = s.sched := rfl
@[simp] theorem modQp_cnt (s : State) (n : Nat) (f : Qp → Qp) : (modQp s n f).cnt = s.cnt := rfl
@[simp] theorem modQp_near (s : State) (n : Nat) (f : Qp → Qp) : (modQp s n f).near = s.near := rfl
@[simp] theorem modQp_keys (s : State) (n : Nat) (f : Qp → Qp) : (modQp s n f).keys = s.keys := rfl
@[simp] theorem modQp_keyLoad (s : State) (n : Nat) (f : Qp → Qp) : (modQp s n f).keyLoad = s.keyLoad := rfl
@[simp] theorem modQp_lports (s : State) (n : Nat) (f : Qp → Qp) : (modQp s n f).lports = s.lports := rfl
@[simp] theorem modQp_cals (s : State) (n : Nat) (f : Qp → Qp) : (modQp s n f).cals = s.cals := rfl
@[simp] theorem modQp_engs (s : State) (n : Nat) (f : Qp → Qp) : (modQp s n f).engs = s.engs := rfl
@[simp] theorem modQp_optCfg (s : State) (n : Nat) (f : Qp → Qp) : (modQp s n f).optCfg = s.optCfg := rfl
@[simp] theorem modQp_calCfg (s : State) (n : Nat) (f : Qp → Qp) : (modQp s n f).calCfg = s.calCfg := rfl
@[simp] theorem modQp_calAt (s : State) (n : Nat) (f : Qp → Qp) : (modQp s n f).calAt = s.calAt := rfl
@[simp] theorem modQp_sec (s : State) (n : Nat) (f : Qp → Qp) : (modQp s n f).sec = s.sec := rfl
@[simp] theorem modQp_zoo (s : State) (n : Nat) (f : Qp → Qp) : (modQp s n f).zoo = s.zoo := rfl
@[simp] theorem modQp_col (s : State) (n : Nat) (f : Qp → Qp) : (modQp s n f).col = s.col := rfl
@[simp] theorem modQp_macCfg (s : State) (n : Nat) (f : Qp → Qp) : (modQp s n f).macCfg = s.macCfg := rfl
@[simp] theorem modQp_macs (s : State) (n : Nat) (f : Qp → Qp) : (modQp s n f).macs = s.macs := rfl
@[simp] theorem modQp_compat (s : State) (n : Nat) (f : Qp → Qp) : (modQp s n f).compat = s.compat := rfl
@[simp] theorem modQp_peers (s : State) (n : Nat) (f : Qp → Qp) : (modQp s n f).peers = s.peers := rfl
@[simp] theorem modQp_filters (s : State) (n : Nat) (f : Qp → Qp) : (modQp s n f).filters = s.filters := rfl
@[simp] theorem modQp_outbox (s : State) (n : Nat) (f : Qp → Qp) : (modQp s n f).outbox = s.outbox := rfl

/-! ## modNear -/

@[simp] theorem modNear_pending (s : State) (n : Nat) (f : NearPort → NearPort) : (modNear s n f).pending = s.pending := rfl
@[simp] theorem modNear_pkg (s : State) (n : Nat) (f : NearPort → NearPort) : (modNear s n f).pkg = s.pkg := rfl
@[simp] theorem modNear_glb (s : State) (n : Nat) (f : NearPort → NearPort) : (modNear s n f).glb = s.glb := rfl
@[simp] theorem modNear_fw (s : State) (n : Nat) (f : NearPort → NearPort) : (modNear s n f).fw = s.fw := rfl
@[simp] theorem modNear_codex (s : State) (n : Nat) (f : NearPort → NearPort) : (modNear s n f).codex = s.codex := rfl
@[simp] theorem modNear_time (s : State) (n : Nat) (f : NearPort → NearPort) : (modNear s n f).time = s.time := rfl
@[simp] theorem modNear_hbm (s : State) (n : Nat) (f : NearPort → NearPort) : (modNear s n f).hbm = s.hbm := rfl
@[simp] theorem modNear_wlog (s : State) (n : Nat) (f : NearPort → NearPort) : (modNear s n f).wlog = s.wlog := rfl
@[simp] theorem modNear_wipe (s : State) (n : Nat) (f : NearPort → NearPort) : (modNear s n f).wipe = s.wipe := rfl
@[simp] theorem modNear_cyc (s : State) (n : Nat) (f : NearPort → NearPort) : (modNear s n f).cyc = s.cyc := rfl
@[simp] theorem modNear_draws (s : State) (n : Nat) (f : NearPort → NearPort) : (modNear s n f).draws = s.draws := rfl
@[simp] theorem modNear_fns (s : State) (n : Nat) (f : NearPort → NearPort) : (modNear s n f).fns = s.fns := rfl
@[simp] theorem modNear_cqs (s : State) (n : Nat) (f : NearPort → NearPort) : (modNear s n f).cqs = s.cqs := rfl
@[simp] theorem modNear_mgrSq (s : State) (n : Nat) (f : NearPort → NearPort) : (modNear s n f).mgrSq = s.mgrSq := rfl
@[simp] theorem modNear_mgrCq (s : State) (n : Nat) (f : NearPort → NearPort) : (modNear s n f).mgrCq = s.mgrCq := rfl
@[simp] theorem modNear_mgrBase (s : State) (n : Nat) (f : NearPort → NearPort) : (modNear s n f).mgrBase = s.mgrBase := rfl
@[simp] theorem modNear_mgrCfg (s : State) (n : Nat) (f : NearPort → NearPort) : (modNear s n f).mgrCfg = s.mgrCfg := rfl
@[simp] theorem modNear_mgrErr (s : State) (n : Nat) (f : NearPort → NearPort) : (modNear s n f).mgrErr = s.mgrErr := rfl
@[simp] theorem modNear_journal (s : State) (n : Nat) (f : NearPort → NearPort) : (modNear s n f).journal = s.journal := rfl
@[simp] theorem modNear_doms (s : State) (n : Nat) (f : NearPort → NearPort) : (modNear s n f).doms = s.doms := rfl
@[simp] theorem modNear_stages (s : State) (n : Nat) (f : NearPort → NearPort) : (modNear s n f).stages = s.stages := rfl
@[simp] theorem modNear_exports (s : State) (n : Nat) (f : NearPort → NearPort) : (modNear s n f).exports = s.exports := rfl
@[simp] theorem modNear_xl (s : State) (n : Nat) (f : NearPort → NearPort) : (modNear s n f).xl = s.xl := rfl
@[simp] theorem modNear_cxl (s : State) (n : Nat) (f : NearPort → NearPort) : (modNear s n f).cxl = s.cxl := rfl
@[simp] theorem modNear_qps (s : State) (n : Nat) (f : NearPort → NearPort) : (modNear s n f).qps = s.qps := rfl
@[simp] theorem modNear_qpNext (s : State) (n : Nat) (f : NearPort → NearPort) : (modNear s n f).qpNext = s.qpNext := rfl
@[simp] theorem modNear_gone (s : State) (n : Nat) (f : NearPort → NearPort) : (modNear s n f).gone = s.gone := rfl
@[simp] theorem modNear_regions (s : State) (n : Nat) (f : NearPort → NearPort) : (modNear s n f).regions = s.regions := rfl
@[simp] theorem modNear_regionGen (s : State) (n : Nat) (f : NearPort → NearPort) : (modNear s n f).regionGen = s.regionGen := rfl
@[simp] theorem modNear_trig (s : State) (n : Nat) (f : NearPort → NearPort) : (modNear s n f).trig = s.trig := rfl
@[simp] theorem modNear_lat (s : State) (n : Nat) (f : NearPort → NearPort) : (modNear s n f).lat = s.lat := rfl
@[simp] theorem modNear_latOut (s : State) (n : Nat) (f : NearPort → NearPort) : (modNear s n f).latOut = s.latOut := rfl
@[simp] theorem modNear_macOut (s : State) (n : Nat) (f : NearPort → NearPort) : (modNear s n f).macOut = s.macOut := rfl
@[simp] theorem modNear_prioWeight (s : State) (n : Nat) (f : NearPort → NearPort) : (modNear s n f).prioWeight = s.prioWeight := rfl
@[simp] theorem modNear_police (s : State) (n : Nat) (f : NearPort → NearPort) : (modNear s n f).police = s.police := rfl
@[simp] theorem modNear_sched (s : State) (n : Nat) (f : NearPort → NearPort) : (modNear s n f).sched = s.sched := rfl
@[simp] theorem modNear_cnt (s : State) (n : Nat) (f : NearPort → NearPort) : (modNear s n f).cnt = s.cnt := rfl
@[simp] theorem modNear_near (s : State) (n : Nat) (f : NearPort → NearPort) : (modNear s n f).near = lmod s.near n f := rfl
@[simp] theorem modNear_keys (s : State) (n : Nat) (f : NearPort → NearPort) : (modNear s n f).keys = s.keys := rfl
@[simp] theorem modNear_keyLoad (s : State) (n : Nat) (f : NearPort → NearPort) : (modNear s n f).keyLoad = s.keyLoad := rfl
@[simp] theorem modNear_lports (s : State) (n : Nat) (f : NearPort → NearPort) : (modNear s n f).lports = s.lports := rfl
@[simp] theorem modNear_cals (s : State) (n : Nat) (f : NearPort → NearPort) : (modNear s n f).cals = s.cals := rfl
@[simp] theorem modNear_engs (s : State) (n : Nat) (f : NearPort → NearPort) : (modNear s n f).engs = s.engs := rfl
@[simp] theorem modNear_optCfg (s : State) (n : Nat) (f : NearPort → NearPort) : (modNear s n f).optCfg = s.optCfg := rfl
@[simp] theorem modNear_calCfg (s : State) (n : Nat) (f : NearPort → NearPort) : (modNear s n f).calCfg = s.calCfg := rfl
@[simp] theorem modNear_calAt (s : State) (n : Nat) (f : NearPort → NearPort) : (modNear s n f).calAt = s.calAt := rfl
@[simp] theorem modNear_sec (s : State) (n : Nat) (f : NearPort → NearPort) : (modNear s n f).sec = s.sec := rfl
@[simp] theorem modNear_zoo (s : State) (n : Nat) (f : NearPort → NearPort) : (modNear s n f).zoo = s.zoo := rfl
@[simp] theorem modNear_col (s : State) (n : Nat) (f : NearPort → NearPort) : (modNear s n f).col = s.col := rfl
@[simp] theorem modNear_macCfg (s : State) (n : Nat) (f : NearPort → NearPort) : (modNear s n f).macCfg = s.macCfg := rfl
@[simp] theorem modNear_macs (s : State) (n : Nat) (f : NearPort → NearPort) : (modNear s n f).macs = s.macs := rfl
@[simp] theorem modNear_compat (s : State) (n : Nat) (f : NearPort → NearPort) : (modNear s n f).compat = s.compat := rfl
@[simp] theorem modNear_peers (s : State) (n : Nat) (f : NearPort → NearPort) : (modNear s n f).peers = s.peers := rfl
@[simp] theorem modNear_filters (s : State) (n : Nat) (f : NearPort → NearPort) : (modNear s n f).filters = s.filters := rfl
@[simp] theorem modNear_outbox (s : State) (n : Nat) (f : NearPort → NearPort) : (modNear s n f).outbox = s.outbox := rfl

/-! ## modTime -/

@[simp] theorem modTime_pending (s : State) (f : TimeUnit → TimeUnit) : (modTime s f).pending = s.pending := rfl
@[simp] theorem modTime_pkg (s : State) (f : TimeUnit → TimeUnit) : (modTime s f).pkg = s.pkg := rfl
@[simp] theorem modTime_glb (s : State) (f : TimeUnit → TimeUnit) : (modTime s f).glb = s.glb := rfl
@[simp] theorem modTime_fw (s : State) (f : TimeUnit → TimeUnit) : (modTime s f).fw = s.fw := rfl
@[simp] theorem modTime_codex (s : State) (f : TimeUnit → TimeUnit) : (modTime s f).codex = s.codex := rfl
@[simp] theorem modTime_time (s : State) (f : TimeUnit → TimeUnit) : (modTime s f).time = f s.time := rfl
@[simp] theorem modTime_hbm (s : State) (f : TimeUnit → TimeUnit) : (modTime s f).hbm = s.hbm := rfl
@[simp] theorem modTime_wlog (s : State) (f : TimeUnit → TimeUnit) : (modTime s f).wlog = s.wlog := rfl
@[simp] theorem modTime_wipe (s : State) (f : TimeUnit → TimeUnit) : (modTime s f).wipe = s.wipe := rfl
@[simp] theorem modTime_cyc (s : State) (f : TimeUnit → TimeUnit) : (modTime s f).cyc = s.cyc := rfl
@[simp] theorem modTime_draws (s : State) (f : TimeUnit → TimeUnit) : (modTime s f).draws = s.draws := rfl
@[simp] theorem modTime_fns (s : State) (f : TimeUnit → TimeUnit) : (modTime s f).fns = s.fns := rfl
@[simp] theorem modTime_cqs (s : State) (f : TimeUnit → TimeUnit) : (modTime s f).cqs = s.cqs := rfl
@[simp] theorem modTime_mgrSq (s : State) (f : TimeUnit → TimeUnit) : (modTime s f).mgrSq = s.mgrSq := rfl
@[simp] theorem modTime_mgrCq (s : State) (f : TimeUnit → TimeUnit) : (modTime s f).mgrCq = s.mgrCq := rfl
@[simp] theorem modTime_mgrBase (s : State) (f : TimeUnit → TimeUnit) : (modTime s f).mgrBase = s.mgrBase := rfl
@[simp] theorem modTime_mgrCfg (s : State) (f : TimeUnit → TimeUnit) : (modTime s f).mgrCfg = s.mgrCfg := rfl
@[simp] theorem modTime_mgrErr (s : State) (f : TimeUnit → TimeUnit) : (modTime s f).mgrErr = s.mgrErr := rfl
@[simp] theorem modTime_journal (s : State) (f : TimeUnit → TimeUnit) : (modTime s f).journal = s.journal := rfl
@[simp] theorem modTime_doms (s : State) (f : TimeUnit → TimeUnit) : (modTime s f).doms = s.doms := rfl
@[simp] theorem modTime_stages (s : State) (f : TimeUnit → TimeUnit) : (modTime s f).stages = s.stages := rfl
@[simp] theorem modTime_exports (s : State) (f : TimeUnit → TimeUnit) : (modTime s f).exports = s.exports := rfl
@[simp] theorem modTime_xl (s : State) (f : TimeUnit → TimeUnit) : (modTime s f).xl = s.xl := rfl
@[simp] theorem modTime_cxl (s : State) (f : TimeUnit → TimeUnit) : (modTime s f).cxl = s.cxl := rfl
@[simp] theorem modTime_qps (s : State) (f : TimeUnit → TimeUnit) : (modTime s f).qps = s.qps := rfl
@[simp] theorem modTime_qpNext (s : State) (f : TimeUnit → TimeUnit) : (modTime s f).qpNext = s.qpNext := rfl
@[simp] theorem modTime_gone (s : State) (f : TimeUnit → TimeUnit) : (modTime s f).gone = s.gone := rfl
@[simp] theorem modTime_regions (s : State) (f : TimeUnit → TimeUnit) : (modTime s f).regions = s.regions := rfl
@[simp] theorem modTime_regionGen (s : State) (f : TimeUnit → TimeUnit) : (modTime s f).regionGen = s.regionGen := rfl
@[simp] theorem modTime_trig (s : State) (f : TimeUnit → TimeUnit) : (modTime s f).trig = s.trig := rfl
@[simp] theorem modTime_lat (s : State) (f : TimeUnit → TimeUnit) : (modTime s f).lat = s.lat := rfl
@[simp] theorem modTime_latOut (s : State) (f : TimeUnit → TimeUnit) : (modTime s f).latOut = s.latOut := rfl
@[simp] theorem modTime_macOut (s : State) (f : TimeUnit → TimeUnit) : (modTime s f).macOut = s.macOut := rfl
@[simp] theorem modTime_prioWeight (s : State) (f : TimeUnit → TimeUnit) : (modTime s f).prioWeight = s.prioWeight := rfl
@[simp] theorem modTime_police (s : State) (f : TimeUnit → TimeUnit) : (modTime s f).police = s.police := rfl
@[simp] theorem modTime_sched (s : State) (f : TimeUnit → TimeUnit) : (modTime s f).sched = s.sched := rfl
@[simp] theorem modTime_cnt (s : State) (f : TimeUnit → TimeUnit) : (modTime s f).cnt = s.cnt := rfl
@[simp] theorem modTime_near (s : State) (f : TimeUnit → TimeUnit) : (modTime s f).near = s.near := rfl
@[simp] theorem modTime_keys (s : State) (f : TimeUnit → TimeUnit) : (modTime s f).keys = s.keys := rfl
@[simp] theorem modTime_keyLoad (s : State) (f : TimeUnit → TimeUnit) : (modTime s f).keyLoad = s.keyLoad := rfl
@[simp] theorem modTime_lports (s : State) (f : TimeUnit → TimeUnit) : (modTime s f).lports = s.lports := rfl
@[simp] theorem modTime_cals (s : State) (f : TimeUnit → TimeUnit) : (modTime s f).cals = s.cals := rfl
@[simp] theorem modTime_engs (s : State) (f : TimeUnit → TimeUnit) : (modTime s f).engs = s.engs := rfl
@[simp] theorem modTime_optCfg (s : State) (f : TimeUnit → TimeUnit) : (modTime s f).optCfg = s.optCfg := rfl
@[simp] theorem modTime_calCfg (s : State) (f : TimeUnit → TimeUnit) : (modTime s f).calCfg = s.calCfg := rfl
@[simp] theorem modTime_calAt (s : State) (f : TimeUnit → TimeUnit) : (modTime s f).calAt = s.calAt := rfl
@[simp] theorem modTime_sec (s : State) (f : TimeUnit → TimeUnit) : (modTime s f).sec = s.sec := rfl
@[simp] theorem modTime_zoo (s : State) (f : TimeUnit → TimeUnit) : (modTime s f).zoo = s.zoo := rfl
@[simp] theorem modTime_col (s : State) (f : TimeUnit → TimeUnit) : (modTime s f).col = s.col := rfl
@[simp] theorem modTime_macCfg (s : State) (f : TimeUnit → TimeUnit) : (modTime s f).macCfg = s.macCfg := rfl
@[simp] theorem modTime_macs (s : State) (f : TimeUnit → TimeUnit) : (modTime s f).macs = s.macs := rfl
@[simp] theorem modTime_compat (s : State) (f : TimeUnit → TimeUnit) : (modTime s f).compat = s.compat := rfl
@[simp] theorem modTime_peers (s : State) (f : TimeUnit → TimeUnit) : (modTime s f).peers = s.peers := rfl
@[simp] theorem modTime_filters (s : State) (f : TimeUnit → TimeUnit) : (modTime s f).filters = s.filters := rfl
@[simp] theorem modTime_outbox (s : State) (f : TimeUnit → TimeUnit) : (modTime s f).outbox = s.outbox := rfl

/-! ## modGlb -/

@[simp] theorem modGlb_pending (s : State) (f : Glb → Glb) : (modGlb s f).pending = s.pending := rfl
@[simp] theorem modGlb_pkg (s : State) (f : Glb → Glb) : (modGlb s f).pkg = s.pkg := rfl
@[simp] theorem modGlb_glb (s : State) (f : Glb → Glb) : (modGlb s f).glb = f s.glb := rfl
@[simp] theorem modGlb_fw (s : State) (f : Glb → Glb) : (modGlb s f).fw = s.fw := rfl
@[simp] theorem modGlb_codex (s : State) (f : Glb → Glb) : (modGlb s f).codex = s.codex := rfl
@[simp] theorem modGlb_time (s : State) (f : Glb → Glb) : (modGlb s f).time = s.time := rfl
@[simp] theorem modGlb_hbm (s : State) (f : Glb → Glb) : (modGlb s f).hbm = s.hbm := rfl
@[simp] theorem modGlb_wlog (s : State) (f : Glb → Glb) : (modGlb s f).wlog = s.wlog := rfl
@[simp] theorem modGlb_wipe (s : State) (f : Glb → Glb) : (modGlb s f).wipe = s.wipe := rfl
@[simp] theorem modGlb_cyc (s : State) (f : Glb → Glb) : (modGlb s f).cyc = s.cyc := rfl
@[simp] theorem modGlb_draws (s : State) (f : Glb → Glb) : (modGlb s f).draws = s.draws := rfl
@[simp] theorem modGlb_fns (s : State) (f : Glb → Glb) : (modGlb s f).fns = s.fns := rfl
@[simp] theorem modGlb_cqs (s : State) (f : Glb → Glb) : (modGlb s f).cqs = s.cqs := rfl
@[simp] theorem modGlb_mgrSq (s : State) (f : Glb → Glb) : (modGlb s f).mgrSq = s.mgrSq := rfl
@[simp] theorem modGlb_mgrCq (s : State) (f : Glb → Glb) : (modGlb s f).mgrCq = s.mgrCq := rfl
@[simp] theorem modGlb_mgrBase (s : State) (f : Glb → Glb) : (modGlb s f).mgrBase = s.mgrBase := rfl
@[simp] theorem modGlb_mgrCfg (s : State) (f : Glb → Glb) : (modGlb s f).mgrCfg = s.mgrCfg := rfl
@[simp] theorem modGlb_mgrErr (s : State) (f : Glb → Glb) : (modGlb s f).mgrErr = s.mgrErr := rfl
@[simp] theorem modGlb_journal (s : State) (f : Glb → Glb) : (modGlb s f).journal = s.journal := rfl
@[simp] theorem modGlb_doms (s : State) (f : Glb → Glb) : (modGlb s f).doms = s.doms := rfl
@[simp] theorem modGlb_stages (s : State) (f : Glb → Glb) : (modGlb s f).stages = s.stages := rfl
@[simp] theorem modGlb_exports (s : State) (f : Glb → Glb) : (modGlb s f).exports = s.exports := rfl
@[simp] theorem modGlb_xl (s : State) (f : Glb → Glb) : (modGlb s f).xl = s.xl := rfl
@[simp] theorem modGlb_cxl (s : State) (f : Glb → Glb) : (modGlb s f).cxl = s.cxl := rfl
@[simp] theorem modGlb_qps (s : State) (f : Glb → Glb) : (modGlb s f).qps = s.qps := rfl
@[simp] theorem modGlb_qpNext (s : State) (f : Glb → Glb) : (modGlb s f).qpNext = s.qpNext := rfl
@[simp] theorem modGlb_gone (s : State) (f : Glb → Glb) : (modGlb s f).gone = s.gone := rfl
@[simp] theorem modGlb_regions (s : State) (f : Glb → Glb) : (modGlb s f).regions = s.regions := rfl
@[simp] theorem modGlb_regionGen (s : State) (f : Glb → Glb) : (modGlb s f).regionGen = s.regionGen := rfl
@[simp] theorem modGlb_trig (s : State) (f : Glb → Glb) : (modGlb s f).trig = s.trig := rfl
@[simp] theorem modGlb_lat (s : State) (f : Glb → Glb) : (modGlb s f).lat = s.lat := rfl
@[simp] theorem modGlb_latOut (s : State) (f : Glb → Glb) : (modGlb s f).latOut = s.latOut := rfl
@[simp] theorem modGlb_macOut (s : State) (f : Glb → Glb) : (modGlb s f).macOut = s.macOut := rfl
@[simp] theorem modGlb_prioWeight (s : State) (f : Glb → Glb) : (modGlb s f).prioWeight = s.prioWeight := rfl
@[simp] theorem modGlb_police (s : State) (f : Glb → Glb) : (modGlb s f).police = s.police := rfl
@[simp] theorem modGlb_sched (s : State) (f : Glb → Glb) : (modGlb s f).sched = s.sched := rfl
@[simp] theorem modGlb_cnt (s : State) (f : Glb → Glb) : (modGlb s f).cnt = s.cnt := rfl
@[simp] theorem modGlb_near (s : State) (f : Glb → Glb) : (modGlb s f).near = s.near := rfl
@[simp] theorem modGlb_keys (s : State) (f : Glb → Glb) : (modGlb s f).keys = s.keys := rfl
@[simp] theorem modGlb_keyLoad (s : State) (f : Glb → Glb) : (modGlb s f).keyLoad = s.keyLoad := rfl
@[simp] theorem modGlb_lports (s : State) (f : Glb → Glb) : (modGlb s f).lports = s.lports := rfl
@[simp] theorem modGlb_cals (s : State) (f : Glb → Glb) : (modGlb s f).cals = s.cals := rfl
@[simp] theorem modGlb_engs (s : State) (f : Glb → Glb) : (modGlb s f).engs = s.engs := rfl
@[simp] theorem modGlb_optCfg (s : State) (f : Glb → Glb) : (modGlb s f).optCfg = s.optCfg := rfl
@[simp] theorem modGlb_calCfg (s : State) (f : Glb → Glb) : (modGlb s f).calCfg = s.calCfg := rfl
@[simp] theorem modGlb_calAt (s : State) (f : Glb → Glb) : (modGlb s f).calAt = s.calAt := rfl
@[simp] theorem modGlb_sec (s : State) (f : Glb → Glb) : (modGlb s f).sec = s.sec := rfl
@[simp] theorem modGlb_zoo (s : State) (f : Glb → Glb) : (modGlb s f).zoo = s.zoo := rfl
@[simp] theorem modGlb_col (s : State) (f : Glb → Glb) : (modGlb s f).col = s.col := rfl
@[simp] theorem modGlb_macCfg (s : State) (f : Glb → Glb) : (modGlb s f).macCfg = s.macCfg := rfl
@[simp] theorem modGlb_macs (s : State) (f : Glb → Glb) : (modGlb s f).macs = s.macs := rfl
@[simp] theorem modGlb_compat (s : State) (f : Glb → Glb) : (modGlb s f).compat = s.compat := rfl
@[simp] theorem modGlb_peers (s : State) (f : Glb → Glb) : (modGlb s f).peers = s.peers := rfl
@[simp] theorem modGlb_filters (s : State) (f : Glb → Glb) : (modGlb s f).filters = s.filters := rfl
@[simp] theorem modGlb_outbox (s : State) (f : Glb → Glb) : (modGlb s f).outbox = s.outbox := rfl

/-! ## modCxl -/

@[simp] theorem modCxl_pending (s : State) (f : Cxl → Cxl) : (modCxl s f).pending = s.pending := rfl
@[simp] theorem modCxl_pkg (s : State) (f : Cxl → Cxl) : (modCxl s f).pkg = s.pkg := rfl
@[simp] theorem modCxl_glb (s : State) (f : Cxl → Cxl) : (modCxl s f).glb = s.glb := rfl
@[simp] theorem modCxl_fw (s : State) (f : Cxl → Cxl) : (modCxl s f).fw = s.fw := rfl
@[simp] theorem modCxl_codex (s : State) (f : Cxl → Cxl) : (modCxl s f).codex = s.codex := rfl
@[simp] theorem modCxl_time (s : State) (f : Cxl → Cxl) : (modCxl s f).time = s.time := rfl
@[simp] theorem modCxl_hbm (s : State) (f : Cxl → Cxl) : (modCxl s f).hbm = s.hbm := rfl
@[simp] theorem modCxl_wlog (s : State) (f : Cxl → Cxl) : (modCxl s f).wlog = s.wlog := rfl
@[simp] theorem modCxl_wipe (s : State) (f : Cxl → Cxl) : (modCxl s f).wipe = s.wipe := rfl
@[simp] theorem modCxl_cyc (s : State) (f : Cxl → Cxl) : (modCxl s f).cyc = s.cyc := rfl
@[simp] theorem modCxl_draws (s : State) (f : Cxl → Cxl) : (modCxl s f).draws = s.draws := rfl
@[simp] theorem modCxl_fns (s : State) (f : Cxl → Cxl) : (modCxl s f).fns = s.fns := rfl
@[simp] theorem modCxl_cqs (s : State) (f : Cxl → Cxl) : (modCxl s f).cqs = s.cqs := rfl
@[simp] theorem modCxl_mgrSq (s : State) (f : Cxl → Cxl) : (modCxl s f).mgrSq = s.mgrSq := rfl
@[simp] theorem modCxl_mgrCq (s : State) (f : Cxl → Cxl) : (modCxl s f).mgrCq = s.mgrCq := rfl
@[simp] theorem modCxl_mgrBase (s : State) (f : Cxl → Cxl) : (modCxl s f).mgrBase = s.mgrBase := rfl
@[simp] theorem modCxl_mgrCfg (s : State) (f : Cxl → Cxl) : (modCxl s f).mgrCfg = s.mgrCfg := rfl
@[simp] theorem modCxl_mgrErr (s : State) (f : Cxl → Cxl) : (modCxl s f).mgrErr = s.mgrErr := rfl
@[simp] theorem modCxl_journal (s : State) (f : Cxl → Cxl) : (modCxl s f).journal = s.journal := rfl
@[simp] theorem modCxl_doms (s : State) (f : Cxl → Cxl) : (modCxl s f).doms = s.doms := rfl
@[simp] theorem modCxl_stages (s : State) (f : Cxl → Cxl) : (modCxl s f).stages = s.stages := rfl
@[simp] theorem modCxl_exports (s : State) (f : Cxl → Cxl) : (modCxl s f).exports = s.exports := rfl
@[simp] theorem modCxl_xl (s : State) (f : Cxl → Cxl) : (modCxl s f).xl = s.xl := rfl
@[simp] theorem modCxl_cxl (s : State) (f : Cxl → Cxl) : (modCxl s f).cxl = f s.cxl := rfl
@[simp] theorem modCxl_qps (s : State) (f : Cxl → Cxl) : (modCxl s f).qps = s.qps := rfl
@[simp] theorem modCxl_qpNext (s : State) (f : Cxl → Cxl) : (modCxl s f).qpNext = s.qpNext := rfl
@[simp] theorem modCxl_gone (s : State) (f : Cxl → Cxl) : (modCxl s f).gone = s.gone := rfl
@[simp] theorem modCxl_regions (s : State) (f : Cxl → Cxl) : (modCxl s f).regions = s.regions := rfl
@[simp] theorem modCxl_regionGen (s : State) (f : Cxl → Cxl) : (modCxl s f).regionGen = s.regionGen := rfl
@[simp] theorem modCxl_trig (s : State) (f : Cxl → Cxl) : (modCxl s f).trig = s.trig := rfl
@[simp] theorem modCxl_lat (s : State) (f : Cxl → Cxl) : (modCxl s f).lat = s.lat := rfl
@[simp] theorem modCxl_latOut (s : State) (f : Cxl → Cxl) : (modCxl s f).latOut = s.latOut := rfl
@[simp] theorem modCxl_macOut (s : State) (f : Cxl → Cxl) : (modCxl s f).macOut = s.macOut := rfl
@[simp] theorem modCxl_prioWeight (s : State) (f : Cxl → Cxl) : (modCxl s f).prioWeight = s.prioWeight := rfl
@[simp] theorem modCxl_police (s : State) (f : Cxl → Cxl) : (modCxl s f).police = s.police := rfl
@[simp] theorem modCxl_sched (s : State) (f : Cxl → Cxl) : (modCxl s f).sched = s.sched := rfl
@[simp] theorem modCxl_cnt (s : State) (f : Cxl → Cxl) : (modCxl s f).cnt = s.cnt := rfl
@[simp] theorem modCxl_near (s : State) (f : Cxl → Cxl) : (modCxl s f).near = s.near := rfl
@[simp] theorem modCxl_keys (s : State) (f : Cxl → Cxl) : (modCxl s f).keys = s.keys := rfl
@[simp] theorem modCxl_keyLoad (s : State) (f : Cxl → Cxl) : (modCxl s f).keyLoad = s.keyLoad := rfl
@[simp] theorem modCxl_lports (s : State) (f : Cxl → Cxl) : (modCxl s f).lports = s.lports := rfl
@[simp] theorem modCxl_cals (s : State) (f : Cxl → Cxl) : (modCxl s f).cals = s.cals := rfl
@[simp] theorem modCxl_engs (s : State) (f : Cxl → Cxl) : (modCxl s f).engs = s.engs := rfl
@[simp] theorem modCxl_optCfg (s : State) (f : Cxl → Cxl) : (modCxl s f).optCfg = s.optCfg := rfl
@[simp] theorem modCxl_calCfg (s : State) (f : Cxl → Cxl) : (modCxl s f).calCfg = s.calCfg := rfl
@[simp] theorem modCxl_calAt (s : State) (f : Cxl → Cxl) : (modCxl s f).calAt = s.calAt := rfl
@[simp] theorem modCxl_sec (s : State) (f : Cxl → Cxl) : (modCxl s f).sec = s.sec := rfl
@[simp] theorem modCxl_zoo (s : State) (f : Cxl → Cxl) : (modCxl s f).zoo = s.zoo := rfl
@[simp] theorem modCxl_col (s : State) (f : Cxl → Cxl) : (modCxl s f).col = s.col := rfl
@[simp] theorem modCxl_macCfg (s : State) (f : Cxl → Cxl) : (modCxl s f).macCfg = s.macCfg := rfl
@[simp] theorem modCxl_macs (s : State) (f : Cxl → Cxl) : (modCxl s f).macs = s.macs := rfl
@[simp] theorem modCxl_compat (s : State) (f : Cxl → Cxl) : (modCxl s f).compat = s.compat := rfl
@[simp] theorem modCxl_peers (s : State) (f : Cxl → Cxl) : (modCxl s f).peers = s.peers := rfl
@[simp] theorem modCxl_filters (s : State) (f : Cxl → Cxl) : (modCxl s f).filters = s.filters := rfl
@[simp] theorem modCxl_outbox (s : State) (f : Cxl → Cxl) : (modCxl s f).outbox = s.outbox := rfl

/-! ## modXl -/

@[simp] theorem modXl_pending (s : State) (f : Xl → Xl) : (modXl s f).pending = s.pending := rfl
@[simp] theorem modXl_pkg (s : State) (f : Xl → Xl) : (modXl s f).pkg = s.pkg := rfl
@[simp] theorem modXl_glb (s : State) (f : Xl → Xl) : (modXl s f).glb = s.glb := rfl
@[simp] theorem modXl_fw (s : State) (f : Xl → Xl) : (modXl s f).fw = s.fw := rfl
@[simp] theorem modXl_codex (s : State) (f : Xl → Xl) : (modXl s f).codex = s.codex := rfl
@[simp] theorem modXl_time (s : State) (f : Xl → Xl) : (modXl s f).time = s.time := rfl
@[simp] theorem modXl_hbm (s : State) (f : Xl → Xl) : (modXl s f).hbm = s.hbm := rfl
@[simp] theorem modXl_wlog (s : State) (f : Xl → Xl) : (modXl s f).wlog = s.wlog := rfl
@[simp] theorem modXl_wipe (s : State) (f : Xl → Xl) : (modXl s f).wipe = s.wipe := rfl
@[simp] theorem modXl_cyc (s : State) (f : Xl → Xl) : (modXl s f).cyc = s.cyc := rfl
@[simp] theorem modXl_draws (s : State) (f : Xl → Xl) : (modXl s f).draws = s.draws := rfl
@[simp] theorem modXl_fns (s : State) (f : Xl → Xl) : (modXl s f).fns = s.fns := rfl
@[simp] theorem modXl_cqs (s : State) (f : Xl → Xl) : (modXl s f).cqs = s.cqs := rfl
@[simp] theorem modXl_mgrSq (s : State) (f : Xl → Xl) : (modXl s f).mgrSq = s.mgrSq := rfl
@[simp] theorem modXl_mgrCq (s : State) (f : Xl → Xl) : (modXl s f).mgrCq = s.mgrCq := rfl
@[simp] theorem modXl_mgrBase (s : State) (f : Xl → Xl) : (modXl s f).mgrBase = s.mgrBase := rfl
@[simp] theorem modXl_mgrCfg (s : State) (f : Xl → Xl) : (modXl s f).mgrCfg = s.mgrCfg := rfl
@[simp] theorem modXl_mgrErr (s : State) (f : Xl → Xl) : (modXl s f).mgrErr = s.mgrErr := rfl
@[simp] theorem modXl_journal (s : State) (f : Xl → Xl) : (modXl s f).journal = s.journal := rfl
@[simp] theorem modXl_doms (s : State) (f : Xl → Xl) : (modXl s f).doms = s.doms := rfl
@[simp] theorem modXl_stages (s : State) (f : Xl → Xl) : (modXl s f).stages = s.stages := rfl
@[simp] theorem modXl_exports (s : State) (f : Xl → Xl) : (modXl s f).exports = s.exports := rfl
@[simp] theorem modXl_xl (s : State) (f : Xl → Xl) : (modXl s f).xl = f s.xl := rfl
@[simp] theorem modXl_cxl (s : State) (f : Xl → Xl) : (modXl s f).cxl = s.cxl := rfl
@[simp] theorem modXl_qps (s : State) (f : Xl → Xl) : (modXl s f).qps = s.qps := rfl
@[simp] theorem modXl_qpNext (s : State) (f : Xl → Xl) : (modXl s f).qpNext = s.qpNext := rfl
@[simp] theorem modXl_gone (s : State) (f : Xl → Xl) : (modXl s f).gone = s.gone := rfl
@[simp] theorem modXl_regions (s : State) (f : Xl → Xl) : (modXl s f).regions = s.regions := rfl
@[simp] theorem modXl_regionGen (s : State) (f : Xl → Xl) : (modXl s f).regionGen = s.regionGen := rfl
@[simp] theorem modXl_trig (s : State) (f : Xl → Xl) : (modXl s f).trig = s.trig := rfl
@[simp] theorem modXl_lat (s : State) (f : Xl → Xl) : (modXl s f).lat = s.lat := rfl
@[simp] theorem modXl_latOut (s : State) (f : Xl → Xl) : (modXl s f).latOut = s.latOut := rfl
@[simp] theorem modXl_macOut (s : State) (f : Xl → Xl) : (modXl s f).macOut = s.macOut := rfl
@[simp] theorem modXl_prioWeight (s : State) (f : Xl → Xl) : (modXl s f).prioWeight = s.prioWeight := rfl
@[simp] theorem modXl_police (s : State) (f : Xl → Xl) : (modXl s f).police = s.police := rfl
@[simp] theorem modXl_sched (s : State) (f : Xl → Xl) : (modXl s f).sched = s.sched := rfl
@[simp] theorem modXl_cnt (s : State) (f : Xl → Xl) : (modXl s f).cnt = s.cnt := rfl
@[simp] theorem modXl_near (s : State) (f : Xl → Xl) : (modXl s f).near = s.near := rfl
@[simp] theorem modXl_keys (s : State) (f : Xl → Xl) : (modXl s f).keys = s.keys := rfl
@[simp] theorem modXl_keyLoad (s : State) (f : Xl → Xl) : (modXl s f).keyLoad = s.keyLoad := rfl
@[simp] theorem modXl_lports (s : State) (f : Xl → Xl) : (modXl s f).lports = s.lports := rfl
@[simp] theorem modXl_cals (s : State) (f : Xl → Xl) : (modXl s f).cals = s.cals := rfl
@[simp] theorem modXl_engs (s : State) (f : Xl → Xl) : (modXl s f).engs = s.engs := rfl
@[simp] theorem modXl_optCfg (s : State) (f : Xl → Xl) : (modXl s f).optCfg = s.optCfg := rfl
@[simp] theorem modXl_calCfg (s : State) (f : Xl → Xl) : (modXl s f).calCfg = s.calCfg := rfl
@[simp] theorem modXl_calAt (s : State) (f : Xl → Xl) : (modXl s f).calAt = s.calAt := rfl
@[simp] theorem modXl_sec (s : State) (f : Xl → Xl) : (modXl s f).sec = s.sec := rfl
@[simp] theorem modXl_zoo (s : State) (f : Xl → Xl) : (modXl s f).zoo = s.zoo := rfl
@[simp] theorem modXl_col (s : State) (f : Xl → Xl) : (modXl s f).col = s.col := rfl
@[simp] theorem modXl_macCfg (s : State) (f : Xl → Xl) : (modXl s f).macCfg = s.macCfg := rfl
@[simp] theorem modXl_macs (s : State) (f : Xl → Xl) : (modXl s f).macs = s.macs := rfl
@[simp] theorem modXl_compat (s : State) (f : Xl → Xl) : (modXl s f).compat = s.compat := rfl
@[simp] theorem modXl_peers (s : State) (f : Xl → Xl) : (modXl s f).peers = s.peers := rfl
@[simp] theorem modXl_filters (s : State) (f : Xl → Xl) : (modXl s f).filters = s.filters := rfl
@[simp] theorem modXl_outbox (s : State) (f : Xl → Xl) : (modXl s f).outbox = s.outbox := rfl

/-! ## modCodex -/

@[simp] theorem modCodex_pending (s : State) (f : Codex → Codex) : (modCodex s f).pending = s.pending := rfl
@[simp] theorem modCodex_pkg (s : State) (f : Codex → Codex) : (modCodex s f).pkg = s.pkg := rfl
@[simp] theorem modCodex_glb (s : State) (f : Codex → Codex) : (modCodex s f).glb = s.glb := rfl
@[simp] theorem modCodex_fw (s : State) (f : Codex → Codex) : (modCodex s f).fw = s.fw := rfl
@[simp] theorem modCodex_codex (s : State) (f : Codex → Codex) : (modCodex s f).codex = f s.codex := rfl
@[simp] theorem modCodex_time (s : State) (f : Codex → Codex) : (modCodex s f).time = s.time := rfl
@[simp] theorem modCodex_hbm (s : State) (f : Codex → Codex) : (modCodex s f).hbm = s.hbm := rfl
@[simp] theorem modCodex_wlog (s : State) (f : Codex → Codex) : (modCodex s f).wlog = s.wlog := rfl
@[simp] theorem modCodex_wipe (s : State) (f : Codex → Codex) : (modCodex s f).wipe = s.wipe := rfl
@[simp] theorem modCodex_cyc (s : State) (f : Codex → Codex) : (modCodex s f).cyc = s.cyc := rfl
@[simp] theorem modCodex_draws (s : State) (f : Codex → Codex) : (modCodex s f).draws = s.draws := rfl
@[simp] theorem modCodex_fns (s : State) (f : Codex → Codex) : (modCodex s f).fns = s.fns := rfl
@[simp] theorem modCodex_cqs (s : State) (f : Codex → Codex) : (modCodex s f).cqs = s.cqs := rfl
@[simp] theorem modCodex_mgrSq (s : State) (f : Codex → Codex) : (modCodex s f).mgrSq = s.mgrSq := rfl
@[simp] theorem modCodex_mgrCq (s : State) (f : Codex → Codex) : (modCodex s f).mgrCq = s.mgrCq := rfl
@[simp] theorem modCodex_mgrBase (s : State) (f : Codex → Codex) : (modCodex s f).mgrBase = s.mgrBase := rfl
@[simp] theorem modCodex_mgrCfg (s : State) (f : Codex → Codex) : (modCodex s f).mgrCfg = s.mgrCfg := rfl
@[simp] theorem modCodex_mgrErr (s : State) (f : Codex → Codex) : (modCodex s f).mgrErr = s.mgrErr := rfl
@[simp] theorem modCodex_journal (s : State) (f : Codex → Codex) : (modCodex s f).journal = s.journal := rfl
@[simp] theorem modCodex_doms (s : State) (f : Codex → Codex) : (modCodex s f).doms = s.doms := rfl
@[simp] theorem modCodex_stages (s : State) (f : Codex → Codex) : (modCodex s f).stages = s.stages := rfl
@[simp] theorem modCodex_exports (s : State) (f : Codex → Codex) : (modCodex s f).exports = s.exports := rfl
@[simp] theorem modCodex_xl (s : State) (f : Codex → Codex) : (modCodex s f).xl = s.xl := rfl
@[simp] theorem modCodex_cxl (s : State) (f : Codex → Codex) : (modCodex s f).cxl = s.cxl := rfl
@[simp] theorem modCodex_qps (s : State) (f : Codex → Codex) : (modCodex s f).qps = s.qps := rfl
@[simp] theorem modCodex_qpNext (s : State) (f : Codex → Codex) : (modCodex s f).qpNext = s.qpNext := rfl
@[simp] theorem modCodex_gone (s : State) (f : Codex → Codex) : (modCodex s f).gone = s.gone := rfl
@[simp] theorem modCodex_regions (s : State) (f : Codex → Codex) : (modCodex s f).regions = s.regions := rfl
@[simp] theorem modCodex_regionGen (s : State) (f : Codex → Codex) : (modCodex s f).regionGen = s.regionGen := rfl
@[simp] theorem modCodex_trig (s : State) (f : Codex → Codex) : (modCodex s f).trig = s.trig := rfl
@[simp] theorem modCodex_lat (s : State) (f : Codex → Codex) : (modCodex s f).lat = s.lat := rfl
@[simp] theorem modCodex_latOut (s : State) (f : Codex → Codex) : (modCodex s f).latOut = s.latOut := rfl
@[simp] theorem modCodex_macOut (s : State) (f : Codex → Codex) : (modCodex s f).macOut = s.macOut := rfl
@[simp] theorem modCodex_prioWeight (s : State) (f : Codex → Codex) : (modCodex s f).prioWeight = s.prioWeight := rfl
@[simp] theorem modCodex_police (s : State) (f : Codex → Codex) : (modCodex s f).police = s.police := rfl
@[simp] theorem modCodex_sched (s : State) (f : Codex → Codex) : (modCodex s f).sched = s.sched := rfl
@[simp] theorem modCodex_cnt (s : State) (f : Codex → Codex) : (modCodex s f).cnt = s.cnt := rfl
@[simp] theorem modCodex_near (s : State) (f : Codex → Codex) : (modCodex s f).near = s.near := rfl
@[simp] theorem modCodex_keys (s : State) (f : Codex → Codex) : (modCodex s f).keys = s.keys := rfl
@[simp] theorem modCodex_keyLoad (s : State) (f : Codex → Codex) : (modCodex s f).keyLoad = s.keyLoad := rfl
@[simp] theorem modCodex_lports (s : State) (f : Codex → Codex) : (modCodex s f).lports = s.lports := rfl
@[simp] theorem modCodex_cals (s : State) (f : Codex → Codex) : (modCodex s f).cals = s.cals := rfl
@[simp] theorem modCodex_engs (s : State) (f : Codex → Codex) : (modCodex s f).engs = s.engs := rfl
@[simp] theorem modCodex_optCfg (s : State) (f : Codex → Codex) : (modCodex s f).optCfg = s.optCfg := rfl
@[simp] theorem modCodex_calCfg (s : State) (f : Codex → Codex) : (modCodex s f).calCfg = s.calCfg := rfl
@[simp] theorem modCodex_calAt (s : State) (f : Codex → Codex) : (modCodex s f).calAt = s.calAt := rfl
@[simp] theorem modCodex_sec (s : State) (f : Codex → Codex) : (modCodex s f).sec = s.sec := rfl
@[simp] theorem modCodex_zoo (s : State) (f : Codex → Codex) : (modCodex s f).zoo = s.zoo := rfl
@[simp] theorem modCodex_col (s : State) (f : Codex → Codex) : (modCodex s f).col = s.col := rfl
@[simp] theorem modCodex_macCfg (s : State) (f : Codex → Codex) : (modCodex s f).macCfg = s.macCfg := rfl
@[simp] theorem modCodex_macs (s : State) (f : Codex → Codex) : (modCodex s f).macs = s.macs := rfl
@[simp] theorem modCodex_compat (s : State) (f : Codex → Codex) : (modCodex s f).compat = s.compat := rfl
@[simp] theorem modCodex_peers (s : State) (f : Codex → Codex) : (modCodex s f).peers = s.peers := rfl
@[simp] theorem modCodex_filters (s : State) (f : Codex → Codex) : (modCodex s f).filters = s.filters := rfl
@[simp] theorem modCodex_outbox (s : State) (f : Codex → Codex) : (modCodex s f).outbox = s.outbox := rfl

/-! ## modLat -/

@[simp] theorem modLat_pending (s : State) (f : Lattice → Lattice) : (modLat s f).pending = s.pending := rfl
@[simp] theorem modLat_pkg (s : State) (f : Lattice → Lattice) : (modLat s f).pkg = s.pkg := rfl
@[simp] theorem modLat_glb (s : State) (f : Lattice → Lattice) : (modLat s f).glb = s.glb := rfl
@[simp] theorem modLat_fw (s : State) (f : Lattice → Lattice) : (modLat s f).fw = s.fw := rfl
@[simp] theorem modLat_codex (s : State) (f : Lattice → Lattice) : (modLat s f).codex = s.codex := rfl
@[simp] theorem modLat_time (s : State) (f : Lattice → Lattice) : (modLat s f).time = s.time := rfl
@[simp] theorem modLat_hbm (s : State) (f : Lattice → Lattice) : (modLat s f).hbm = s.hbm := rfl
@[simp] theorem modLat_wlog (s : State) (f : Lattice → Lattice) : (modLat s f).wlog = s.wlog := rfl
@[simp] theorem modLat_wipe (s : State) (f : Lattice → Lattice) : (modLat s f).wipe = s.wipe := rfl
@[simp] theorem modLat_cyc (s : State) (f : Lattice → Lattice) : (modLat s f).cyc = s.cyc := rfl
@[simp] theorem modLat_draws (s : State) (f : Lattice → Lattice) : (modLat s f).draws = s.draws := rfl
@[simp] theorem modLat_fns (s : State) (f : Lattice → Lattice) : (modLat s f).fns = s.fns := rfl
@[simp] theorem modLat_cqs (s : State) (f : Lattice → Lattice) : (modLat s f).cqs = s.cqs := rfl
@[simp] theorem modLat_mgrSq (s : State) (f : Lattice → Lattice) : (modLat s f).mgrSq = s.mgrSq := rfl
@[simp] theorem modLat_mgrCq (s : State) (f : Lattice → Lattice) : (modLat s f).mgrCq = s.mgrCq := rfl
@[simp] theorem modLat_mgrBase (s : State) (f : Lattice → Lattice) : (modLat s f).mgrBase = s.mgrBase := rfl
@[simp] theorem modLat_mgrCfg (s : State) (f : Lattice → Lattice) : (modLat s f).mgrCfg = s.mgrCfg := rfl
@[simp] theorem modLat_mgrErr (s : State) (f : Lattice → Lattice) : (modLat s f).mgrErr = s.mgrErr := rfl
@[simp] theorem modLat_journal (s : State) (f : Lattice → Lattice) : (modLat s f).journal = s.journal := rfl
@[simp] theorem modLat_doms (s : State) (f : Lattice → Lattice) : (modLat s f).doms = s.doms := rfl
@[simp] theorem modLat_stages (s : State) (f : Lattice → Lattice) : (modLat s f).stages = s.stages := rfl
@[simp] theorem modLat_exports (s : State) (f : Lattice → Lattice) : (modLat s f).exports = s.exports := rfl
@[simp] theorem modLat_xl (s : State) (f : Lattice → Lattice) : (modLat s f).xl = s.xl := rfl
@[simp] theorem modLat_cxl (s : State) (f : Lattice → Lattice) : (modLat s f).cxl = s.cxl := rfl
@[simp] theorem modLat_qps (s : State) (f : Lattice → Lattice) : (modLat s f).qps = s.qps := rfl
@[simp] theorem modLat_qpNext (s : State) (f : Lattice → Lattice) : (modLat s f).qpNext = s.qpNext := rfl
@[simp] theorem modLat_gone (s : State) (f : Lattice → Lattice) : (modLat s f).gone = s.gone := rfl
@[simp] theorem modLat_regions (s : State) (f : Lattice → Lattice) : (modLat s f).regions = s.regions := rfl
@[simp] theorem modLat_regionGen (s : State) (f : Lattice → Lattice) : (modLat s f).regionGen = s.regionGen := rfl
@[simp] theorem modLat_trig (s : State) (f : Lattice → Lattice) : (modLat s f).trig = s.trig := rfl
@[simp] theorem modLat_lat (s : State) (f : Lattice → Lattice) : (modLat s f).lat = f s.lat := rfl
@[simp] theorem modLat_latOut (s : State) (f : Lattice → Lattice) : (modLat s f).latOut = s.latOut := rfl
@[simp] theorem modLat_macOut (s : State) (f : Lattice → Lattice) : (modLat s f).macOut = s.macOut := rfl
@[simp] theorem modLat_prioWeight (s : State) (f : Lattice → Lattice) : (modLat s f).prioWeight = s.prioWeight := rfl
@[simp] theorem modLat_police (s : State) (f : Lattice → Lattice) : (modLat s f).police = s.police := rfl
@[simp] theorem modLat_sched (s : State) (f : Lattice → Lattice) : (modLat s f).sched = s.sched := rfl
@[simp] theorem modLat_cnt (s : State) (f : Lattice → Lattice) : (modLat s f).cnt = s.cnt := rfl
@[simp] theorem modLat_near (s : State) (f : Lattice → Lattice) : (modLat s f).near = s.near := rfl
@[simp] theorem modLat_keys (s : State) (f : Lattice → Lattice) : (modLat s f).keys = s.keys := rfl
@[simp] theorem modLat_keyLoad (s : State) (f : Lattice → Lattice) : (modLat s f).keyLoad = s.keyLoad := rfl
@[simp] theorem modLat_lports (s : State) (f : Lattice → Lattice) : (modLat s f).lports = s.lports := rfl
@[simp] theorem modLat_cals (s : State) (f : Lattice → Lattice) : (modLat s f).cals = s.cals := rfl
@[simp] theorem modLat_engs (s : State) (f : Lattice → Lattice) : (modLat s f).engs = s.engs := rfl
@[simp] theorem modLat_optCfg (s : State) (f : Lattice → Lattice) : (modLat s f).optCfg = s.optCfg := rfl
@[simp] theorem modLat_calCfg (s : State) (f : Lattice → Lattice) : (modLat s f).calCfg = s.calCfg := rfl
@[simp] theorem modLat_calAt (s : State) (f : Lattice → Lattice) : (modLat s f).calAt = s.calAt := rfl
@[simp] theorem modLat_sec (s : State) (f : Lattice → Lattice) : (modLat s f).sec = s.sec := rfl
@[simp] theorem modLat_zoo (s : State) (f : Lattice → Lattice) : (modLat s f).zoo = s.zoo := rfl
@[simp] theorem modLat_col (s : State) (f : Lattice → Lattice) : (modLat s f).col = s.col := rfl
@[simp] theorem modLat_macCfg (s : State) (f : Lattice → Lattice) : (modLat s f).macCfg = s.macCfg := rfl
@[simp] theorem modLat_macs (s : State) (f : Lattice → Lattice) : (modLat s f).macs = s.macs := rfl
@[simp] theorem modLat_compat (s : State) (f : Lattice → Lattice) : (modLat s f).compat = s.compat := rfl
@[simp] theorem modLat_peers (s : State) (f : Lattice → Lattice) : (modLat s f).peers = s.peers := rfl
@[simp] theorem modLat_filters (s : State) (f : Lattice → Lattice) : (modLat s f).filters = s.filters := rfl
@[simp] theorem modLat_outbox (s : State) (f : Lattice → Lattice) : (modLat s f).outbox = s.outbox := rfl

/-! ## modSched -/

@[simp] theorem modSched_pending (s : State) (f : Sched → Sched) : (modSched s f).pending = s.pending := rfl
@[simp] theorem modSched_pkg (s : State) (f : Sched → Sched) : (modSched s f).pkg = s.pkg := rfl
@[simp] theorem modSched_glb (s : State) (f : Sched → Sched) : (modSched s f).glb = s.glb := rfl
@[simp] theorem modSched_fw (s : State) (f : Sched → Sched) : (modSched s f).fw = s.fw := rfl
@[simp] theorem modSched_codex (s : State) (f : Sched → Sched) : (modSched s f).codex = s.codex := rfl
@[simp] theorem modSched_time (s : State) (f : Sched → Sched) : (modSched s f).time = s.time := rfl
@[simp] theorem modSched_hbm (s : State) (f : Sched → Sched) : (modSched s f).hbm = s.hbm := rfl
@[simp] theorem modSched_wlog (s : State) (f : Sched → Sched) : (modSched s f).wlog = s.wlog := rfl
@[simp] theorem modSched_wipe (s : State) (f : Sched → Sched) : (modSched s f).wipe = s.wipe := rfl
@[simp] theorem modSched_cyc (s : State) (f : Sched → Sched) : (modSched s f).cyc = s.cyc := rfl
@[simp] theorem modSched_draws (s : State) (f : Sched → Sched) : (modSched s f).draws = s.draws := rfl
@[simp] theorem modSched_fns (s : State) (f : Sched → Sched) : (modSched s f).fns = s.fns := rfl
@[simp] theorem modSched_cqs (s : State) (f : Sched → Sched) : (modSched s f).cqs = s.cqs := rfl
@[simp] theorem modSched_mgrSq (s : State) (f : Sched → Sched) : (modSched s f).mgrSq = s.mgrSq := rfl
@[simp] theorem modSched_mgrCq (s : State) (f : Sched → Sched) : (modSched s f).mgrCq = s.mgrCq := rfl
@[simp] theorem modSched_mgrBase (s : State) (f : Sched → Sched) : (modSched s f).mgrBase = s.mgrBase := rfl
@[simp] theorem modSched_mgrCfg (s : State) (f : Sched → Sched) : (modSched s f).mgrCfg = s.mgrCfg := rfl
@[simp] theorem modSched_mgrErr (s : State) (f : Sched → Sched) : (modSched s f).mgrErr = s.mgrErr := rfl
@[simp] theorem modSched_journal (s : State) (f : Sched → Sched) : (modSched s f).journal = s.journal := rfl
@[simp] theorem modSched_doms (s : State) (f : Sched → Sched) : (modSched s f).doms = s.doms := rfl
@[simp] theorem modSched_stages (s : State) (f : Sched → Sched) : (modSched s f).stages = s.stages := rfl
@[simp] theorem modSched_exports (s : State) (f : Sched → Sched) : (modSched s f).exports = s.exports := rfl
@[simp] theorem modSched_xl (s : State) (f : Sched → Sched) : (modSched s f).xl = s.xl := rfl
@[simp] theorem modSched_cxl (s : State) (f : Sched → Sched) : (modSched s f).cxl = s.cxl := rfl
@[simp] theorem modSched_qps (s : State) (f : Sched → Sched) : (modSched s f).qps = s.qps := rfl
@[simp] theorem modSched_qpNext (s : State) (f : Sched → Sched) : (modSched s f).qpNext = s.qpNext := rfl
@[simp] theorem modSched_gone (s : State) (f : Sched → Sched) : (modSched s f).gone = s.gone := rfl
@[simp] theorem modSched_regions (s : State) (f : Sched → Sched) : (modSched s f).regions = s.regions := rfl
@[simp] theorem modSched_regionGen (s : State) (f : Sched → Sched) : (modSched s f).regionGen = s.regionGen := rfl
@[simp] theorem modSched_trig (s : State) (f : Sched → Sched) : (modSched s f).trig = s.trig := rfl
@[simp] theorem modSched_lat (s : State) (f : Sched → Sched) : (modSched s f).lat = s.lat := rfl
@[simp] theorem modSched_latOut (s : State) (f : Sched → Sched) : (modSched s f).latOut = s.latOut := rfl
@[simp] theorem modSched_macOut (s : State) (f : Sched → Sched) : (modSched s f).macOut = s.macOut := rfl
@[simp] theorem modSched_prioWeight (s : State) (f : Sched → Sched) : (modSched s f).prioWeight = s.prioWeight := rfl
@[simp] theorem modSched_police (s : State) (f : Sched → Sched) : (modSched s f).police = s.police := rfl
@[simp] theorem modSched_sched (s : State) (f : Sched → Sched) : (modSched s f).sched = f s.sched := rfl
@[simp] theorem modSched_cnt (s : State) (f : Sched → Sched) : (modSched s f).cnt = s.cnt := rfl
@[simp] theorem modSched_near (s : State) (f : Sched → Sched) : (modSched s f).near = s.near := rfl
@[simp] theorem modSched_keys (s : State) (f : Sched → Sched) : (modSched s f).keys = s.keys := rfl
@[simp] theorem modSched_keyLoad (s : State) (f : Sched → Sched) : (modSched s f).keyLoad = s.keyLoad := rfl
@[simp] theorem modSched_lports (s : State) (f : Sched → Sched) : (modSched s f).lports = s.lports := rfl
@[simp] theorem modSched_cals (s : State) (f : Sched → Sched) : (modSched s f).cals = s.cals := rfl
@[simp] theorem modSched_engs (s : State) (f : Sched → Sched) : (modSched s f).engs = s.engs := rfl
@[simp] theorem modSched_optCfg (s : State) (f : Sched → Sched) : (modSched s f).optCfg = s.optCfg := rfl
@[simp] theorem modSched_calCfg (s : State) (f : Sched → Sched) : (modSched s f).calCfg = s.calCfg := rfl
@[simp] theorem modSched_calAt (s : State) (f : Sched → Sched) : (modSched s f).calAt = s.calAt := rfl
@[simp] theorem modSched_sec (s : State) (f : Sched → Sched) : (modSched s f).sec = s.sec := rfl
@[simp] theorem modSched_zoo (s : State) (f : Sched → Sched) : (modSched s f).zoo = s.zoo := rfl
@[simp] theorem modSched_col (s : State) (f : Sched → Sched) : (modSched s f).col = s.col := rfl
@[simp] theorem modSched_macCfg (s : State) (f : Sched → Sched) : (modSched s f).macCfg = s.macCfg := rfl
@[simp] theorem modSched_macs (s : State) (f : Sched → Sched) : (modSched s f).macs = s.macs := rfl
@[simp] theorem modSched_compat (s : State) (f : Sched → Sched) : (modSched s f).compat = s.compat := rfl
@[simp] theorem modSched_peers (s : State) (f : Sched → Sched) : (modSched s f).peers = s.peers := rfl
@[simp] theorem modSched_filters (s : State) (f : Sched → Sched) : (modSched s f).filters = s.filters := rfl
@[simp] theorem modSched_outbox (s : State) (f : Sched → Sched) : (modSched s f).outbox = s.outbox := rfl

/-! ## modCnt -/

@[simp] theorem modCnt_pending (s : State) (f : Cnt → Cnt) : (modCnt s f).pending = s.pending := rfl
@[simp] theorem modCnt_pkg (s : State) (f : Cnt → Cnt) : (modCnt s f).pkg = s.pkg := rfl
@[simp] theorem modCnt_glb (s : State) (f : Cnt → Cnt) : (modCnt s f).glb = s.glb := rfl
@[simp] theorem modCnt_fw (s : State) (f : Cnt → Cnt) : (modCnt s f).fw = s.fw := rfl
@[simp] theorem modCnt_codex (s : State) (f : Cnt → Cnt) : (modCnt s f).codex = s.codex := rfl
@[simp] theorem modCnt_time (s : State) (f : Cnt → Cnt) : (modCnt s f).time = s.time := rfl
@[simp] theorem modCnt_hbm (s : State) (f : Cnt → Cnt) : (modCnt s f).hbm = s.hbm := rfl
@[simp] theorem modCnt_wlog (s : State) (f : Cnt → Cnt) : (modCnt s f).wlog = s.wlog := rfl
@[simp] theorem modCnt_wipe (s : State) (f : Cnt → Cnt) : (modCnt s f).wipe = s.wipe := rfl
@[simp] theorem modCnt_cyc (s : State) (f : Cnt → Cnt) : (modCnt s f).cyc = s.cyc := rfl
@[simp] theorem modCnt_draws (s : State) (f : Cnt → Cnt) : (modCnt s f).draws = s.draws := rfl
@[simp] theorem modCnt_fns (s : State) (f : Cnt → Cnt) : (modCnt s f).fns = s.fns := rfl
@[simp] theorem modCnt_cqs (s : State) (f : Cnt → Cnt) : (modCnt s f).cqs = s.cqs := rfl
@[simp] theorem modCnt_mgrSq (s : State) (f : Cnt → Cnt) : (modCnt s f).mgrSq = s.mgrSq := rfl
@[simp] theorem modCnt_mgrCq (s : State) (f : Cnt → Cnt) : (modCnt s f).mgrCq = s.mgrCq := rfl
@[simp] theorem modCnt_mgrBase (s : State) (f : Cnt → Cnt) : (modCnt s f).mgrBase = s.mgrBase := rfl
@[simp] theorem modCnt_mgrCfg (s : State) (f : Cnt → Cnt) : (modCnt s f).mgrCfg = s.mgrCfg := rfl
@[simp] theorem modCnt_mgrErr (s : State) (f : Cnt → Cnt) : (modCnt s f).mgrErr = s.mgrErr := rfl
@[simp] theorem modCnt_journal (s : State) (f : Cnt → Cnt) : (modCnt s f).journal = s.journal := rfl
@[simp] theorem modCnt_doms (s : State) (f : Cnt → Cnt) : (modCnt s f).doms = s.doms := rfl
@[simp] theorem modCnt_stages (s : State) (f : Cnt → Cnt) : (modCnt s f).stages = s.stages := rfl
@[simp] theorem modCnt_exports (s : State) (f : Cnt → Cnt) : (modCnt s f).exports = s.exports := rfl
@[simp] theorem modCnt_xl (s : State) (f : Cnt → Cnt) : (modCnt s f).xl = s.xl := rfl
@[simp] theorem modCnt_cxl (s : State) (f : Cnt → Cnt) : (modCnt s f).cxl = s.cxl := rfl
@[simp] theorem modCnt_qps (s : State) (f : Cnt → Cnt) : (modCnt s f).qps = s.qps := rfl
@[simp] theorem modCnt_qpNext (s : State) (f : Cnt → Cnt) : (modCnt s f).qpNext = s.qpNext := rfl
@[simp] theorem modCnt_gone (s : State) (f : Cnt → Cnt) : (modCnt s f).gone = s.gone := rfl
@[simp] theorem modCnt_regions (s : State) (f : Cnt → Cnt) : (modCnt s f).regions = s.regions := rfl
@[simp] theorem modCnt_regionGen (s : State) (f : Cnt → Cnt) : (modCnt s f).regionGen = s.regionGen := rfl
@[simp] theorem modCnt_trig (s : State) (f : Cnt → Cnt) : (modCnt s f).trig = s.trig := rfl
@[simp] theorem modCnt_lat (s : State) (f : Cnt → Cnt) : (modCnt s f).lat = s.lat := rfl
@[simp] theorem modCnt_latOut (s : State) (f : Cnt → Cnt) : (modCnt s f).latOut = s.latOut := rfl
@[simp] theorem modCnt_macOut (s : State) (f : Cnt → Cnt) : (modCnt s f).macOut = s.macOut := rfl
@[simp] theorem modCnt_prioWeight (s : State) (f : Cnt → Cnt) : (modCnt s f).prioWeight = s.prioWeight := rfl
@[simp] theorem modCnt_police (s : State) (f : Cnt → Cnt) : (modCnt s f).police = s.police := rfl
@[simp] theorem modCnt_sched (s : State) (f : Cnt → Cnt) : (modCnt s f).sched = s.sched := rfl
@[simp] theorem modCnt_cnt (s : State) (f : Cnt → Cnt) : (modCnt s f).cnt = f s.cnt := rfl
@[simp] theorem modCnt_near (s : State) (f : Cnt → Cnt) : (modCnt s f).near = s.near := rfl
@[simp] theorem modCnt_keys (s : State) (f : Cnt → Cnt) : (modCnt s f).keys = s.keys := rfl
@[simp] theorem modCnt_keyLoad (s : State) (f : Cnt → Cnt) : (modCnt s f).keyLoad = s.keyLoad := rfl
@[simp] theorem modCnt_lports (s : State) (f : Cnt → Cnt) : (modCnt s f).lports = s.lports := rfl
@[simp] theorem modCnt_cals (s : State) (f : Cnt → Cnt) : (modCnt s f).cals = s.cals := rfl
@[simp] theorem modCnt_engs (s : State) (f : Cnt → Cnt) : (modCnt s f).engs = s.engs := rfl
@[simp] theorem modCnt_optCfg (s : State) (f : Cnt → Cnt) : (modCnt s f).optCfg = s.optCfg := rfl
@[simp] theorem modCnt_calCfg (s : State) (f : Cnt → Cnt) : (modCnt s f).calCfg = s.calCfg := rfl
@[simp] theorem modCnt_calAt (s : State) (f : Cnt → Cnt) : (modCnt s f).calAt = s.calAt := rfl
@[simp] theorem modCnt_sec (s : State) (f : Cnt → Cnt) : (modCnt s f).sec = s.sec := rfl
@[simp] theorem modCnt_zoo (s : State) (f : Cnt → Cnt) : (modCnt s f).zoo = s.zoo := rfl
@[simp] theorem modCnt_col (s : State) (f : Cnt → Cnt) : (modCnt s f).col = s.col := rfl
@[simp] theorem modCnt_macCfg (s : State) (f : Cnt → Cnt) : (modCnt s f).macCfg = s.macCfg := rfl
@[simp] theorem modCnt_macs (s : State) (f : Cnt → Cnt) : (modCnt s f).macs = s.macs := rfl
@[simp] theorem modCnt_compat (s : State) (f : Cnt → Cnt) : (modCnt s f).compat = s.compat := rfl
@[simp] theorem modCnt_peers (s : State) (f : Cnt → Cnt) : (modCnt s f).peers = s.peers := rfl
@[simp] theorem modCnt_filters (s : State) (f : Cnt → Cnt) : (modCnt s f).filters = s.filters := rfl
@[simp] theorem modCnt_outbox (s : State) (f : Cnt → Cnt) : (modCnt s f).outbox = s.outbox := rfl

/-! ## modCyc -/

@[simp] theorem modCyc_pending (s : State) (f : Cycle → Cycle) : (modCyc s f).pending = s.pending := rfl
@[simp] theorem modCyc_pkg (s : State) (f : Cycle → Cycle) : (modCyc s f).pkg = s.pkg := rfl
@[simp] theorem modCyc_glb (s : State) (f : Cycle → Cycle) : (modCyc s f).glb = s.glb := rfl
@[simp] theorem modCyc_fw (s : State) (f : Cycle → Cycle) : (modCyc s f).fw = s.fw := rfl
@[simp] theorem modCyc_codex (s : State) (f : Cycle → Cycle) : (modCyc s f).codex = s.codex := rfl
@[simp] theorem modCyc_time (s : State) (f : Cycle → Cycle) : (modCyc s f).time = s.time := rfl
@[simp] theorem modCyc_hbm (s : State) (f : Cycle → Cycle) : (modCyc s f).hbm = s.hbm := rfl
@[simp] theorem modCyc_wlog (s : State) (f : Cycle → Cycle) : (modCyc s f).wlog = s.wlog := rfl
@[simp] theorem modCyc_wipe (s : State) (f : Cycle → Cycle) : (modCyc s f).wipe = s.wipe := rfl
@[simp] theorem modCyc_cyc (s : State) (f : Cycle → Cycle) : (modCyc s f).cyc = f s.cyc := rfl
@[simp] theorem modCyc_draws (s : State) (f : Cycle → Cycle) : (modCyc s f).draws = s.draws := rfl
@[simp] theorem modCyc_fns (s : State) (f : Cycle → Cycle) : (modCyc s f).fns = s.fns := rfl
@[simp] theorem modCyc_cqs (s : State) (f : Cycle → Cycle) : (modCyc s f).cqs = s.cqs := rfl
@[simp] theorem modCyc_mgrSq (s : State) (f : Cycle → Cycle) : (modCyc s f).mgrSq = s.mgrSq := rfl
@[simp] theorem modCyc_mgrCq (s : State) (f : Cycle → Cycle) : (modCyc s f).mgrCq = s.mgrCq := rfl
@[simp] theorem modCyc_mgrBase (s : State) (f : Cycle → Cycle) : (modCyc s f).mgrBase = s.mgrBase := rfl
@[simp] theorem modCyc_mgrCfg (s : State) (f : Cycle → Cycle) : (modCyc s f).mgrCfg = s.mgrCfg := rfl
@[simp] theorem modCyc_mgrErr (s : State) (f : Cycle → Cycle) : (modCyc s f).mgrErr = s.mgrErr := rfl
@[simp] theorem modCyc_journal (s : State) (f : Cycle → Cycle) : (modCyc s f).journal = s.journal := rfl
@[simp] theorem modCyc_doms (s : State) (f : Cycle → Cycle) : (modCyc s f).doms = s.doms := rfl
@[simp] theorem modCyc_stages (s : State) (f : Cycle → Cycle) : (modCyc s f).stages = s.stages := rfl
@[simp] theorem modCyc_exports (s : State) (f : Cycle → Cycle) : (modCyc s f).exports = s.exports := rfl
@[simp] theorem modCyc_xl (s : State) (f : Cycle → Cycle) : (modCyc s f).xl = s.xl := rfl
@[simp] theorem modCyc_cxl (s : State) (f : Cycle → Cycle) : (modCyc s f).cxl = s.cxl := rfl
@[simp] theorem modCyc_qps (s : State) (f : Cycle → Cycle) : (modCyc s f).qps = s.qps := rfl
@[simp] theorem modCyc_qpNext (s : State) (f : Cycle → Cycle) : (modCyc s f).qpNext = s.qpNext := rfl
@[simp] theorem modCyc_gone (s : State) (f : Cycle → Cycle) : (modCyc s f).gone = s.gone := rfl
@[simp] theorem modCyc_regions (s : State) (f : Cycle → Cycle) : (modCyc s f).regions = s.regions := rfl
@[simp] theorem modCyc_regionGen (s : State) (f : Cycle → Cycle) : (modCyc s f).regionGen = s.regionGen := rfl
@[simp] theorem modCyc_trig (s : State) (f : Cycle → Cycle) : (modCyc s f).trig = s.trig := rfl
@[simp] theorem modCyc_lat (s : State) (f : Cycle → Cycle) : (modCyc s f).lat = s.lat := rfl
@[simp] theorem modCyc_latOut (s : State) (f : Cycle → Cycle) : (modCyc s f).latOut = s.latOut := rfl
@[simp] theorem modCyc_macOut (s : State) (f : Cycle → Cycle) : (modCyc s f).macOut = s.macOut := rfl
@[simp] theorem modCyc_prioWeight (s : State) (f : Cycle → Cycle) : (modCyc s f).prioWeight = s.prioWeight := rfl
@[simp] theorem modCyc_police (s : State) (f : Cycle → Cycle) : (modCyc s f).police = s.police := rfl
@[simp] theorem modCyc_sched (s : State) (f : Cycle → Cycle) : (modCyc s f).sched = s.sched := rfl
@[simp] theorem modCyc_cnt (s : State) (f : Cycle → Cycle) : (modCyc s f).cnt = s.cnt := rfl
@[simp] theorem modCyc_near (s : State) (f : Cycle → Cycle) : (modCyc s f).near = s.near := rfl
@[simp] theorem modCyc_keys (s : State) (f : Cycle → Cycle) : (modCyc s f).keys = s.keys := rfl
@[simp] theorem modCyc_keyLoad (s : State) (f : Cycle → Cycle) : (modCyc s f).keyLoad = s.keyLoad := rfl
@[simp] theorem modCyc_lports (s : State) (f : Cycle → Cycle) : (modCyc s f).lports = s.lports := rfl
@[simp] theorem modCyc_cals (s : State) (f : Cycle → Cycle) : (modCyc s f).cals = s.cals := rfl
@[simp] theorem modCyc_engs (s : State) (f : Cycle → Cycle) : (modCyc s f).engs = s.engs := rfl
@[simp] theorem modCyc_optCfg (s : State) (f : Cycle → Cycle) : (modCyc s f).optCfg = s.optCfg := rfl
@[simp] theorem modCyc_calCfg (s : State) (f : Cycle → Cycle) : (modCyc s f).calCfg = s.calCfg := rfl
@[simp] theorem modCyc_calAt (s : State) (f : Cycle → Cycle) : (modCyc s f).calAt = s.calAt := rfl
@[simp] theorem modCyc_sec (s : State) (f : Cycle → Cycle) : (modCyc s f).sec = s.sec := rfl
@[simp] theorem modCyc_zoo (s : State) (f : Cycle → Cycle) : (modCyc s f).zoo = s.zoo := rfl
@[simp] theorem modCyc_col (s : State) (f : Cycle → Cycle) : (modCyc s f).col = s.col := rfl
@[simp] theorem modCyc_macCfg (s : State) (f : Cycle → Cycle) : (modCyc s f).macCfg = s.macCfg := rfl
@[simp] theorem modCyc_macs (s : State) (f : Cycle → Cycle) : (modCyc s f).macs = s.macs := rfl
@[simp] theorem modCyc_compat (s : State) (f : Cycle → Cycle) : (modCyc s f).compat = s.compat := rfl
@[simp] theorem modCyc_peers (s : State) (f : Cycle → Cycle) : (modCyc s f).peers = s.peers := rfl
@[simp] theorem modCyc_filters (s : State) (f : Cycle → Cycle) : (modCyc s f).filters = s.filters := rfl
@[simp] theorem modCyc_outbox (s : State) (f : Cycle → Cycle) : (modCyc s f).outbox = s.outbox := rfl

/-! ## emit -/

@[simp] theorem emit_pending (s : State) (e : Emit) : (emit s e).pending = s.pending := rfl
@[simp] theorem emit_pkg (s : State) (e : Emit) : (emit s e).pkg = s.pkg := rfl
@[simp] theorem emit_glb (s : State) (e : Emit) : (emit s e).glb = s.glb := rfl
@[simp] theorem emit_fw (s : State) (e : Emit) : (emit s e).fw = s.fw := rfl
@[simp] theorem emit_codex (s : State) (e : Emit) : (emit s e).codex = s.codex := rfl
@[simp] theorem emit_time (s : State) (e : Emit) : (emit s e).time = s.time := rfl
@[simp] theorem emit_hbm (s : State) (e : Emit) : (emit s e).hbm = s.hbm := rfl
@[simp] theorem emit_wlog (s : State) (e : Emit) : (emit s e).wlog = s.wlog := rfl
@[simp] theorem emit_wipe (s : State) (e : Emit) : (emit s e).wipe = s.wipe := rfl
@[simp] theorem emit_cyc (s : State) (e : Emit) : (emit s e).cyc = s.cyc := rfl
@[simp] theorem emit_draws (s : State) (e : Emit) : (emit s e).draws = s.draws := rfl
@[simp] theorem emit_fns (s : State) (e : Emit) : (emit s e).fns = s.fns := rfl
@[simp] theorem emit_cqs (s : State) (e : Emit) : (emit s e).cqs = s.cqs := rfl
@[simp] theorem emit_mgrSq (s : State) (e : Emit) : (emit s e).mgrSq = s.mgrSq := rfl
@[simp] theorem emit_mgrCq (s : State) (e : Emit) : (emit s e).mgrCq = s.mgrCq := rfl
@[simp] theorem emit_mgrBase (s : State) (e : Emit) : (emit s e).mgrBase = s.mgrBase := rfl
@[simp] theorem emit_mgrCfg (s : State) (e : Emit) : (emit s e).mgrCfg = s.mgrCfg := rfl
@[simp] theorem emit_mgrErr (s : State) (e : Emit) : (emit s e).mgrErr = s.mgrErr := rfl
@[simp] theorem emit_journal (s : State) (e : Emit) : (emit s e).journal = s.journal := rfl
@[simp] theorem emit_doms (s : State) (e : Emit) : (emit s e).doms = s.doms := rfl
@[simp] theorem emit_stages (s : State) (e : Emit) : (emit s e).stages = s.stages := rfl
@[simp] theorem emit_exports (s : State) (e : Emit) : (emit s e).exports = s.exports := rfl
@[simp] theorem emit_xl (s : State) (e : Emit) : (emit s e).xl = s.xl := rfl
@[simp] theorem emit_cxl (s : State) (e : Emit) : (emit s e).cxl = s.cxl := rfl
@[simp] theorem emit_qps (s : State) (e : Emit) : (emit s e).qps = s.qps := rfl
@[simp] theorem emit_qpNext (s : State) (e : Emit) : (emit s e).qpNext = s.qpNext := rfl
@[simp] theorem emit_gone (s : State) (e : Emit) : (emit s e).gone = s.gone := rfl
@[simp] theorem emit_regions (s : State) (e : Emit) : (emit s e).regions = s.regions := rfl
@[simp] theorem emit_regionGen (s : State) (e : Emit) : (emit s e).regionGen = s.regionGen := rfl
@[simp] theorem emit_trig (s : State) (e : Emit) : (emit s e).trig = s.trig := rfl
@[simp] theorem emit_lat (s : State) (e : Emit) : (emit s e).lat = s.lat := rfl
@[simp] theorem emit_latOut (s : State) (e : Emit) : (emit s e).latOut = s.latOut := rfl
@[simp] theorem emit_macOut (s : State) (e : Emit) : (emit s e).macOut = s.macOut := rfl
@[simp] theorem emit_prioWeight (s : State) (e : Emit) : (emit s e).prioWeight = s.prioWeight := rfl
@[simp] theorem emit_police (s : State) (e : Emit) : (emit s e).police = s.police := rfl
@[simp] theorem emit_sched (s : State) (e : Emit) : (emit s e).sched = s.sched := rfl
@[simp] theorem emit_cnt (s : State) (e : Emit) : (emit s e).cnt = s.cnt := rfl
@[simp] theorem emit_near (s : State) (e : Emit) : (emit s e).near = s.near := rfl
@[simp] theorem emit_keys (s : State) (e : Emit) : (emit s e).keys = s.keys := rfl
@[simp] theorem emit_keyLoad (s : State) (e : Emit) : (emit s e).keyLoad = s.keyLoad := rfl
@[simp] theorem emit_lports (s : State) (e : Emit) : (emit s e).lports = s.lports := rfl
@[simp] theorem emit_cals (s : State) (e : Emit) : (emit s e).cals = s.cals := rfl
@[simp] theorem emit_engs (s : State) (e : Emit) : (emit s e).engs = s.engs := rfl
@[simp] theorem emit_optCfg (s : State) (e : Emit) : (emit s e).optCfg = s.optCfg := rfl
@[simp] theorem emit_calCfg (s : State) (e : Emit) : (emit s e).calCfg = s.calCfg := rfl
@[simp] theorem emit_calAt (s : State) (e : Emit) : (emit s e).calAt = s.calAt := rfl
@[simp] theorem emit_sec (s : State) (e : Emit) : (emit s e).sec = s.sec := rfl
@[simp] theorem emit_zoo (s : State) (e : Emit) : (emit s e).zoo = s.zoo := rfl
@[simp] theorem emit_col (s : State) (e : Emit) : (emit s e).col = s.col := rfl
@[simp] theorem emit_macCfg (s : State) (e : Emit) : (emit s e).macCfg = s.macCfg := rfl
@[simp] theorem emit_macs (s : State) (e : Emit) : (emit s e).macs = s.macs := rfl
@[simp] theorem emit_compat (s : State) (e : Emit) : (emit s e).compat = s.compat := rfl
@[simp] theorem emit_peers (s : State) (e : Emit) : (emit s e).peers = s.peers := rfl
@[simp] theorem emit_filters (s : State) (e : Emit) : (emit s e).filters = s.filters := rfl
@[simp] theorem emit_outbox (s : State) (e : Emit) : (emit s e).outbox = s.outbox ++ [e] := rfl

end Sys2Proof.Machine
end

