-- ==== Sys2Proof/Laws/Memory.lean ====
section
/-! SUPPORT. Laws/Memory.lean: the canonical byte list: what a write leaves readable, and that every memory operation, and
with it every committed command, keeps the form. -/

namespace Sys2Proof.Machine

/-! ## Reading and writing one byte -/

theorem memRead_nil (a : Nat) : memRead [] a = 0 := rfl

theorem memRead_cons (e : Nat × Byte) (m : List (Nat × Byte)) (a : Nat) :
    memRead (e :: m) a = if a = e.1 then e.2 else memRead m a := by
  unfold memRead
  rw [List.lookup_cons]
  by_cases h : a = e.1
  · simp [h]
  · have : (a == e.1) = false := by simpa using h
    simp [this, h]

/-- A write leaves every other address as it was. -/
theorem memRead_memWrite_other (m : List (Nat × Byte)) (a b : Nat) (v : Byte) (h : b ≠ a) :
    memRead (memWrite m a v) b = memRead m b := by
  induction m with
  | nil =>
    by_cases hv : v = 0#8 <;> simp [memWrite, hv, memRead_cons, h, memRead_nil]
  | cons e m ih =>
    obtain ⟨j, w⟩ := e
    by_cases h1 : a < j
    · by_cases hv : v = 0#8 <;> simp [memWrite, h1, hv, memRead_cons, h]
    · by_cases h2 : a = j
      · subst h2
        by_cases hv : v = 0#8 <;> simp [memWrite, hv, memRead_cons, h]
      · simp [memWrite, h1, h2, memRead_cons, ih]

/-! ## The canonical form -/

/-- Canonical with every address at or above a bound. -/
def Memory.from_ (lo : Nat) : List (Nat × Byte) → Prop
  | [] => True
  | e :: m => lo ≤ e.1 ∧ e.2 ≠ 0 ∧ Memory.from_ (e.1 + 1) m

theorem Memory.from_mono {lo hi : Nat} {m : List (Nat × Byte)} (h : Memory.from_ hi m) (hl : lo ≤ hi) :
    Memory.from_ lo m := by
  cases m with
  | nil => trivial
  | cons e m => exact ⟨Nat.le_trans hl h.1, h.2.1, h.2.2⟩

theorem Memory.wf_iff (m : List (Nat × Byte)) : Memory.wf m = true ↔ Memory.from_ 0 m := by
  have main : ∀ (m : List (Nat × Byte)) (lo : Nat),
      Memory.from_ lo m ↔ (Memory.wf m = true ∧ ∀ e, m.head? = some e → lo ≤ e.1) := by
    intro m
    induction m with
    | nil => intro lo; simp [Memory.from_, Memory.wf]
    | cons e m ih =>
      intro lo
      cases m with
      | nil => simp [Memory.from_, Memory.wf, and_comm]
      | cons f m =>
        rw [Memory.from_, ih (e.1 + 1)]
        simp only [Memory.wf, Bool.and_eq_true, decide_eq_true_eq, List.head?_cons, Option.some.injEq, forall_eq']
        constructor
        · rintro ⟨h1, h2, h3, h4⟩
          exact ⟨⟨⟨by simpa using h2, h4⟩, h3⟩, h1⟩
        · rintro ⟨⟨⟨h2, h4⟩, h3⟩, h1⟩
          exact ⟨h1, by simpa using h2, h3, h4⟩
  rw [main m 0]
  simp

theorem memRead_below {lo : Nat} {m : List (Nat × Byte)} (h : Memory.from_ lo m) (a : Nat) (ha : a < lo) :
    memRead m a = 0 := by
  induction m generalizing lo with
  | nil => rfl
  | cons e m ih =>
    have h1 := h.1
    have : a ≠ e.1 := by omega
    rw [memRead_cons, if_neg this]
    exact ih h.2.2 (by omega)

theorem memWrite_from {lo : Nat} {m : List (Nat × Byte)} (h : Memory.from_ lo m) (a : Nat) (v : Byte) (ha : lo ≤ a) :
    Memory.from_ lo (memWrite m a v) := by
  induction m generalizing lo with
  | nil =>
    by_cases hv : v = 0#8
    · simp [memWrite, hv, Memory.from_]
    · simp [memWrite, hv, Memory.from_, ha]
  | cons e m ih =>
    obtain ⟨j, w⟩ := e
    obtain ⟨h1, h2, h3⟩ := h
    simp only at h1 h2 h3
    by_cases c1 : a < j
    · by_cases hv : v = 0#8
      · simpa [memWrite, c1, hv, Memory.from_, h1, h3] using h2
      · rw [show memWrite ((j, w) :: m) a v = (a, v) :: (j, w) :: m by simp [memWrite, c1, hv]]
        exact ⟨ha, hv, c1, h2, h3⟩
    · by_cases c2 : a = j
      · subst c2
        by_cases hv : v = 0#8
        · simpa [memWrite, hv] using Memory.from_mono h3 (by omega)
        · simp [memWrite, hv, Memory.from_, ha, h3]
      · simp only [memWrite, c1, c2, if_false]
        exact ⟨h1, h2, ih h3 (by omega)⟩

/-- A write keeps the canonical form. -/
theorem memWrite_wf (m : List (Nat × Byte)) (a : Nat) (v : Byte) (h : Memory.wf m = true) :
    Memory.wf (memWrite m a v) = true :=
  (Memory.wf_iff _).2 (memWrite_from ((Memory.wf_iff _).1 h) a v (Nat.zero_le a))

/-- A write of a canonical list is read back. -/
theorem memRead_memWrite_same {lo : Nat} {m : List (Nat × Byte)} (h : Memory.from_ lo m) (a : Nat) (v : Byte) :
    memRead (memWrite m a v) a = v := by
  induction m generalizing lo with
  | nil => by_cases hv : v = 0#8 <;> simp [memWrite, hv, memRead_cons, memRead_nil]
  | cons e m ih =>
    obtain ⟨j, w⟩ := e
    obtain ⟨-, -, h3⟩ := h
    simp only at h3
    by_cases c1 : a < j
    · by_cases hv : v = 0#8
      · have c2 : a ≠ j := by omega
        simp [memWrite, c1, hv, memRead_cons, c2, memRead_below h3 a (by omega)]
      · simp [memWrite, c1, hv, memRead_cons]
    · by_cases c2 : a = j
      · subst c2
        by_cases hv : v = 0#8
        · simp [memWrite, hv, memRead_below h3 a (by omega)]
        · simp [memWrite, hv, memRead_cons]
      · simp [memWrite, c1, c2, memRead_cons, ih h3]

/-- A write log keeps the canonical form. -/
theorem memApply_wf (m log : List (Nat × Byte)) (h : Memory.wf m = true) : Memory.wf (memApply m log) = true := by
  induction log with
  | nil => exact h
  | cons e log ih => exact memWrite_wf _ _ _ ih

/-- Removing bytes keeps the canonical form. -/
theorem filter_from {lo : Nat} {m : List (Nat × Byte)} (p : Nat × Byte → Bool) (h : Memory.from_ lo m) :
    Memory.from_ lo (m.filter p) := by
  induction m generalizing lo with
  | nil => trivial
  | cons e m ih =>
    by_cases c : p e = true
    · rw [List.filter_cons_of_pos c]
      exact ⟨h.1, h.2.1, ih h.2.2⟩
    · rw [List.filter_cons_of_neg c]
      exact Memory.from_mono (ih h.2.2) (Nat.le_succ_of_le h.1)

theorem filter_wf (m : List (Nat × Byte)) (p : Nat × Byte → Bool) (h : Memory.wf m = true) :
    Memory.wf (m.filter p) = true :=
  (Memory.wf_iff _).2 (filter_from p ((Memory.wf_iff _).1 h))

/-- An address the log does not name reads as before. -/
theorem memRead_memApply_other (m log : List (Nat × Byte)) (a : Nat) (h : ∀ e ∈ log, a ≠ e.1) :
    memRead (memApply m log) a = memRead m a := by
  induction log with
  | nil => rfl
  | cons e log ih =>
    show memRead (memWrite (memApply m log) e.1 e.2) a = memRead m a
    rw [memRead_memWrite_other _ _ _ _ (h e (by simp)), ih fun x hx => h x (by simp [hx])]

/-- After bytes are removed by address, a removed address reads zero and another reads as before. -/
theorem memRead_filter (m : List (Nat × Byte)) (p : Nat → Bool) (a : Nat) :
    memRead (m.filter fun e => p e.1) a = if p a then memRead m a else 0 := by
  induction m with
  | nil => simp [memRead_nil]
  | cons e m ih =>
    by_cases c : p e.1 = true
    · rw [List.filter_cons_of_pos (by simpa using c), memRead_cons, memRead_cons, ih]
      by_cases h : a = e.1
      · subst h; simp [c]
      · simp [h]
    · rw [List.filter_cons_of_neg (by simpa using c), ih, memRead_cons]
      by_cases h : a = e.1
      · subst h; simp [c]
      · simp [h]

/-! ## Committing a command -/

/-- What a command that wipes granules and writes no byte leaves in HBM (R275). -/
theorem commit_byte (s t : State) (a : Nat) (hw : t.wlog = []) :
    (commit s t).byte a = if t.wipe.contains (a / 2 ^ 30) then 0 else s.byte a := by
  have := memRead_filter s.hbm.cells (fun x => ¬ t.wipe.contains (x / 2 ^ 30)) a
  simp only [State.byte, commit, hw, memApply, List.foldr_nil]
  rw [this]
  by_cases h : t.wipe.contains (a / 2 ^ 30) = true <;> simp

theorem commitNow_byte (s t : State) (a : Nat) (hw : t.wlog = []) :
    (commitNow s t).byte a = if t.wipe.contains (a / 2 ^ 30) then 0 else s.byte a := commit_byte s t a hw

@[simp] theorem commit_wlog (s t : State) : (commit s t).wlog = [] := rfl
@[simp] theorem commit_wipe (s t : State) : (commit s t).wipe = [] := rfl
@[simp] theorem commit_pending (s t : State) : (commit s t).pending = s.pending := rfl
@[simp] theorem commitNow_wlog (s t : State) : (commitNow s t).wlog = [] := rfl
@[simp] theorem commitNow_wipe (s t : State) : (commitNow s t).wipe = [] := rfl
@[simp] theorem commitNow_pending (s t : State) : (commitNow s t).pending = s.pending := rfl
@[simp] theorem commitNow_cells (s t : State) : (commitNow s t).hbm.cells = (commit s t).hbm.cells := rfl

/-- Whatever a command did, what it leaves is safe. -/
theorem commit_safe (s t : State) (h : s.Safe) : (commit s t).Safe :=
  ⟨memApply_wf _ _ (filter_wf _ _ h.1), rfl, rfl⟩

theorem commitNow_safe (s t : State) (h : s.Safe) : (commitNow s t).Safe := commit_safe s t h

theorem filter_none_wiped (m : List (Nat × Byte)) :
    (m.filter fun e => ¬ ([] : List Nat).contains (e.1 / 2 ^ 30)) = m := by
  simp

/-- A command that writes no HBM and wipes nothing leaves exactly its own state, the clock aside. -/
theorem commitNow_plain (s t : State) (hw : t.wlog = []) (hp : t.wipe = []) (hc : t.hbm = s.hbm) (hq : t.pending = s.pending)
    (ht : t.time.gtc = s.time.gtc ∧ t.time.gtcMem = s.time.gtcMem ∧ t.time.frac = s.time.frac ∧ t.time.tick = s.time.tick) :
    commitNow s t = t := by
  obtain ⟨h1, h2, h3, h4⟩ := ht
  have e : { t.time with gtc := s.time.gtc, gtcMem := s.time.gtcMem, frac := s.time.frac, tick := s.time.tick } = t.time := by
    rw [← h1, ← h2, ← h3, ← h4]
  cases t
  simp only at hw hp hc hq e
  subst hw hp hc hq
  simp only [commitNow, commit, memApply, List.foldr_nil, filter_none_wiped, e]

/-- The same of a command that moves the clock. -/
theorem commit_plain (s t : State) (hw : t.wlog = []) (hp : t.wipe = []) (hc : t.hbm = s.hbm)
    (hq : t.pending = s.pending) : commit s t = t := by
  cases t
  simp only at hw hp hc hq
  subst hw hp hc hq
  simp only [commit, memApply, List.foldr_nil, filter_none_wiped]

end Sys2Proof.Machine
end

