-- ==== Sys2Proof/Laws/Commands.lean ====
section
/-! SUPPORT. Laws/Commands.lean: what the wrappers of the meanings do: a running block takes the effect, a stopped one stays;
operands out of range are refused. -/

namespace Sys2Proof.Machine

@[simp] theorem closeDue_settled (s : State) (h : s.settled = true) : closeDue s = s := by simp [closeDue, h]

/-- On a calm block nothing closes before a command. -/
theorem closeDue_calm (s : State) (h : s.calm) : (if s.running then closeDue s else s) = s := by
  unfold State.calm at h
  cases r : s.running
  · rfl
  · rw [if_pos rfl]; exact closeDue_settled s (by simpa [r] using h)

theorem act_running (s : State) (f : State → State) (h : s.running = true ∧ s.settled = true) :
    act s f = .next (commitNow s (f s)) := by
  simp [act, h.1, closeDue_settled s h.2]

theorem hostAct_alive (s : State) (f : State → State) (h : s.Alive) : hostAct s f = .next (commitNow s (f s)) := by
  simp only [hostAct, h.1.1, closeDue_calm s h.1.2, if_true]

theorem act_stopped (s : State) (f : State → State) (h : s.running = false) : act s f = .next s := by simp [act, h]

theorem actTime_running (s : State) (f : State → State) (h : s.running = true) : actTime s f = .next (commit s (f s)) := by
  simp [actTime, h]

theorem actTime_stopped (s : State) (f : State → State) (h : s.running = false) : actTime s f = .next s := by
  simp [actTime, h]

theorem writeAct_alive (s : State) (f : State → State) (h : s.Alive) : writeAct s f = .next (commit s (f s)) := by
  simp only [writeAct, h.1.1, closeDue_calm s h.1.2, if_true]

theorem barAct_ready (s : State) (f : State → State) (h : s.BarReady) : barAct s f = .next (commitNow s (f s)) := by
  simp [barAct, act, h.1.1.1, h.2.1, h.2.2, closeDue_settled s h.1.1.2]

theorem mgrCmd_ready (s : State) (d : Line) (f : State → State) (h : s.MgrReady) :
    mgrCmd s d f = .next (commitNow s (f (takeHanded s .mgrSq d))) := by
  simp [mgrCmd, act, h.1.1.1, h.2.1, h.2.2, closeDue_settled s h.1.1.2]

@[simp] theorem need_true (o : Host.Outcome State Fault Refusal) : need true o = o := rfl
@[simp] theorem need_false (o : Host.Outcome State Fault Refusal) : need false o = .refused .illFormed := rfl

/-- An effect that writes no HBM, wipes nothing and leaves the clock: the next state is exactly it. -/
theorem act_plain (s : State) (f : State → State) (h : s.Ready) (hw : (f s).wlog = s.wlog) (hp : (f s).wipe = s.wipe)
    (hc : (f s).hbm = s.hbm) (hq : (f s).pending = s.pending) (ht : (f s).time.gtc = s.time.gtc ∧ (f s).time.gtcMem = s.time.gtcMem ∧
      (f s).time.frac = s.time.frac ∧ (f s).time.tick = s.time.tick) : act s f = .next (f s) := by
  rw [act_running s f h.1, commitNow_plain s (f s) (hw.trans h.2.1) (hp.trans h.2.2) hc hq ht]

theorem barAct_plain (s : State) (f : State → State) (h : s.BarReady) (hw : (f s).wlog = s.wlog) (hp : (f s).wipe = s.wipe)
    (hc : (f s).hbm = s.hbm) (hq : (f s).pending = s.pending) (ht : (f s).time.gtc = s.time.gtc ∧ (f s).time.gtcMem = s.time.gtcMem ∧
      (f s).time.frac = s.time.frac ∧ (f s).time.tick = s.time.tick) : barAct s f = .next (f s) := by
  rw [barAct_ready s f h, commitNow_plain s (f s) (hw.trans h.1.2.1) (hp.trans h.1.2.2) hc hq ht]

theorem goFatal_eq (s : State) (c : Nat) (src : Source) (h : s.glb.fatal = false) (he : s.cyc.events = []) (hj : s.cyc.journal = []) :
    goFatal s c src = s.wentFatal c src := by
  have e : writeEvents s = s := by
    unfold writeEvents
    rw [he]
    have : modCyc s (fun c => { c with events := [] }) = s := by
      cases s; rename_i cyc _ _ _ _ _ _ _ _ _ _ _ _ _ _ _ _ _ _ _ _ _ _ _ _ _ _ _ _ _ _ _ _ _ _ _ _ _ _ _ _ _ _ _ _ _
      simp only [modCyc]; cases cyc; simp_all
    simpa [sortBy] using this
  have k : journalFlush s = s := by simp [journalFlush, hj]
  simp [goFatal, h, e, k, State.wentFatal, modGlb, codexDrain, modCodex, emit, State.now]
theorem fatalCmd_ready (s : State) (c : Nat) (src : Source) (h : s.FatalReady) : fatalCmd s c src = .next (s.wentFatal c src) := by
  obtain ⟨a, b, d, e, f, g, i, j⟩ := h
  simp only [fatalCmd, a, b, d, closeDue_calm s g, goFatal_eq s c src e i j, Bool.not_false, Bool.and_true, if_true]
  exact congrArg _ (commitNow_plain s _ f.1 f.2 rfl rfl ⟨rfl, rfl, rfl, rfl⟩)
theorem powered_up (s : State) (f : State → State) (h : s.Powered) : powered s f = .next (commit s (f s)) := by
  simp only [powered, h.1.1, closeDue_calm s h.1.2, if_true]

theorem actTime_plain (s : State) (f : State → State) (h : s.Ready) (hw : (f s).wlog = s.wlog) (hp : (f s).wipe = s.wipe)
    (hc : (f s).hbm = s.hbm) (hq : (f s).pending = s.pending) : actTime s f = .next (f s) := by
  rw [actTime_running s f h.1.1, commit_plain s (f s) (hw.trans h.2.1) (hp.trans h.2.2) hc hq]

/-! ## The close of a window, commanded -/

theorem closeCmd_at (s : State) (w : Timed) (g : Gtc) (h : s.running = true) (hc : closeAt s w = some (.at g)) (hg : s.Reaches g) :
    closeCmd s w = .next (commit s (closed (s.goTo g) w)) := by
  rw [closeCmd, actTime_running s _ h]
  simp only [closeRow, hc, atTime]
  rw [if_pos (by simpa using hg)]

theorem closeCmd_tick (s : State) (w : Timed) (k : Nat) (h : s.running = true) (hc : closeAt s w = some (.tick k)) (hk : k ≤ s.folio) :
    closeCmd s w = .next (commit s (closed s w)) := by
  rw [closeCmd, actTime_running s _ h]
  simp only [closeRow, hc, if_pos hk]

/-- A window that is not open: nothing. -/
theorem closeCmd_none (s : State) (w : Timed) (h : s.running = true) (hc : closeAt s w = none) :
    closeCmd s w = .next (commit s s) := by
  rw [closeCmd, actTime_running s _ h]
  simp only [closeRow, hc]

/-! ## What a wrapper can answer -/

theorem act_cases (s : State) (f : State → State) : act s f = .next s ∨ act s f = .next (commitNow s (f (closeDue s))) := by
  unfold act; split
  · exact .inr rfl
  · exact .inl rfl

theorem hostAct_cases (s : State) (f : State → State) : hostAct s f = .next s ∨ hostAct s f = .next (commitNow s (f (if s.running then closeDue s else s))) := by
  unfold hostAct; split
  · exact .inr rfl
  · exact .inl rfl

theorem actTime_cases (s : State) (f : State → State) : actTime s f = .next s ∨ actTime s f = .next (commit s (f s)) := by
  unfold actTime; split
  · exact .inr rfl
  · exact .inl rfl

theorem powered_cases (s : State) (f : State → State) : powered s f = .next s ∨ powered s f = .next (commit s (f (if s.running then closeDue s else s))) := by
  unfold powered; split
  · exact .inr rfl
  · exact .inl rfl

theorem fatalCmd_cases (s : State) (c : Nat) (x : Source) : fatalCmd s c x = .next s ∨ fatalCmd s c x = .next (commitNow s (goFatal (if s.running then closeDue s else s) c x)) := by
  unfold fatalCmd; split
  · exact .inr rfl
  · exact .inl rfl

theorem need_cases (b : Bool) (o : Host.Outcome State Fault Refusal) : need b o = o ∨ need b o = .refused .illFormed := by
  cases b <;> simp


end Sys2Proof.Machine
end

