-- ==== Sys2Proof/Laws/Settle.lean ====
section
/-! SUPPORT. Laws/Settle.lean: with no access in progress and no doorbell held back there is nothing to settle. -/

namespace Sys2Proof.Machine

theorem foldl_same {α β : Type} (l : List α) (f : β → α → β) (b : β) (h : ∀ a ∈ l, f b a = b) : l.foldl f b = b := by
  induction l with
  | nil => rfl
  | cons a l ih => rw [List.foldl_cons, h a (by simp)]; exact ih fun x hx => h x (by simp [hx])

theorem lmod_same {α : Type} (l : List α) (i : Nat) (f : α → α) (h : ∀ a ∈ l, f a = a) : lmod l i f = l := by
  induction l generalizing i with
  | nil => simp [lmod]
  | cons a l ih =>
    cases i with
    | zero => simp [lmod, h a (by simp)]
    | succ i => simpa [lmod] using ih i fun x hx => h x (by simp [hx])

theorem lget_mem {α : Type} (l : List α) (i : Nat) (d : α) (P : α → Prop) (h : ∀ a ∈ l, P a) (hd : P d) : P (lget l i d) := by
  unfold lget
  rw [List.getD_eq_getElem?_getD]
  cases hx : l[i]? with
  | none => simpa using hd
  | some a => simpa using h a (List.mem_of_getElem? hx)

theorem modNear_held (s : State) (n : Nat) (h : ∀ p ∈ s.near, p.heldDb = []) :
    modNear s n (fun p => { p with heldDb := [] }) = s := by
  have : lmod s.near n (fun p => { p with heldDb := [] }) = s.near :=
    lmod_same _ _ _ fun p hp => by have := h p hp; cases p; simp_all
  simp [modNear, this]

theorem inboundPump_still (s : State) (h : s.Still) : inboundPump s = s := by
  have hd : ∀ n, (getNear s n).heldDb = [] ∧ ∀ w ∈ (getNear s n).windows, w.2.waiting = [] := fun n =>
    lget_mem s.near n NearPort.reset (fun p => p.heldDb = [] ∧ ∀ w ∈ p.windows, w.2.waiting = []) h.2.1 ⟨rfl, by simp [NearPort.reset]⟩
  unfold inboundPump
  rw [h.1, List.foldl_nil]
  apply foldl_same
  intro n _
  have e : (getNear s n).windows.foldl (fun s w => if w.2.waiting = [] then s else windowDone s n w.1) s = s :=
    foldl_same _ _ _ fun w hw => if_pos ((hd n).2 w hw)
  simp only [e, (hd n).1, List.foldl_nil, modNear_held s n fun p hp => (h.2.1 p hp).1]
  split <;> rfl

theorem shadowPump_quiet (s : State) (h : s.cyc.placed = []) : shadowPump s = s := by simp [shadowPump, h]

theorem dirtyTick_still (s : State) (h : ∀ e ∈ s.xl.ctxs, ∀ g ∈ e.2.segs, g.2.log = none) : dirtyTick s = s := by
  unfold dirtyTick
  exact foldl_same _ _ _ fun e he => foldl_same _ _ _ fun g hg => by rw [h e he g hg]

/-- With nothing in progress nothing is settled. -/
theorem settleAll_still (s : State) (h : s.Still) : settleAll s = s := by
  have h1 : wakeWaiters s = s := by simp [wakeWaiters, h.1]
  have h2 : settle s = s := by simp [settle, settleSome, nextResult, h.1]
  have h3 : movCollect s = s := by simp [movCollect, movSettle, h.1]
  have h4 : collCollect s = s := by simp [collCollect, collSettle, h.1]
  simp [settleAll, h1, h2, h3, h4, inboundPump_still s h, shadowPump_quiet s h.2.2.1, dirtyTick_still s h.2.2.2]

theorem settle_same (s u : State) (h : s.Still) (hx : u.xl = s.xl) (hn : u.near = s.near) (hp : u.cyc.placed = s.cyc.placed) : settleAll u = u :=
  settleAll_still u ⟨by rw [hx]; exact h.1, by rw [hn]; exact h.2.1, by rw [hp, h.2.2.1], by rw [hx]; exact h.2.2.2⟩

end Sys2Proof.Machine
end

