-- ==== Sys2Proof/Laws/Cells.lean ====
section
/-! SUPPORT. Laws/Cells.lean: taking a good cell off the local ports. -/

namespace Sys2Proof.Machine

@[simp] theorem takeEjected_qps (s : State) (via : Via) (c : Cell) : (takeEjected s via c).qps = s.qps := rfl
@[simp] theorem takeEjected_col (s : State) (via : Via) (c : Cell) : (takeEjected s via c).col = s.col := rfl
@[simp] theorem takeEjected_xl (s : State) (via : Via) (c : Cell) : (takeEjected s via c).xl = s.xl := rfl
@[simp] theorem takeEjected_wlog (s : State) (via : Via) (c : Cell) : (takeEjected s via c).wlog = s.wlog := rfl
@[simp] theorem takeEjected_getQp (s : State) (via : Via) (c : Cell) (n : Nat) : getQp (takeEjected s via c) n = getQp s n := rfl
@[simp] theorem takeEjected_getComm (s : State) (via : Via) (c : Cell) (n : Nat) : getComm (takeEjected s via c) n = getComm s n := rfl
@[simp] theorem takeEjected_coordRank (s : State) (via : Via) (c : Cell) (m : Comm) (n : Nat) :
    coordRank (takeEjected s via c) m n = coordRank s m n := rfl
@[simp] theorem takeEjected_myRank (s : State) (via : Via) (c : Cell) (m : Comm) : myRank (takeEjected s via c) m = myRank s m := rfl
@[simp] theorem takeEjected_fromPeer (s : State) (via : Via) (c : Cell) (q : Qp) (v : Via) :
    fromPeer (takeEjected s via c) q v c = fromPeer s q v c := rfl
@[simp] theorem takeEjected_streamOf (s : State) (via : Via) (c : Cell) : streamOf (takeEjected s via c) c = streamOf s c := rfl

/-- A cell with a bad CRC is only dropped and counted (R18). -/
theorem takeCell_bad (s : State) (via : Via) (c : Cell) (police : Bool) (f : State → State) (h : c.crc ≠ latCrc c.hdr c.payload) :
    takeCell s via c police f = dropCell (takeEjected s via c) 0x3FF (cellDom s c) c := by
  have e : cellDom (takeEjected s via c) c = cellDom s c := rfl
  simp [takeCell, h, e]

/-- A good cell no policer counts goes on. -/
theorem takeCell_lets (s : State) (via : Via) (c : Cell) (police : Bool) (f : State → State) (h : s.lets c) :
    takeCell s via c police f = f (takeEjected s via c) := by
  obtain ⟨h1, h2⟩ := h
  have e : cellDom (takeEjected s via c) c = cellDom s c := rfl
  have g : ∀ n, getDom (takeEjected s via c) n = getDom s n := fun _ => rfl
  simp only [takeCell, h1, ne_eq, not_true_eq_false, if_false, e]
  split
  · rename_i hp
    simp only [Bool.and_eq_true, decide_eq_true_eq] at hp
    have h3 := h2.resolve_left (fun x => x hp.2)
    split
    · rename_i dm hd
      simp only [hd, Option.bind_some] at h3
      cases hg : getDom s dm with
      | none => simp [policed, g, hg]
      | some d => simp only [hg, Option.all_some, decide_eq_true_eq] at h3; simp [policed, g, hg, h3]
    · rfl
  · rfl

/-- A cell a near port takes: accounted for, its effect, then its buffer is free and what waits is sent. -/
theorem nearTake_takes (s : State) (n : Nat) (c : Cell) (f : State → State) (h : s.NearTakes n c) :
    nearTake s n c f = (f (s.nearTook n c)).nearDone n c (getNear (s.nearTook n c) n).heldDb.length := by
  obtain ⟨⟨h1, h2, h3⟩, h4, h5, h6, h8⟩ := h
  have b : cellWrong c = false := by
    unfold cellWrong
    rcases h6 with h6 | ⟨h6, h7⟩
    · simp [h6]
    · have : cType c = 0 ∨ [0xA, 0xB, 0xC, 0xD].contains (cType c) = true := by
        simp only [List.mem_cons, List.not_mem_nil, or_false] at h5
        rcases h5 with h | h | h | h | h <;> simp [h]
      rcases this with h | h
      · simp [h]
      · rw [h]; simp [h7]; omega
  have d : (decide (zVcOf (cType c) < 3) && decide (lget (getNear s n).inUse (zVcOf (cType c)) 0 ≥ lget ownCredits (zVcOf (cType c)) 0)) = false := by
    rcases h8 with h8 | h8
    · have : ¬ zVcOf (cType c) < 3 := by omega
      simp [this]
    · have : ¬ lget (getNear s n).inUse (zVcOf (cType c)) 0 ≥ lget ownCredits (zVcOf (cType c)) 0 := by omega
      simp [this]
  unfold nearTake
  simp only [h1, h2, h3]
  rw [if_neg (by decide), if_neg (by rw [h4]; simp), if_neg (by rw [b]; decide), if_neg (by rw [d]; decide)]
  rfl

/-- A good cell of a collective from a member that sends it that stage goes on (R235). -/
theorem takeColl_lets (s : State) (x : Cell) (stages : List Nat) (f : State → Nat → Comm → Nat → State) (m : Comm) (r : Nat)
    (h : s.lets x) (hm : getComm s (cQp x % 65536) = some m) (hr : coordRank s m (cSrc x) = some r)
    (hn : stagePath m (cQp x / 65536) r (myRank s m) = true)
    (hs : stages.contains (cQp x / 65536) = true) (hq : (getQp s m.qp).map qpLive = some true) :
    takeColl s x stages f = shadowPump (settle (collCollect (f (takeEjected s .lattice x) (cQp x % 65536) m r))) := by
  unfold takeColl
  rw [takeCell_lets s .lattice x true _ h]
  simp only [takeEjected_getComm, hm, takeEjected_coordRank, hr, takeEjected_myRank, takeEjected_getQp, hq, hs, hn]
  simp

/-- A good cell of a QP whose context is in the device is taken at once (R99). -/
theorem qpCell_lets (s : State) (via : Via) (c : Cell) (police : Bool) (h : s.lets c) (hu : uncached s (cQp c) = false) :
    qpCell s via c police = cellCore (takeEjected s via c) via c := by
  have e : uncached (takeEjected s via c) (cQp c) = uncached s (cQp c) := rfl
  unfold qpCell
  rw [takeCell_lets s via c police _ h]
  simp [e, hu]

/-- A good cell of a QP whose context is not there waits for it (R99). -/
theorem qpCell_waits (s : State) (via : Via) (c : Cell) (police : Bool) (h : s.lets c) (hu : uncached s (cQp c) = true) :
    qpCell s via c police = ctxQueue (takeEjected s via c) (cQp c) (.cell via c) := by
  have e : uncached (takeEjected s via c) (cQp c) = uncached s (cQp c) := rfl
  unfold qpCell
  rw [takeCell_lets s via c police _ h]
  simp [e, hu]

theorem settle_none (s : State) (h : s.xl.accesses = []) : settle s = s := by simp [settle, settleSome, nextResult, h]

/-- What a command that only queues and counts leaves as it was: HBM, its write log, the clock, the accesses. -/
abbrev Keeps (s t : State) : Prop :=
  t.xl = s.xl ∧ t.wlog = s.wlog ∧ t.wipe = s.wipe ∧ t.hbm = s.hbm ∧ t.pending = s.pending ∧ t.time = s.time

theorem sendAck_keeps (s : State) (n : Nat) : Keeps s (sendAck s n) := by
  unfold sendAck
  split
  · exact ⟨rfl, rfl, rfl, rfl, rfl, rfl⟩
  · unfold sendCtl pushCtl; repeat (first | split | exact ⟨rfl, rfl, rfl, rfl, rfl, rfl⟩)

theorem echoCount_keeps (s : State) (n : Nat) (c : Cell) : Keeps s (echoCount s n c) := by
  unfold echoCount
  split
  · exact ⟨rfl, rfl, rfl, rfl, rfl, rfl⟩
  · dsimp only
    split <;> exact ⟨rfl, rfl, rfl, rfl, rfl, rfl⟩

/-- A running block whose command only queues and counts: the next state is exactly it. -/
theorem act_keeps (s : State) (f : State → State) (h : s.Ready) (k : Keeps s (f s)) : act s f = .next (f s) := by
  obtain ⟨-, a, b, c, d, e⟩ := k
  exact act_plain s f h a b c d (by rw [e]; exact ⟨rfl, rfl, rfl, rfl⟩)

/-- With no access in progress and no HBM write to look at there is nothing to settle. -/
theorem nothing_settles (s u : State) (hx : s.xl.accesses = []) (hp : u.cyc.placed = []) (k : Keeps s u) : shadowPump (settle u) = u := by
  rw [settle_none u (by rw [k.1]; exact hx), shadowPump_quiet u hp]

theorem collCollect_none (s : State) (h : s.xl.accesses = []) : collCollect s = s := by simp [collCollect, collSettle, h]

end Sys2Proof.Machine
end

