-- ==== Sys2Proof/Laws/Records.lean ====
section
/-! SUPPORT. Laws/Records.lean: what posting a completion record or an event can touch: the rings and their functions, what
the cycle leaves to its end, the near ports, the counters, the outbox, outstanding HBM writes, and the accesses and faults of a
ring in host memory; nothing else of the state. -/

namespace Sys2Proof.Machine

/-- `t` is `s` after some records: only the pieces named here may differ. -/
abbrev Posted (s t : State) : Prop :=
  ∃ fns cqs mgrCq cyc near cnt outbox wlog poison xl cxl codex, t = { s with
    fns := fns, cqs := cqs, mgrCq := mgrCq, cyc := cyc, near := near, cnt := cnt, outbox := outbox, wlog := wlog
    hbm := { s.hbm with poison := poison }, xl := xl, cxl := cxl, codex := codex }

theorem Posted.refl (s : State) : Posted s s := ⟨_, _, _, _, _, _, _, _, _, _, _, _, rfl⟩

theorem Posted.trans {s t u : State} (h : Posted s t) (k : Posted t u) : Posted s u := by
  obtain ⟨_, _, _, _, _, _, _, _, _, _, _, _, rfl⟩ := h
  obtain ⟨_, _, _, _, _, _, _, _, _, _, _, _, rfl⟩ := k
  exact ⟨_, _, _, _, _, _, _, _, _, _, _, _, rfl⟩

theorem posted_foldl {α : Type} (f : State → α → State) (h : ∀ s a, Posted s (f s a)) (l : List α) (s : State) :
    Posted s (l.foldl f s) := by
  induction l generalizing s with
  | nil => exact .refl s
  | cons a l ih => exact (h s a).trans (ih _)

theorem posted_foldl_fst {α β : Type} (f : State × β → α → State × β) (h : ∀ x a, Posted x.1 (f x a).1) (l : List α) (x : State × β) :
    Posted x.1 (l.foldl f x).1 := by
  induction l generalizing x with
  | nil => exact .refl _
  | cons a l ih => exact (h x a).trans (ih _)

theorem emit_posted (s : State) (e : Emit) : Posted s (emit s e) := ⟨_, _, _, _, _, _, _, _, _, _, _, _, rfl⟩
theorem modCnt_posted (s : State) (f : Cnt → Cnt) : Posted s (modCnt s f) := ⟨_, _, _, _, _, _, _, _, _, _, _, _, rfl⟩
theorem modXl_posted (s : State) (f : Xl → Xl) : Posted s (modXl s f) := ⟨_, _, _, _, _, _, _, _, _, _, _, _, rfl⟩
theorem modCxl_posted (s : State) (f : Cxl → Cxl) : Posted s (modCxl s f) := ⟨_, _, _, _, _, _, _, _, _, _, _, _, rfl⟩
theorem modCyc_posted (s : State) (f : Cycle → Cycle) : Posted s (modCyc s f) := ⟨_, _, _, _, _, _, _, _, _, _, _, _, rfl⟩
theorem codexHand_posted (s : State) (code : Nat) (src : Source) (carrel : Nat) (data : BitVec 624) (fw : Bool) :
    Posted s (codexHand s code src carrel data fw) :=
  ⟨_, _, _, _, _, _, _, _, _, _, _, _, rfl⟩
theorem modAccess_posted (s : State) (i : Nat) (f : Access → Access) : Posted s (modAccess s i f) := modXl_posted s _
theorem endAccess_posted (s : State) (i st : Nat) (d : List Byte) (p : Bool) : Posted s (endAccess s i st d p) := modAccess_posted s i _
theorem bump_posted (s : State) (k n : Nat) : Posted s (bump s k n) := modCnt_posted s _
theorem prog_posted (s : State) (e : ProgEv) : Posted s (prog s e) := modCnt_posted s _
theorem bwBytes_posted (s : State) (e : Nat) (tx : Bool) (n : Nat) : Posted s (bwBytes s e tx n) := modCnt_posted s _
theorem modFn_posted (s : State) (n : Nat) (f : Fn → Fn) : Posted s (modFn s n f) := ⟨_, _, _, _, _, _, _, _, _, _, _, _, rfl⟩
theorem modNear_posted (s : State) (n : Nat) (f : NearPort → NearPort) : Posted s (modNear s n f) := ⟨_, _, _, _, _, _, _, _, _, _, _, _, rfl⟩

theorem modCq_posted (s : State) (r : RingRef) (f : CqRing → CqRing) : Posted s (modCq s r f) := by
  cases r <;> first | exact .refl s | exact ⟨_, _, _, _, _, _, _, _, _, _, _, _, rfl⟩

theorem raiseMsix_posted (s : State) (fn vec : Nat) : Posted s (raiseMsix s fn vec) := by
  unfold raiseMsix
  dsimp only
  split
  · exact (emit_posted s _).trans (bump_posted _ _ _)
  · exact modFn_posted _ _ _

theorem wrByte_posted (s : State) (a : Nat) (v : Byte) : Posted s (wrByte s a v) := by
  unfold wrByte
  split
  · exact ⟨_, _, _, _, _, _, _, _, _, _, _, _, rfl⟩
  · exact .refl s

theorem wrRun_posted (bs : List Byte) : ∀ (s : State) (a : Nat), Posted s (wrRun s a bs) := by
  induction bs with
  | nil => exact fun s _ => .refl s
  | cons b bs ih => exact fun s a => (wrByte_posted s a b).trans (ih _ _)

theorem setBitmapBit_posted (s : State) (base i : Nat) : Posted s (setBitmapBit s base i) := by
  unfold setBitmapBit
  split
  · exact wrByte_posted _ _ _
  · exact .refl s

theorem logAlloc_posted (s : State) (a len : Nat) : Posted s (logAlloc s a len) := by
  unfold logAlloc
  split
  · exact .refl s
  · split
    · exact .refl s
    · split
      · exact .refl s
      · exact posted_foldl _ (fun s p => setBitmapBit_posted s _ p) _ _

theorem ite_posted {s : State} {t u : State} (c : Prop) [Decidable c] (h : Posted s t) (k : Posted s u) : Posted s (if c then t else u) := by
  split
  · exact h
  · exact k

theorem markPoison_posted (s : State) (l : Nat) : Posted s (markPoison s l) := by
  unfold markPoison
  dsimp only
  exact ite_posted _ (wrRun_posted _ _ _) ((wrRun_posted _ _ _).trans ⟨_, _, _, _, _, _, _, _, _, _, _, _, rfl⟩)

theorem wrPhys_posted (s : State) (a : Nat) (bs : List Byte) : Posted s (wrPhys s a bs) := by
  unfold wrPhys
  exact (((wrRun_posted bs s a).trans ⟨_, _, _, _, _, _, _, _, _, _, _, _, rfl⟩).trans (posted_foldl _ (fun s l => markPoison_posted s l) _ _)).trans (bump_posted _ _ _)

theorem hbmWrite_posted (s : State) (a : Nat) (bs : List Byte) : Posted s (hbmWrite s a bs) :=
  (wrPhys_posted s a bs).trans (logAlloc_posted _ _ _)

theorem wrAlloc_posted (s : State) (dom off : Nat) (bs : List Byte) (src : Source) : Posted s (wrAlloc s dom off bs src) := by
  unfold wrAlloc
  split
  · exact .refl s
  · refine (prog_posted s _).trans (posted_foldl_fst _ (fun x p => ?_) _ _)
    dsimp only
    split
    · exact hbmWrite_posted _ _ _
    · exact .refl _

theorem readLeaves_posted (s : State) (n : Nat) (c : Cell) : Posted s (readLeaves s n c) :=
  ite_posted _ (.refl s) (modNear_posted _ _ _)

theorem nearDrain_posted (s : State) (n : Nat) : Posted s (nearDrain s n) := by
  unfold nearDrain
  dsimp only
  split
  · exact .refl s
  · refine (modNear_posted s n _).trans (posted_foldl _ (fun s c => ?_) _ _)
    have a := ((readLeaves_posted s n c).trans (emit_posted _ (.nearCell n c))).trans (bump_posted _ (nearCnt n 0) 1)
    have k := ite_posted (cType c = 0xD) a (a.trans (bwBytes_posted _ (8 + n) true 64))
    exact ite_posted _ (k.trans (bump_posted _ _ _)) (ite_posted _ (k.trans (bump_posted _ _ _)) k)

theorem nearSend_posted (s : State) (n : Nat) (c : Cell) : Posted s (nearSend s n c) :=
  ite_posted _ (.refl s) ((modNear_posted s n _).trans (nearDrain_posted _ n))

theorem nearPump_posted (s : State) (n : Nat) : Posted s (nearPump s n) := by
  unfold nearPump
  dsimp only
  split
  · exact .refl s
  · refine posted_foldl_fst _ (fun x r => ?_) _ (s, false)
    split
    · exact .refl _
    · split
      · exact .refl _
      · split
        · exact .refl _
        · exact (modNear_posted _ _ _).trans ((prog_posted _ _).trans (nearSend_posted _ _ _))

theorem nearReq_posted (s : State) (n : Nat) (read : Bool) (cls addr lines first last : Nat) (data : Line) (poison : Bool)
    (access : Option Nat) : Posted s (nearReq s n read cls addr lines first last data poison access) :=
  (modNear_posted s n _).trans (nearPump_posted _ n)

theorem notifyPump_posted (s : State) (n : Nat) : Posted s (notifyPump s n) := by
  unfold notifyPump
  dsimp only
  split
  · exact (modNear_posted s n _).trans (posted_foldl _ (fun s e => (nearSend_posted s n _).trans (bump_posted _ _ _)) _ _)
  · exact .refl s

theorem nearNotify_posted (s : State) (q : CqRing) : Posted s (nearNotify s q) :=
  (modNear_posted s _ _).trans (notifyPump_posted _ _)

theorem raiseRing_posted (s : State) (r : RingRef) (q : CqRing) : Posted s (raiseRing s r q) := by
  unfold raiseRing
  dsimp only
  split
  · exact modCq_posted _ _ _
  · split
    · exact (modCq_posted _ _ _).trans (nearNotify_posted _ _)
    · exact (modCq_posted _ _ _).trans (raiseMsix_posted _ _ _)

theorem moderate_posted (s : State) (r : RingRef) : Posted s (moderate s r) := by
  unfold moderate
  split
  · exact raiseMsix_posted _ _ _
  · exact raiseMsix_posted _ _ _
  · split
    · exact raiseRing_posted _ _ _
    · exact .refl s
  · exact .refl s

theorem logRing_posted (s : State) (q : CqRing) (a : Nat) : Posted s (logRing s q a) := by
  unfold logRing logSeg
  split
  · split
    · exact setBitmapBit_posted _ _ _
    · exact .refl s
  · exact .refl s

theorem askHost_posted (s : State) (ls : List Nat) (w : Bool) (a j : Option Nat) : Posted s (askHost s ls w a j) :=
  posted_foldl _ (fun s _ => ((emit_posted s _).trans (bump_posted _ _ _)).trans (modCxl_posted _ _)) _ _

theorem finishHbm_posted (s : State) (a : Access) : Posted s (finishHbm s a) := by
  unfold finishHbm
  split
  · refine Posted.trans ?_ ((prog_posted _ _).trans (endAccess_posted _ _ _ _ _))
    refine ite_posted _ (posted_foldl _ (fun s l => markPoison_posted s l) _ _) ?_
    exact (hbmWrite_posted s _ _).trans (ite_posted _ (modCyc_posted _ _) (.refl _))
  · exact ((prog_posted s _).trans (bump_posted _ _ _)).trans (endAccess_posted _ _ _ _ _)

theorem issueCache_posted (s : State) (a : Access) : Posted s (issueCache s a) :=
  ite_posted _ (modCxl_posted _ _) (ite_posted _ (finishHbm_posted s a) ((modAccess_posted s _ _).trans (askHost_posted _ _ _ _ _)))

theorem issueHost_posted (s : State) (a : Access) (bus : Nat) (uio : Bool) : Posted s (issueHost s a bus uio) := by
  unfold issueHost
  refine ite_posted _ (endAccess_posted _ _ _ _ _) ?_
  have k : Posted s (if a.write then
        bwBytes (bump (bump (emit (modCxl s fun c => { c with nextReq := s.cxl.nextReq + 1 }) (.hostWrite s.cxl.nextReq a.fn bus a.data a.poison uio)) (cxlCnt 2) 1) (cxlCnt 3) a.len) 28 true a.len
      else bump (bump (emit (modCxl s fun c => { c with nextReq := s.cxl.nextReq + 1 }) (.hostRead s.cxl.nextReq a.fn bus a.len uio)) (cxlCnt 0) 1) (cxlCnt 1) a.len) :=
    ite_posted _ (((((modCxl_posted s _).trans (emit_posted _ _)).trans (bump_posted _ _ _)).trans (bump_posted _ _ _)).trans (bwBytes_posted _ _ _ _))
      ((((modCxl_posted s _).trans (emit_posted _ _)).trans (bump_posted _ _ _)).trans (bump_posted _ _ _))
  exact ite_posted _ (k.trans (modXl_posted _ _)) (k.trans ((modCxl_posted _ _).trans (modAccess_posted _ _ _)))

theorem issueNear_posted (s : State) (n : Nat) (a : Access) : Posted s (issueNear s n a) := by
  unfold issueNear
  dsimp only
  exact ite_posted _ ((modAccess_posted s _ _).trans (posted_foldl _ (fun s _ => nearReq_posted s _ _ _ _ _ _ _ _ _ _) _ _))
    ((modAccess_posted s _ _).trans (nearReq_posted _ _ _ _ _ _ _ _ _ _ _))

theorem countWaiter_posted (s : State) (a : Access) : Posted s (countWaiter s a) :=
  (bump_posted s _ _).trans (prog_posted _ _)

theorem meetFault_posted (s : State) (a : Access) (cause log2 : Nat) : Posted s (meetFault s a cause log2) := by
  unfold meetFault
  dsimp only
  split
  · exact ((countWaiter_posted s a).trans (modAccess_posted _ _ _)).trans (modXl_posted _ _)
  · split
    · exact (((countWaiter_posted s a).trans (modCyc_posted _ _)).trans (modAccess_posted _ _ _)).trans (modXl_posted _ _)
    · have b : ∀ f g i, Posted s (modAccess (bump (modXl (countWaiter s a) f) (devCnt 12) 1) i g) := fun f g i =>
        (((countWaiter_posted s a).trans (modXl_posted _ f)).trans (bump_posted _ (devCnt 12) 1)).trans (modAccess_posted _ i g)
      split
      · exact ite_posted _ (((ite_posted _ ((b _ _ _).trans (codexHand_posted _ _ _ _ _ _)) (b _ _ _)).trans (modXl_posted _ _)).trans
          ((emit_posted _ _).trans (bump_posted _ _ _))) (ite_posted _ ((b _ _ _).trans (codexHand_posted _ _ _ _ _ _)) (b _ _ _))
      · exact ite_posted _ ((b _ _ _).trans (codexHand_posted _ _ _ _ _ _)) (b _ _ _)

theorem tryAccess_posted (s : State) (id : Nat) : Posted s (tryAccess s id) := by
  unfold tryAccess
  split
  · exact .refl s
  · dsimp only
    split
    · exact .refl s
    · refine (modAccess_posted s id fun x => { x with fault := none, xlatReq := false }).trans ?_
      split
      · exact issueCache_posted _ _
      · exact ite_posted _ (meetFault_posted _ _ _ _) (ite_posted _ (meetFault_posted _ _ _ _) (issueNear_posted _ _ _))
      · refine ite_posted _ (issueHost_posted _ _ _ _) ?_
        split
        · exact issueHost_posted _ _ _ _
        · exact ite_posted _ (meetFault_posted _ _ _ _) (ite_posted _ (meetFault_posted _ _ _ _) (ite_posted _ (endAccess_posted _ _ _ _ _)
            (((modAccess_posted _ _ _).trans (emit_posted _ _)).trans (bump_posted _ _ _))))

theorem ringAccess_posted (s : State) (who : Who) (fn : Nat) (seg : Option (Nat × Nat)) (pl : Place) (a n : Nat) (w : Bool) (d : List Byte)
    (wait : Bool) : Posted s (ringAccess s who fn seg pl a n w d wait) := by
  unfold ringAccess
  dsimp only
  exact ite_posted _ (modXl_posted _ _) ((modXl_posted s _).trans (tryAccess_posted _ _))

theorem storeRecord_posted (s : State) (r : RingRef) (q : CqRing) (rec : Line) : Posted s (storeRecord s r q rec) := by
  unfold storeRecord
  dsimp only
  refine (logRing_posted s q (q.addr + q.pIdx % 2 ^ q.log2 * q.entry)).trans ?_
  split
  · exact wrAlloc_posted _ _ _ _ _
  · exact ringAccess_posted _ _ _ _ _ _ _ _ _ _
  · exact nearReq_posted _ _ _ _ _ _ _ _ _ _ _

theorem journalPut_posted (s : State) (e : JEntry) : Posted s (journalPut s e) := modCyc_posted s _

/-- Writing one record moves only the rings, the journal, the near ports, the counters and the outbox. -/
theorem writeRecord_posted (s : State) (r : RingRef) (rec : Line) : Posted s (writeRecord s r rec) := by
  unfold writeRecord
  split
  · exact .refl s
  · dsimp only
    split
    · exact (modCq_posted _ r _).trans (moderate_posted _ r)
    · split
      · exact ((journalPut_posted _ _).trans (modCq_posted _ r _)).trans (moderate_posted _ r)
      · exact ((storeRecord_posted _ _ _ _).trans (modCq_posted _ r _)).trans (moderate_posted _ r)

theorem postEvent_posted (s : State) (fn code : Nat) (src : Source) (carrel obj : Nat) (data : BitVec 352) :
    Posted s (postEvent s fn code src carrel obj data) := modCyc_posted s _

theorem writeEvent_posted (s : State) (e : PendEvent) : Posted s (writeEvent s e) := by
  unfold writeEvent
  split
  · exact bump_posted _ _ _
  · exact ite_posted _ ((modCq_posted _ _ _).trans (bump_posted _ _ _)) ((modCq_posted _ _ _).trans (writeRecord_posted _ _ _))

/-- Writing the events of a cycle moves no more than writing records does. -/
theorem writeEvents_posted (s : State) : Posted s (writeEvents s) :=
  (modCyc_posted s _).trans (posted_foldl _ (fun s e => writeEvent_posted s e) _ _)

/-- Completing a descriptor moves only what writing records moves. -/
theorem complete_posted (s : State) (r : RingRef) (rec : Line) (sc : Bool) : Posted s (complete s r rec sc) := by
  unfold complete
  split
  · exact .refl s
  · dsimp only
    have a : ∀ c e, Posted s (prog (bumpDom s c 15 1) e) := fun c e => (bump_posted s (domCnt c 15) 1).trans (prog_posted _ e)
    split
    · exact (a _ _).trans (writeRecord_posted _ _ _)
    · split
      · exact ((a _ _).trans (modCq_posted _ r _)).trans (postEvent_posted _ _ _ _ _ _ _)
      · exact (a _ _).trans (modCq_posted _ r _)

theorem mgrOk_posted (s : State) (d : Line) (bc : Nat) : Posted s (mgrOk s d bc) := by
  unfold mgrOk mgrDone; exact complete_posted _ _ _ _
theorem mgrFail_posted (s : State) (d : Line) (reason : Nat) : Posted s (mgrFail s d reason) := by
  unfold mgrFail mgrDone; exact complete_posted _ _ _ _
theorem ctlDone_posted (s : State) (fn : Nat) (d : Line) (status bc : Nat) : Posted s (ctlDone s fn d status bc) := by
  unfold ctlDone; exact complete_posted _ _ _ _

/-- What a completed manager command leaves of its effect: what `Posted` does not name. -/
theorem mgrOk_keeps (s : State) (d : Line) (bc : Nat) :
    (mgrOk s d bc).pending = s.pending ∧ (mgrOk s d bc).qps = s.qps ∧ (mgrOk s d bc).regions = s.regions ∧
      (mgrOk s d bc).doms = s.doms ∧ (mgrOk s d bc).keys = s.keys ∧ (mgrOk s d bc).sched = s.sched ∧ (mgrOk s d bc).lat = s.lat ∧
      (mgrOk s d bc).col = s.col ∧ (mgrOk s d bc).zoo = s.zoo ∧ (mgrOk s d bc).time = s.time ∧ (mgrOk s d bc).hbm.cells = s.hbm.cells := by
  obtain ⟨_, _, _, _, _, _, _, _, _, _, _, _, h⟩ := mgrOk_posted s d bc
  rw [h]; exact ⟨rfl, rfl, rfl, rfl, rfl, rfl, rfl, rfl, rfl, rfl, rfl⟩

end Sys2Proof.Machine
end

