-- ==== Sys2Proof/Laws/Tables.lean ====
section
/-! SUPPORT. Laws/Tables.lean: what a sparse table reads as after an update. -/

namespace Sys2Proof.Machine

theorem lookup_tput_same {α : Type} (t : Tbl α) (k : Nat) (v : α) : (tput t k v).lookup k = some v := by
  induction t with
  | nil => simp [tput]
  | cons e t ih =>
    obtain ⟨j, w⟩ := e
    by_cases h1 : k < j
    · simp [tput, h1]
    · by_cases h2 : k = j
      · simp [tput, h2]
      · have : (k == j) = false := by simpa using h2
        simp [tput, h1, h2, List.lookup_cons, this, ih]

theorem lookup_tput_other {α : Type} (t : Tbl α) (k i : Nat) (v : α) (h : i ≠ k) : (tput t k v).lookup i = t.lookup i := by
  have hik : (i == k) = false := by simpa using h
  induction t with
  | nil => simp [tput, List.lookup_cons, hik]
  | cons e t ih =>
    obtain ⟨j, w⟩ := e
    by_cases h1 : k < j
    · simp [tput, h1, List.lookup_cons, hik]
    · by_cases h2 : k = j
      · subst h2
        simp [tput, List.lookup_cons, hik]
      · simp [tput, h1, h2, List.lookup_cons, ih]

theorem tget_tput_same {α : Type} (t : Tbl α) (k : Nat) (v d : α) : tget (tput t k v) k d = v := by
  simp [tget, lookup_tput_same]

theorem tget_tput_other {α : Type} (t : Tbl α) (k i : Nat) (v d : α) (h : i ≠ k) : tget (tput t k v) i d = tget t i d := by
  simp [tget, lookup_tput_other _ _ _ _ h]

theorem tdel_cons {α : Type} (e : Nat × α) (t : Tbl α) (k : Nat) :
    tdel (e :: t) k = if e.1 = k then tdel t k else e :: tdel t k := by
  by_cases h : e.1 = k <;> simp [tdel, h]

theorem lookup_tdel_same {α : Type} (t : Tbl α) (k : Nat) : (tdel t k).lookup k = none := by
  induction t with
  | nil => rfl
  | cons e t ih =>
    by_cases h : e.1 = k
    · simp [tdel_cons, h, ih]
    · have hk : (k == e.1) = false := by simpa using Ne.symm h
      rw [tdel_cons, if_neg h, List.lookup_cons, hk, ih]

theorem lookup_tdel_other {α : Type} (t : Tbl α) (k i : Nat) (h : i ≠ k) : (tdel t k).lookup i = t.lookup i := by
  induction t with
  | nil => rfl
  | cons e t ih =>
    by_cases c : e.1 = k
    · have hk : (i == e.1) = false := by simpa [c] using h
      rw [tdel_cons, if_pos c, ih, List.lookup_cons, hk]
    · rw [tdel_cons, if_neg c, List.lookup_cons, List.lookup_cons, ih]

theorem tupd_cons {α : Type} (j : Nat) (w : α) (t : Tbl α) (k : Nat) (f : α → α) :
    tupd ((j, w) :: t) k f = (j, if j = k then f w else w) :: tupd t k f := by
  by_cases h : j = k <;> simp [tupd, h]

theorem lookup_tupd_same {α : Type} (t : Tbl α) (k : Nat) (f : α → α) : (tupd t k f).lookup k = (t.lookup k).map f := by
  induction t with
  | nil => rfl
  | cons e t ih =>
    obtain ⟨j, w⟩ := e
    rw [tupd_cons, List.lookup_cons, List.lookup_cons]
    by_cases h : k = j
    · simp [h]
    · have hk : (k == j) = false := by simpa using h
      simp [hk, ih]

theorem lookup_tupd_other {α : Type} (t : Tbl α) (k i : Nat) (f : α → α) (h : i ≠ k) : (tupd t k f).lookup i = t.lookup i := by
  induction t with
  | nil => rfl
  | cons e t ih =>
    obtain ⟨j, w⟩ := e
    rw [tupd_cons, List.lookup_cons, List.lookup_cons, ih]
    by_cases c : i = j
    · have : j ≠ k := by omega
      simp [c, this]
    · have hk : (i == j) = false := by simpa using c
      simp [hk]

end Sys2Proof.Machine
end

