-- ==== Sys2Proof/Tests/Slice0.lean ====
section
/-! SUPPORT. Tests/Slice0.lean: small states, the witnesses of the statements' premises, ill-formed operands refused, and a few
single steps whose results the spec gives. -/

open Sys2Proof Sys2Proof.Machine

/-! ## States the tests start from -/

/-- A manager domain that owns objects of every pool. -/
def tCfg : DomCfg := { DomCfg.manager with
  qpBase := 1, qpCount := 16, regionBase := 0, regionCount := 16, ctxBase := 0, ctxCount := 4, keyBase := 0, keyCount := 16
  trigBase := 0, trigCount := 8, commQuota := 4, slotQuota := 64 }

/-- The block after INIT_DONE with the host link up. -/
def tUp : State := { State.reset with
  glb := { Glb.reset with
    bridgeUp := true, hbmReady := true, tablesReady := true, initDone := true, fwRunning := true, filled := [0, 1, 2, 3, 4, 5], ready := 2 }
  cxl := { Cxl.reset with linkUp := true, memSpace := true, busMaster := true, width := 16, speed := 4 }
  doms := [(64, Domain.new tCfg)] }

/-- A queue pair of PF0 that sends and receives. -/
def tQp : Qp := { Qp.new 0 with state := .rts, peerCoord := 0, peerQp := 1, hadPeer := true }

/-- The block with that queue pair as number 1. -/
def tRts : State := { tUp with qps := [(1, tQp)] }

/-- A lattice cell with its CRC. -/
def tCell (type qp seq off : Nat) (p : Line) : Cell := latCell (qpHdr tRts { tQp with peerQp := qp } type 0 seq off false) p


/-- The block in a lattice of 2 × 2, its plane A ports X+ and X- active. -/
def tLat : State := { tUp with
  lat := { tUp.lat with cfg := 0x21 }
  lports := [{ LatPort.reset with state := 5, surveyNext := 1000 }, { LatPort.reset with state := 5, surveyNext := 1000 }] ++ List.replicate 6 LatPort.reset }

/-- A unicast cell for the adapter at (1, 0). -/
def tFar : Cell := { tCell 1 0 0 0 0 with hdr := setFld (tCell 1 0 0 0 0).hdr 16 5 1 }

/-- A gate-list image with no flow and empty maps, set 7, for an adapter alone in its lattice. -/
def tImgSet : GateSet := { id := 7, cycle := 1, noticeBound := 0, flows := [], map := [], conts := [], imgBase := 0, imgLen := 128, loadedAt := 0 }
def tImgBytes : List Byte :=
  [7, 0, 0, 0, 1, 1, 0, 0] ++ List.replicate 24 0 ++ [64, 0, 0, 0, 64, 0, 0, 0, 64, 0, 0, 0, 128, 0, 0, 0] ++ List.replicate 80 0
def tImg : State := { tUp with
  doms := [(64, Domain.new { tCfg with granules := [4, 5], transport := 0 })]
  hbm := { tUp.hbm with cells := [(2 ^ 32, 7), (2 ^ 32 + 4, 1), (2 ^ 32 + 5, 1), (2 ^ 32 + 32, 64), (2 ^ 32 + 36, 64), (2 ^ 32 + 40, 64), (2 ^ 32 + 44, 128)] } }

/-- A communicator on QP 1, in a rectangle of one adapter. -/
def tComm : Comm :=
  { fn := 0, qp := 1, isList := false, sched := false, slots := 4, shared := 0, x0 := 0, y0 := 0, xc := 1, yc := 1, coords := [],
    waitUs := 1, flowMap := 0, listAddr := 0, nextSeq := 0, begun := false, run := [], stash := [], aborted := [], notice := none }

/-- A collective that runs with COLL_SEQ 0. -/
def tRun : Coll :=
  { idx := 0, desc := 0, granted := 0, waits := none, staged := [], tx := [], rx := [], began := [], acc := [], rounded := [], ended := [],
    writes := 0, poison := false, overflow := false, missed := false, timer := none, retryLeft := 0, rnr := [], rnrOf := none }

/-- The block at (0, 0) of a lattice of 2 × 1 with a communicator of both adapters, idle. -/
def tColl0 : State := { tUp with
  lat := { tUp.lat with cfg := 1 }, qps := [(1, { tQp with type := 2 })], col := { tUp.col with comms := [(0, { tComm with xc := 2 })] } }

/-- The same with a collective running. -/
def tColl : State := { tColl0 with col := { tColl0.col with comms := [(0, { tComm with xc := 2, run := [tRun] })] } }

/-- A cell of a stage of that communicator from the other adapter. -/
def tSc (st off : Nat) : Cell := latCell (latHdr (if st < 4 then 7 else 6) 0 0 0 false false 1 (st * 65536) 0 off true) 0

/-- The block whose manager domain owns two granules and weights for every engine. -/
def tJob : State := { tUp with
  doms := [(64, Domain.new { tCfg with granules := [4, 5], transport := 0, weights := [16, 16, 16, 16, 16, 16], jobQuota := 4 })] }

/-- CONVERT of one block of format 0 to itself: an FMT job from offset 0 to offset 4096. -/
def tJobCmd : Line := setFld (setFld (setFld (setFld 0 128 8 1) 136 8 1) 256 57 4096) 320 32 17
def tFill : Job := (jobOf tJob tJobCmd 64).getD Job.blank

/-- CRC of no byte by set 0, its record at offset 4096. -/
def tCrcCmd : Line := setFld (setFld (setFld 0 128 8 4) 136 8 1) 256 57 4096
def tCrc : Job := (jobOf tJob tCrcCmd 64).getD Job.blank

/-- The block with slot 0 in carrel 0's pool and a GCM key staged. -/
def tKey : State := { tUp with
  doms := [(0, Domain.new { tCfg with keyBase := 0, keyCount := 1 }), (64, Domain.new tCfg)], keyLoad := { tUp.keyLoad with mask := 0xF } }

/-- A near port in ACTIVE, and the block with it as port 0. -/
def tNearPort : NearPort := { NearPort.reset with enable := true, state := 4, farMax := [64, 64, 64], credits := [64, 64, 64], maintNext := 16000 }
def tNear : State := { tUp with near := [tNearPort] }

/-- The same with inbound window 0 over HBM segment 0 of context 0, in the manager's allocation. -/
def tWindow : Window := { fn := 0, ctx := 0, base := 0, len := 2 ^ 20, readOk := true, writeOk := true, waiting := [] }
def tWinSeg : Seg :=
  { target := 1, pinned := false, policy := false, invAbort := false, uio := false, base := 0, len := 2 ^ 20, tbase := 0, withdrawn := none, log := none }
def tWinCtx : Ctx := { dom := 64, atsFn := 0, pasid := 0, pasidEn := false, timeoutMs := 0, segs := [(0, tWinSeg)] }
def tWin : State := { tUp with
  near := [{ tNearPort with windows := [(0, tWindow)] }]
  doms := [(64, Domain.new { tCfg with granules := [4, 5], transport := 0 })]
  xl := { tUp.xl with ctxs := [(0, tWinCtx)] } }

/-- A READ of one line that the far end has not answered, and the access it serves. -/
def tNearReq : NearReq :=
  { id := 5, tag := 5, sent := true, read := true, cls := 0, addr := 0, lines := 1, first := 0, last := 63, data := 0, poison := false,
    access := some 3, answered := [], got := [], poisoned := [], issued := 0, done := false }
def tNearAcc : Access :=
  { id := 3, who := .send 1 0, source := 0, ctx := 0, seg := 0, va := 0, len := 64, write := false, data := [], poison := false, place := .near 0,
    addr := 0, fn := 0, pasid := none, xlatReq := false, fault := none, issued := true, left := 1, folio := 0, hostLines := [], dropped := false, result := none }
def tNearRd : State := { tUp with
  near := [{ tNearPort with tags := [tNearReq] }]
  xl := { tUp.xl with accesses := [tNearAcc] } }

/-- The block with near port 0 in Ethernet mode 1 and the link of MAC 0 up. -/
def tMac : Mac := { Mac.reset with linkUp := true }
def tEth : State := { tUp with near := [{ NearPort.reset with mode := 1 }], macs := [tMac] }
def tFrame : Frame := { da := 1, sa := 2, tagged := false, pcp := 0, vid := 0, etherType := 0x1234, len := 64, fcsOk := true, body := .other false 0, bytes := [], stamp := 0 }

/-- A suspended carrel 0 with nothing in it, the manager's two granules, and at offset 0 an export of an empty carrel whose body is 64 zeros. -/
def tExport : Export := { body := List.replicate 64 0, qps := [], kcvs := [], regions := [], ctxs := [], trig := [], comms := [], cqs := [], eqs := [] }
def tExpHead : List Byte := [1, 0, 0, 0, 0x67, 0xEB, 0xC8, 3, 0, 3, 0, 0, 0, 0, 0, 0, 0, 3, 0, 0, 64] ++ List.replicate 747 0
def tSwap : State := { tUp with
  doms := [(0, { Domain.new DomCfg.empty with suspended := true, quiesced := true }), (64, Domain.new { tCfg with granules := [4, 5], transport := 0 })]
  exports := [tExport]
  hbm := { tUp.hbm with
    cells := [(2 ^ 32, 1), (2 ^ 32 + 4, 0x67), (2 ^ 32 + 5, 0xEB), (2 ^ 32 + 6, 0xC8), (2 ^ 32 + 7, 3), (2 ^ 32 + 9, 3), (2 ^ 32 + 17, 3), (2 ^ 32 + 20, 64)] } }

/-- The block whose firmware runs and answers SPDM over MCTP with the algorithms agreed. -/
def tSpdm : State := { tUp with sec := { tUp.sec with spdmMctp := (true, true, true), identCert := [1], attCert := [2] } }

/-! ## States and operands that meet the premises of every statement -/

set_option maxRecDepth 200000 in
theorem wit_FrontOfTheQueueRuns_1 : ∃ (s : State) (c : Instr) (rest : List Instr), (s.pending = c :: rest) :=
  ⟨{ State.reset with pending := [.thermalTrip] }, .thermalTrip, [], by decide⟩

set_option maxRecDepth 200000 in
theorem wit_AnEmptyQueueLetsOneCyclePass_1 : ∃ (s : State), (s.pending = []) :=
  ⟨State.reset, by decide⟩

set_option maxRecDepth 200000 in
theorem wit_AnEmptyQueueLetsOneCyclePass_2 : ∃ (s : State), (s.pending = []) ∧ (s.Ready) ∧ (cycleEnd s = s) ∧ ((s.pass 1).now < s.nextTickAt) :=
  ⟨tUp, by decide, by decide, by decide, by decide⟩

set_option maxRecDepth 200000 in
theorem wit_StepKeepsASafeState_1 : ∃ (s t : State), (s.Safe) ∧ (step s = .next t) :=
  ⟨State.reset, idle State.reset, by decide, rfl⟩

set_option maxRecDepth 200000 in
theorem wit_CommandsLeaveTheQueue_1 : ∃ (s : State) (c : Instr), (commandFits c = true) :=
  ⟨State.reset, .zuquinIdle 0 (zCell 0 0), by decide⟩

set_option maxRecDepth 200000 in
theorem wit_CommandsLeaveTheQueue_2 : ∃ (s : State) (c : Instr), (commandFits c = false) :=
  ⟨State.reset, .zuquinIdle 4 (zCell 0 0), by decide⟩

set_option maxRecDepth 200000 in
theorem wit_CommandsLeaveTheQueue_3 : ∃ (s t : State) (c : Instr), (exec c s = .next t) :=
  ⟨State.reset, State.reset, .zuquinIdle 0 (zCell 0 0), rfl⟩

set_option maxRecDepth 200000 in
theorem wit_AStoppedBlockIgnoresWork_1 : ∃ (s : State) (c : Instr), (s.running = false) ∧ (actsStopped c = false) :=
  ⟨{ State.reset with pkg := { State.reset.pkg with rails := false } }, .zuquinIdle 0 (zCell 0 0), by decide, by decide⟩

set_option maxRecDepth 200000 in
theorem wit_GlbCtlActsAsDeviceReset_1 : ∃ (s : State) (v : W64), (s.Alive) ∧ (fld v 0 8 = 0xD5 ∧ bitAt v 8 = true) :=
  ⟨tUp, 0x1D5, by decide, by decide⟩

set_option maxRecDepth 200000 in
theorem wit_GlbCtlActsAsDeviceReset_2 : ∃ (s : State) (v : W64), (s.Alive) ∧ (fld v 0 8 ≠ 0xD5 ∨ bitAt v 8 = false) :=
  ⟨tUp, 0x1D4, by decide, by decide⟩

set_option maxRecDepth 200000 in
theorem wit_GlbCtlActsAsDeviceReset_3 : ∃ (s : State) (n : Nat) (v : W64), (s.Alive) ∧ (wfVf n = true) :=
  ⟨tUp, 3, 0x1D5, by decide, by decide⟩

set_option maxRecDepth 200000 in
theorem wit_ADescriptorIsTakenOnlyByItsLap_1 : ∃ (s : State) (ref : RingRef) (r : Ring) (d : Line) (p : Bool), (getRing s ref = some r) ∧ (dLap d ≠ ((r.cDev >>> r.log2) + 1) &&& 0xFFFF) :=
  ⟨tUp, .mgrSq, tUp.mgrSq, 0, false, by decide, by decide⟩

set_option maxRecDepth 200000 in
theorem wit_ValuesOfElements_1 : ∃ (m : Image) (i : Nat) (q : Int), (m.elems[i]? = some q) :=
  ⟨⟨⟨8, 32, 7, true, true⟩, [5], [130]⟩, 0, 5, by decide⟩

set_option maxRecDepth 200000 in
theorem wit_ValuesOfElements_2 : ∃ (m : Image) (i j : Nat), (m.fmt.tensor = true) :=
  ⟨⟨⟨8, 0, 7, true, true⟩, [5], [130]⟩, 0, 1, by decide⟩

set_option maxRecDepth 200000 in
theorem wit_ValuesOfElements_3 : ∃ (f : Fmt) (count i : Nat) (bs : List Byte), (fmtOf 0xD = some f) ∧ (i < count) :=
  ⟨⟨32, 0, 31, true, false⟩, 4, 2, [], by decide, by decide⟩

set_option maxRecDepth 200000 in
theorem wit_ElementBitsOfAPlane_1 : ∃ (code : Nat) (f : Fmt) (bs : List Byte) (count i : Nat), (fmtOf code = some f) ∧ (i < count) ∧ (f.width * i + f.width ≤ 8 * bs.length) :=
  ⟨9, ⟨12, 64, 11, true, true⟩, [1, 2, 3, 4, 5, 6], 3, 2, by decide, by decide, by decide⟩

set_option maxRecDepth 200000 in
theorem wit_ElementBitsOfAPlane_2 : ∃ (m : Image) (i : Nat), (m.fmt.block ≠ 0) :=
  ⟨⟨⟨8, 32, 7, true, true⟩, [5], [130]⟩, 0, by decide⟩

set_option maxRecDepth 200000 in
theorem wit_PowerAndDeviceReset_1 : ∃ (s : State), (s.pkg.rails = false) ∧ (s.quiet) :=
  ⟨{ tUp with pkg := { tUp.pkg with rails := false } }, by decide, by decide⟩

set_option maxRecDepth 200000 in
theorem wit_PowerAndDeviceReset_2 : ∃ (s : State), (s.Powered) ∧ (s.settled = true) ∧ (s.codex.queue = []) ∧ (s.codex.handed = []) ∧ (s.codex.first.length < 4096) :=
  ⟨tUp, by decide, by decide, by decide, by decide, by decide⟩

set_option maxRecDepth 200000 in
theorem wit_PowerAndDeviceReset_3 : ∃ (s : State), (s.Powered) :=
  ⟨tUp, by decide⟩

set_option maxRecDepth 200000 in
theorem wit_PowerAndDeviceReset_4 : ∃ (s : State) (v : W64), (s.Powered) ∧ (s.pkg.refclk = true) ∧ (s.pkg.inReset = false) ∧ (s.pkg.testMode = false) ∧ (fld v 0 8 = 0xD5) ∧ (bitAt v 8 = true) :=
  ⟨tUp, 0x1D5, by decide, by decide, by decide, by decide, by decide, by decide⟩

set_option maxRecDepth 200000 in
theorem wit_PowerAndDeviceReset_5 : ∃ (s : State) (v : W64), (s.quiet ∧ s.calm) ∧ (fld v 0 8 ≠ 0xD5 ∨ bitAt v 8 = false) :=
  ⟨tUp, 0x1D4, by decide, by decide⟩

set_option maxRecDepth 200000 in
theorem wit_PowerAndDeviceReset_6 : ∃ (s : State) (mgmtMode : Bool) (addrSel : BitVec 2) (testMode : Bool), (s.Powered) ∧ (s.pkg.refclk = true) ∧ (s.pkg.inReset = true) ∧ (s.pkg.perstReset = false) :=
  ⟨{ tUp with pkg := { tUp.pkg with inReset := true } }, true, 1, false, by decide, by decide, by decide, by decide⟩

set_option maxRecDepth 200000 in
theorem wit_FatalSources_1 : ∃ (s : State) (stack : Nat), (s.FatalReady) ∧ (wfStack stack = true) :=
  ⟨tUp, 0, by decide, by decide⟩

set_option maxRecDepth 200000 in
theorem wit_FatalSources_2 : ∃ (s : State) (stack : Nat), (wfStack stack = false) :=
  ⟨tUp, 9, by decide⟩

set_option maxRecDepth 200000 in
theorem wit_FatalSources_3 : ∃ (s : State), (s.FatalReady) :=
  ⟨tUp, by decide⟩

set_option maxRecDepth 200000 in
theorem wit_FatalSources_4 : ∃ (s : State), (s.FatalReady) :=
  ⟨tUp, by decide⟩

set_option maxRecDepth 200000 in
theorem wit_FatalSources_5 : ∃ (s : State) (src : Source), (s.FatalReady) ∧ (wfSource src = true) :=
  ⟨tUp, 0x30, by decide, by decide⟩

set_option maxRecDepth 200000 in
theorem wit_FatalSources_6 : ∃ (s : State), (s.FatalReady) :=
  ⟨tUp, by decide⟩

set_option maxRecDepth 200000 in
theorem wit_FatalSources_7 : ∃ (s : State), (s.FatalReady) :=
  ⟨tUp, by decide⟩

set_option maxRecDepth 200000 in
theorem wit_FatalSources_8 : ∃ (s : State), (s.Ready) :=
  ⟨tUp, by decide⟩

set_option maxRecDepth 200000 in
theorem wit_InitialisationSteps_1 : ∃ (s : State), (s.Ready) ∧ (s.glb.fwRunning = false) :=
  ⟨{ tUp with glb := { tUp.glb with fwRunning := false } }, by decide, by decide⟩

set_option maxRecDepth 200000 in
theorem wit_InitialisationSteps_2 : ∃ (s : State), (s.Ready) ∧ (s.glb.bridgeUp = true) ∧ (s.glb.fwRunning = false) :=
  ⟨{ tUp with glb := { tUp.glb with fwRunning := false } }, by decide, by decide, by decide⟩

set_option maxRecDepth 200000 in
theorem wit_InitialisationSteps_3 : ∃ (s : State) (g : Nat), (s.Ready) ∧ (wfGranule g = true) ∧ (s.glb.hbmReady = true) ∧ (s.glb.filled.contains g = false) ∧ (fillOrder g ≤ fillDone s) :=
  ⟨tUp, 6, by decide, by decide, by decide, by decide, by decide⟩

set_option maxRecDepth 200000 in
theorem wit_InitialisationSteps_4 : ∃ (s : State) (first : Bool), (s.Ready) ∧ (s.glb.fwRunning = false) ∧ (s.glb.recovery = false) :=
  ⟨{ State.reset with pkg := State.reset.pkg }, true, by decide, by decide, by decide⟩

set_option maxRecDepth 200000 in
theorem wit_FirmwareRestartKeepsTheDataPath_1 : ∃ (s : State), (s.Ready) ∧ (fwAlive s = true) ∧ (s.sec.staging = none) ∧ ((restartWindow s.fw.restarts s.now).length < 3) :=
  ⟨tUp, by decide, by decide, by decide, by decide⟩

set_option maxRecDepth 200000 in
theorem wit_FirmwareRestartKeepsTheDataPath_2 : ∃ (s : State), (s.Ready) ∧ (fwAlive s = true) ∧ (s.sec.staging = none) ∧ (3 ≤ (restartWindow s.fw.restarts s.now).length) :=
  ⟨{ tUp with fw := { tUp.fw with restarts := [0, 0] } }, by decide, by decide, by decide, by decide⟩

set_option maxRecDepth 200000 in
theorem wit_FirmwareRestartKeepsTheDataPath_3 : ∃ (s : State) (c : Nat), (s.Ready) ∧ (s.fw.restarting = some c) :=
  ⟨{ tUp with fw := { tUp.fw with restarting := some 0 } }, 0, by decide, by decide⟩

set_option maxRecDepth 200000 in
theorem wit_ErrorReportsAndPins_1 : ∃ (s : State) (dieT hbmT : Int), (s.Powered) :=
  ⟨tUp, 100, 20, by decide⟩

set_option maxRecDepth 200000 in
theorem wit_ErrorReportsAndPins_2 : ∃ (s : State), (s.Powered) ∧ (s.pkg.alertN = true) ∧ (s.pkg.inReset = false) :=
  ⟨{ tUp with pkg := { tUp.pkg with alertN := true } }, by decide, by decide, by decide⟩

set_option maxRecDepth 200000 in
theorem wit_ErrorReportsAndPins_3 : ∃ (s : State) (line : Option Nat), (s.Ready) ∧ (∀ l, line = some l → wfLine l = true) :=
  ⟨tUp, none, by decide, by simp⟩

set_option maxRecDepth 200000 in
theorem wit_ErrorReportsAndPins_4 : ∃ (s : State) (line : Option Nat) (fresh : Bool) (count : Nat), (s.Ready) ∧ (∀ l, line = some l → wfLine l = true) ∧ (fresh = (match s.glb.bridgeWin with | some g => decide (g + 16000000 ≤ s.now) | none => true)) ∧ (count = (if fresh then 1 else s.glb.bridgeCount + 1)) ∧ (count < max 1 (fld s.glb.errCfg 8 8)) :=
  ⟨{ tUp with glb := { tUp.glb with bridgeWin := some 0, errCfg := 0x1000 } }, some 5, false, 1, by decide, by simp [wfLine], by decide, by decide, by decide⟩

set_option maxRecDepth 200000 in
theorem wit_ErrorReportsAndPins_5 : ∃ (s : State) (line : Option Nat) (fresh : Bool) (count : Nat), (s.Ready) ∧ (∀ l, line = some l → wfLine l = true) ∧ (fresh = (match s.glb.bridgeWin with | some g => decide (g + 16000000 ≤ s.now) | none => true)) ∧ (count = (if fresh then 1 else s.glb.bridgeCount + 1)) ∧ (max 1 (fld s.glb.errCfg 8 8) ≤ count) :=
  ⟨{ tUp with glb := { tUp.glb with errCfg := 0x100 } }, none, true, 1, by decide, by simp, by decide, by decide, by decide⟩

set_option maxRecDepth 200000 in
theorem wit_ErrorReportsAndPins_6 : ∃ (s : State) (code obj : Nat), (s.Ready) ∧ (1 ≤ code ∧ code ≤ 11) :=
  ⟨tUp, 4, 3, by decide, by decide⟩

set_option maxRecDepth 200000 in
theorem wit_ErrorReportsAndPins_7 : ∃ (s : State) (code obj : Nat), (s.Ready) ∧ (s.Still) ∧ (code = 2 ∨ code = 6) :=
  ⟨tUp, 2, 3, by decide, by decide, Or.inl rfl⟩

set_option maxRecDepth 200000 in
theorem wit_ErrorReportsAndPins_8 : ∃ (s : State) (code obj : Nat), (code = 0 ∨ 11 < code) :=
  ⟨tUp, 0, 0, Or.inl rfl⟩

set_option maxRecDepth 200000 in
theorem wit_FolioSizeAndPps_1 : ∃ (s : State) (v : W64), (s.BarReady) ∧ (fld v 0 2 = fld s.time.cfg 0 2) :=
  ⟨tUp, tUp.time.cfg, by decide, by decide⟩

set_option maxRecDepth 200000 in
theorem wit_FolioSizeAndPps_2 : ∃ (s : State) (v : W64), (s.BarReady) ∧ (fld v 0 2 ≠ fld s.time.cfg 0 2) ∧ (fld v 0 2 = 3 ∨ allDark s = false ∨ anyRing s = true) :=
  ⟨tUp, 3, by decide, by decide, by decide⟩

set_option maxRecDepth 200000 in
theorem wit_FolioSizeAndPps_3 : ∃ (s : State) (v : W64), (s.BarReady) ∧ (fld v 0 2 ≠ fld s.time.cfg 0 2) ∧ (fld v 0 2 ≠ 3) ∧ (allDark s = true) ∧ (anyRing s = false) :=
  ⟨tUp, 2, by decide, by decide, by decide, by decide, by decide⟩

set_option maxRecDepth 200000 in
theorem wit_FolioSizeAndPps_4 : ∃ (s : State) (c : Nat) (g : Gtc), (s.Ready) ∧ (s.time.fsNext = some (c, g)) ∧ (g ≤ s.now) :=
  ⟨{ tUp with time := { tUp.time with gtc := 98310, fsNext := some (2, 98304) } }, 2, 98304, by decide, by decide, by decide⟩

set_option maxRecDepth 200000 in
theorem wit_FolioSizeAndPps_5 : ∃ (s : State) (c : Nat) (g : Gtc), (s.running = true) ∧ (s.time.fsNext = some (c, g)) ∧ (s.now < g) ∧ (g ≤ s.nextTickAt) ∧ ((s.goTo s.lastCycle).time.fsNext = some (c, g)) ∧ ((s.goTo s.lastCycle).now < g) :=
  ⟨{ tUp with time := { tUp.time with gtc := 98300, tick := 1, fsNext := some (2, 98304) } }, 2, 98304, by decide, by decide, by decide, by decide, by decide, by decide⟩

set_option maxRecDepth 200000 in
theorem wit_FolioSizeAndPps_6 : ∃ (s : State) (g : Gtc), (s.running = true) ∧ (ppsRiseAt s = some g) ∧ (g ≤ s.now ∨ cyclesTo s.time g < cyclesTo s.time s.nextTickAt) :=
  ⟨{ tUp with time := { tUp.time with cfg := 0x80000, gtc := 15999999980, gtcMem := 15999999980, tick := 651041 } }, 16000000000, by decide, by decide, by decide⟩

set_option maxRecDepth 200000 in
theorem wit_FolioSizeAndPps_7 : ∃ (s : State), (bitAt s.time.cfg 19 = true) :=
  ⟨{ tUp with time := { tUp.time with cfg := 0x80000 } }, by decide⟩

set_option maxRecDepth 200000 in
theorem wit_FolioSizeAndPps_8 : ∃ (s : State) (g : Gtc), (s.running = true) ∧ (s.pkg.ppsHigh = some g) ∧ (g ≤ s.now ∨ cyclesTo s.time g < cyclesTo s.time s.nextTickAt) :=
  ⟨{ tUp with pkg := { tUp.pkg with ppsHigh := some 5 } }, 5, by decide, by decide, by decide⟩

set_option maxRecDepth 200000 in
theorem wit_TimeReference_1 : ∃ (s : State) (sec : Nat) (g : Gtc), (s.Ready) ∧ (s.time.isRoot = true) ∧ (s.time.traceable = true) ∧ (s.time.acquired = false) ∧ (refValid s = true) ∧ (refGtc s sec = some g) ∧ (noneActive s = true) ∧ (anyRing s = false) :=
  ⟨{ tUp with time := { tUp.time with isRoot := true, traceable := true, acquired := false, cfg := 0x20000, epochSeconds := 0 } }, 5, 80000000000, by decide, by decide, by decide, by decide, by decide, by decide, by decide, by decide⟩

set_option maxRecDepth 200000 in
theorem wit_TimeReference_2 : ∃ (s : State) (sec : Nat) (g : Gtc), (s.Ready) ∧ (s.time.isRoot = true) ∧ (s.time.traceable = true) ∧ (s.time.acquired = false) ∧ (refValid s = true) ∧ (refGtc s sec = some g) ∧ (noneActive s = false ∨ anyRing s = true) ∧ ((g : Int) - s.now < s.F) :=
  ⟨{ tUp with time := { tUp.time with isRoot := true, traceable := true, acquired := false, cfg := 0x20000, epochSeconds := 0 }, mgrCfg := 0x14 }, 0, 0, by decide, by decide, by decide, by decide, by decide, by decide, by decide, by decide⟩

set_option maxRecDepth 200000 in
theorem wit_TimeReference_3 : ∃ (s : State) (sec : Nat), (s.Ready) ∧ (s.time.isRoot = true) ∧ (s.time.traceable = true) ∧ (s.time.acquired = false) ∧ (refValid s = true) ∧ (refGtc s sec = none) :=
  ⟨{ tUp with time := { tUp.time with isRoot := true, traceable := true, acquired := false, cfg := 0x20000, epochSeconds := 9 } }, 0, by decide, by decide, by decide, by decide, by decide, by decide⟩

set_option maxRecDepth 200000 in
theorem wit_TimeReference_4 : ∃ (s : State) (sec : Nat), (s.Ready) ∧ (s.time.isRoot = true) ∧ (s.time.traceable = false) ∧ (s.time.acquired = false) ∧ (refValid s = true) :=
  ⟨{ tUp with time := { tUp.time with isRoot := true, cfg := 0x20000 } }, 0, by decide, by decide, by decide, by decide, by decide⟩

set_option maxRecDepth 200000 in
theorem wit_TimeReference_5 : ∃ (s : State) (sec : Nat), (s.Ready) ∧ (s.time.isRoot = false ∨ s.time.acquired = true ∨ refValid s = false) :=
  ⟨tUp, 0, by decide, by decide⟩

set_option maxRecDepth 200000 in
theorem wit_TimeReference_6 : ∃ (s : State) (cause : RefLossCause) (n : Nat), (s.Ready) ∧ (lossCause s cause = some n) ∧ (s.time.isRoot = true) ∧ (s.time.holdover = false ∨ s.time.restartHold = true) :=
  ⟨{ tUp with time := { tUp.time with isRoot := true, cfg := 0x10000 } }, .ppsMissed, 0, by decide, by decide, by decide, by decide⟩

set_option maxRecDepth 200000 in
theorem wit_TimeReference_7 : ∃ (s : State) (cause : RefLossCause), (s.Ready) ∧ (lossCause s cause = none ∨ s.time.isRoot = false ∨ (s.time.holdover = true ∧ s.time.restartHold = false)) :=
  ⟨tUp, .tenMhzLost, by decide, by decide⟩

set_option maxRecDepth 200000 in
theorem wit_TimeReference_8 : ∃ (s : State) (sec : Nat) (g : Gtc), (s.Ready) ∧ (s.time.isRoot = true) ∧ (s.time.holdover = true) ∧ (s.time.restartHold = false) ∧ (refSelect s ≠ 0) ∧ (s.time.traceable = true) ∧ (refGtc s sec = some g) :=
  ⟨{ tUp with time := { tUp.time with isRoot := true, traceable := true, holdover := true, cfg := 0x10000, epochSeconds := 0 } }, 0, 0, by decide, by decide, by decide, by decide, by decide, by decide, by decide⟩

set_option maxRecDepth 200000 in
theorem wit_TimeReference_9 : ∃ (s : State), (s.Ready) ∧ (s.time.isRoot = false ∨ s.time.acquired = false) :=
  ⟨tUp, by decide, by decide⟩

set_option maxRecDepth 200000 in
theorem wit_TimeReference_10 : ∃ (s u : State), (s.Ready) ∧ (u = { s with time := { s.time with ppsEdges := (s.now :: s.time.ppsEdges).take 2 } }) ∧ (s.time.isRoot = true) ∧ (s.time.acquired = true) ∧ (s.time.holdover = false) ∧ (s.time.loadDue = false) ∧ (refSelect s = 1) :=
  ⟨{ tUp with time := { tUp.time with isRoot := true, acquired := true, cfg := 0x10000 } }, { tUp with time := { tUp.time with isRoot := true, acquired := true, cfg := 0x10000, ppsEdges := [0] } }, by decide, by decide, by decide, by decide, by decide, by decide, by decide⟩

set_option maxRecDepth 200000 in
theorem wit_TimeReference_11 : ∃ (s : State) (d : Line), (s.MgrReady) ∧ (s.time.isRoot = true) ∧ (setBusy s = false) ∧ (s.time.step = none) ∧ (0 < dfld d 24 0 21) ∧ (dfld d 24 0 21 ≤ 2 ^ 20) ∧ (s.folio + 8 ≤ dfld d 16 0 64) ∧ ((3, dfld d 24 0 21, dfld d 16 0 64) ∉ s.lat.seen) :=
  ⟨{ tUp with time := { tUp.time with isRoot := true } }, setFld (setFld 0 128 64 20) 192 21 3, by decide, by decide, by decide, by decide, by decide, by decide, by decide, by decide⟩

set_option maxRecDepth 200000 in
theorem wit_TimeReference_12 : ∃ (s : State) (port n ks : Nat), (s.Ready) ∧ (wfLat port = true) ∧ (s.time.step = none) ∧ (s.folio < ks) ∧ ((3, n, ks) ∉ s.lat.seen) :=
  ⟨tLat, 0, 3, 5, by decide, by decide, by decide, by decide, by decide⟩

set_option maxRecDepth 200000 in
theorem wit_TimeReference_13 : ∃ (s : State) (port n ks : Nat), (s.Ready) ∧ (wfLat port = true) ∧ ((3, n, ks) ∈ s.lat.seen) :=
  ⟨{ tLat with lat := { tLat.lat with seen := [(3, 3, 5)] } }, 0, 3, 5, by decide, by decide, by decide⟩

set_option maxRecDepth 200000 in
theorem wit_RootFailoverChoosesAfresh_1 : ∃ (s u : State), (s.running = true) ∧ (s.time.isRoot = false) ∧ (s.time.rootPri ≠ 255) ∧ (s.time.rootHeard + 2 ≤ s.folio) ∧ (u = { s with lports := s.lports.map (fun x => { x with far := x.far.map fun f => if f.rootIdx = s.time.rootIdx then { f with rootPri := 255 } else f }), time := { s.time with rootHeard := s.time.tick } }) :=
  ⟨{ tUp with time := { tUp.time with rootPri := 7, tick := 5 } }, { tUp with time := { tUp.time with rootPri := 7, tick := 5, rootHeard := 5 } }, by decide, by decide, by decide, by decide, by decide⟩

set_option maxRecDepth 200000 in
theorem wit_RootFailoverChoosesAfresh_2 : ∃ (s : State), (s.Ready) ∧ (s.time.isRoot = false) ∧ (s.folio < s.time.rootHeard + 2) :=
  ⟨{ tUp with time := { tUp.time with rootPri := 7 } }, by decide, by decide, by decide⟩

set_option maxRecDepth 200000 in
theorem wit_FolioTickOrder_1 : ∃ (s : State) (inp : TickInputs), (s.running = true) ∧ (wfInputs inp = true) :=
  ⟨tUp, ⟨[], [], [], [], [], []⟩, by decide, by decide⟩

set_option maxRecDepth 200000 in
theorem wit_FolioTickOrder_2 : ∃ (s : State) (inp : TickInputs), (wfInputs inp = false) :=
  ⟨tUp, ⟨[(99, 0)], [], [], [], [], []⟩, by decide⟩

set_option maxRecDepth 200000 in
theorem wit_FolioTickOrder_3 : ∃ (s u : State), (u = cycleEnd (collEnd (engineEnd (closeDue (s.goTo s.lastCycle))))) ∧ (u.time.fsNext = none) :=
  ⟨tUp, cycleEnd (collEnd (engineEnd (closeDue (tUp.goTo tUp.lastCycle)))), rfl, by decide⟩

set_option maxRecDepth 200000 in
theorem wit_Doorbells_1 : ∃ (s : State) (fn num index : Nat) (ref : RingRef) (r : Ring), (s.BarReady) ∧ ((wfFn fn && wfBell num && wfIndex index) = true) ∧ (fn = 0 ∨ (getFn s fn).state = .enabled) ∧ (ringByBell s fn num = some ref) ∧ (getRing s ref = some r) ∧ (r.enabled = true) ∧ (sub32 index r.pDev < 2 ^ 31) ∧ (sub32 index r.cDev ≤ 2 ^ r.log2) :=
  ⟨{ tUp with mgrSq := { tUp.mgrSq with enabled := true } }, 0, 2, 3, .mgrSq, { tUp.mgrSq with enabled := true }, by decide, by decide, by decide, by decide, by decide, by decide, by decide, by decide⟩

set_option maxRecDepth 200000 in
theorem wit_Doorbells_2 : ∃ (s : State) (fn num index : Nat) (arm : Bool) (ref : RingRef) (q : CqRing), (s.BarReady) ∧ ((wfFn fn && wfBell num && wfIndex index) = true) ∧ (fn = 0 ∨ (getFn s fn).state = .enabled) ∧ (ringByBell s fn num = some ref) ∧ (getRing s ref = none) ∧ (getCq s ref = some q) ∧ (bellOpen s ref = true) ∧ (q.held = []) ∧ (sub32 index q.cIdx < 2 ^ 31) ∧ (sub32 index q.cIdx ≤ sub32 q.pIdx q.cIdx) :=
  ⟨{ tUp with mgrCq := { tUp.mgrCq with pIdx := 5 }, mgrSq := { tUp.mgrSq with enabled := true } }, 0, 3, 4, true, .mgrCq, { tUp.mgrCq with pIdx := 5 }, by decide, by decide, by decide, by decide, by decide, by decide, by decide, by decide, by decide, by decide⟩

set_option maxRecDepth 200000 in
theorem wit_Doorbells_3 : ∃ (s : State) (fn num index kind : Nat), (s.BarReady) ∧ ((wfFn fn && wfBell num && wfIndex index) = true) ∧ (ringByBell s fn num = none) :=
  ⟨tUp, 0, 77, 0, 0, by decide, by decide, by decide⟩

set_option maxRecDepth 200000 in
theorem wit_Doorbells_4 : ∃ (s : State) (fn num index : Nat), ((wfFn fn && wfBell num && wfIndex index) = false) :=
  ⟨tUp, 600, 0, 0, by decide⟩

set_option maxRecDepth 200000 in
theorem wit_DescriptorFetch_1 : ∃ (s : State) (ring : RingRef) (d : Line) (poison : Bool) (r : Ring) (a : Access) (w v u : State), (s.Ready) ∧ (fetchNext s ring = some a) ∧ (a.dropped = false) ∧ (w = dropAccess (if a.place = .host then bwBytes (modCxl s fun c => { c with reads := c.reads.filter fun x => x.2.access ≠ a.id }) 28 false 64 else s) a.id) ∧ (getRing w ring = some r) ∧ (r.enabled = true) ∧ (canFetch w ring r = true) ∧ ((fetchedData s a d poison).2 = false) ∧ (dLap (fetchedData s a d poison).1 = ((r.cDev >>> r.log2) + 1) % 65536) ∧ (v = modRing (dropFetches w ring) ring fun r => { r with window := none, refetches := 0, lastPoison := false }) ∧ (pairWaits v r (fetchedData s a d poison).1 = false) ∧ (∀ qp, ring = .sq qp ∨ ring = .rq qp → (getQp v qp).map (·.state) ≠ some .error) ∧ (u = modRing v ring fun r => { r with cDev := (r.cDev + 1) % 2 ^ 32 }) ∧ (opcodeOk u ring (pairOpen r) (fetchedData s a d poison).1 = true) :=
  ⟨{ tUp with mgrSq := { tUp.mgrSq with enabled := true, pDev := 2, place := .hbm }, xl := { tUp.xl with accesses := [{ tNearAcc with who := .fetch .mgrSq }] } }, .mgrSq, setFld (setFld 0 0 8 0x9C) 128 7 64 ||| 0x10000, false, { tUp.mgrSq with enabled := true, pDev := 2, place := .hbm }, { tNearAcc with who := .fetch .mgrSq }, { tUp with mgrSq := { tUp.mgrSq with enabled := true, pDev := 2, place := .hbm } }, { tUp with mgrSq := { tUp.mgrSq with enabled := true, pDev := 2, place := .hbm } }, { tUp with mgrSq := { tUp.mgrSq with enabled := true, pDev := 2, cDev := 1, place := .hbm } }, by decide, by decide, by decide, by decide, by decide, by decide, by decide, by decide, by decide, by decide, by decide, by simp, by decide, by decide⟩

set_option maxRecDepth 200000 in
theorem wit_DescriptorFetch_2 : ∃ (s : State) (ring : RingRef) (d : Line) (poison : Bool) (r : Ring) (a : Access) (w : State), (s.Ready) ∧ (fetchNext s ring = some a) ∧ (a.dropped = false) ∧ (w = dropAccess (if a.place = .host then bwBytes (modCxl s fun c => { c with reads := c.reads.filter fun x => x.2.access ≠ a.id }) 28 false 64 else s) a.id) ∧ (getRing w ring = some r) ∧ (r.enabled = true) ∧ (canFetch w ring r = true) ∧ ((fetchedData s a d poison).2 = true ∨ dLap (fetchedData s a d poison).1 ≠ ((r.cDev >>> r.log2) + 1) % 65536) :=
  ⟨{ tUp with mgrSq := { tUp.mgrSq with enabled := true, pDev := 2, place := .hbm }, xl := { tUp.xl with accesses := [{ tNearAcc with who := .fetch .mgrSq }] } }, .mgrSq, 0, false, { tUp.mgrSq with enabled := true, pDev := 2, place := .hbm }, { tNearAcc with who := .fetch .mgrSq }, { tUp with mgrSq := { tUp.mgrSq with enabled := true, pDev := 2, place := .hbm } }, by decide, by decide, by decide, by decide, by decide, by decide, by decide, by decide⟩

set_option maxRecDepth 200000 in
theorem wit_DescriptorFetch_3 : ∃ (s : State) (ring : RingRef) (d : Line) (poison : Bool) (a : Access), (s.Ready) ∧ (fetchNext s ring = some a) ∧ (a.dropped = true) :=
  ⟨{ tUp with mgrSq := { tUp.mgrSq with enabled := true, pDev := 2, place := .hbm }, xl := { tUp.xl with accesses := [{ tNearAcc with who := .fetch .mgrSq, dropped := true }] } }, .mgrSq, 0, false, { tNearAcc with who := .fetch .mgrSq, dropped := true }, by decide, by decide, by decide⟩

set_option maxRecDepth 200000 in
theorem wit_DescriptorFetch_4 : ∃ (s : State) (ring : RingRef) (d : Line) (poison : Bool), (s.Ready) ∧ (fetchNext s ring = none) :=
  ⟨tUp, .mgrSq, 0, false, by decide, by decide⟩

set_option maxRecDepth 200000 in
theorem wit_DescriptorFetch_5 : ∃ (s : State) (ring : RingRef) (r : Ring) (o : Gtc), (s.running = true) ∧ (getRing s ring = some r) ∧ (r.window = some o) ∧ (r.refetches < 8) ∧ (s.Reaches (o + 3840 * (r.refetches + 1))) :=
  ⟨{ tUp with mgrSq := { tUp.mgrSq with enabled := true, window := some 0 } }, .mgrSq, { tUp.mgrSq with enabled := true, window := some 0 }, 0, by decide, by decide, by decide, by decide, by decide⟩

set_option maxRecDepth 200000 in
theorem wit_DescriptorFetch_6 : ∃ (s : State) (ring : RingRef) (r : Ring), (getRing s ring = some r) :=
  ⟨tUp, .mgrSq, tUp.mgrSq, by decide⟩

set_option maxRecDepth 200000 in
theorem wit_DescriptorFetch_7 : ∃ (s : State) (ring : RingRef) (r : Ring) (o : Gtc) (q : Ring) (u : State), (s.running = true) ∧ (getRing s ring = some r) ∧ (r.window = some o) ∧ (s.Reaches (o + 32000)) ∧ (getRing (s.goTo (o + 32000)) ring = some q) ∧ (q.lastPoison = false) ∧ (u = modRing (modRing (dropFetches (s.goTo (o + 32000)) ring) ring fun r => { r with window := none, refetches := 0, lastPoison := false }) ring fun r => { r with stopped := true }) :=
  ⟨{ tUp with mgrSq := { tUp.mgrSq with enabled := true, window := some 0 }, time := { tUp.time with gtc := 32000, gtcMem := 32000 } }, .mgrSq, { tUp.mgrSq with enabled := true, window := some 0 }, 0, { tUp.mgrSq with enabled := true, window := some 0 }, { tUp with mgrSq := { tUp.mgrSq with enabled := true, stopped := true }, time := { tUp.time with gtc := 32000, gtcMem := 32000 } }, by decide, by decide, by decide, by decide, by decide, by decide, by decide⟩

set_option maxRecDepth 200000 in
theorem wit_ControlRingCommands_1 : ∃ (s : State) (fn : Nat) (d : Line), (s.Ready) ∧ (wfFn fn = true) ∧ (createReason (takeHanded s (.ctlSq fn) d) fn d = 0) :=
  ⟨{ tUp with xl := { tUp.xl with ctxs := [(0, ⟨64, 0, 0, false, 10, [(0, ⟨1, true, false, false, false, 0x10000, 0x100000, 0x40100000, none, none⟩)]⟩)] } }, 0, setFld (setFld (setFld (setFld 0 0 8 0x40) 128 57 0x50000) 192 8 0x44) 208 16 8, by decide, by decide, by decide⟩

set_option maxRecDepth 200000 in
theorem wit_ControlRingCommands_2 : ∃ (s : State) (fn : Nat) (d : Line), (s.Ready) ∧ (wfFn fn = true) ∧ (createReason (takeHanded s (.ctlSq fn) d) fn d ≠ 0) :=
  ⟨tUp, 0, 0, by decide, by decide, by decide⟩

set_option maxRecDepth 200000 in
theorem wit_ControlRingCommands_3 : ∃ (s : State) (fn : Nat) (d : Line) (ref : RingRef), (s.Ready) ∧ (wfFn fn = true) ∧ (rcRef fn d = some ref) ∧ (refPresent (takeHanded s (.ctlSq fn) d) fn ref = true) ∧ ((rcKind d = 2 && cqBound (takeHanded s (.ctlSq fn) d) fn (rcObject d)) = false) :=
  ⟨{ tUp with cqs := [(0, [CqRing.none_ 0 5 false])] }, 0, setFld (setFld 0 192 8 0x44) 224 20 5, .cq 0 5, by decide, by decide, by decide, by decide, by decide⟩

set_option maxRecDepth 200000 in
theorem wit_ControlRingCommands_4 : ∃ (s : State) (ring : RingRef), (s.Ready) ∧ (destroyCmd s ring ≠ []) ∧ (ringQuiet s ring = true) :=
  ⟨{ tUp with cqs := [(0, [{ CqRing.none_ 0 5 false with destroy := [0] }])] }, .cq 0 5, by decide, by decide, by decide⟩

set_option maxRecDepth 200000 in
theorem wit_ControlRingCommands_5 : ∃ (s : State) (fn : Nat) (d : Line) (ref : RingRef), (s.Ready) ∧ (wfFn fn = true) ∧ (rcRef fn d = some ref) ∧ (refPresent (takeHanded s (.ctlSq fn) d) fn ref = true) ∧ (fnUp s fn = true) :=
  ⟨{ tUp with cqs := [(0, [CqRing.none_ 0 5 false])] }, 0, setFld (setFld 0 192 8 0x44) 224 20 5, .cq 0 5, by decide, by decide, by decide, by decide, by decide⟩

set_option maxRecDepth 200000 in
theorem wit_RingLocators_1 : ∃ (s : State) (v : W64), (s.BarReady) :=
  ⟨tUp, 4, by decide⟩

set_option maxRecDepth 200000 in
theorem wit_RingLocators_2 : ∃ (s : State) (fn : Nat) (v : W64), (s.BarReady) ∧ (wfFn fn = true) ∧ (fn = 0 ∨ (getFn s fn).state = .enabled) :=
  ⟨tUp, 0, 4, by decide, by decide, by decide⟩

set_option maxRecDepth 200000 in
theorem wit_RingLocators_3 : ∃ (s : State) (v : W64), (s.BarReady) ∧ (mgrRefused (if bitAt v 19 then { s with mgrErr := false } else s) v = false) ∧ (s.mgrSq.cDev = s.mgrSq.pDev) :=
  ⟨{ tUp with mgrBase := 0x40000000 }, 4, by decide, by decide, by decide⟩

set_option maxRecDepth 200000 in
theorem wit_RingLocators_4 : ∃ (s : State) (v : W64), (s.BarReady) ∧ (mgrRefused (if bitAt v 19 then { s with mgrErr := false } else s) v = true) :=
  ⟨tUp, 0, by decide, by decide⟩

set_option maxRecDepth 200000 in
theorem wit_RingLocators_5 : ∃ (s : State) (fn : Nat) (v : W64), (s.BarReady) ∧ (wfFn fn = true) ∧ (fn = 0 ∨ (getFn s fn).state = .enabled) ∧ ((getFn s fn).ctlSq.cDev = (getFn s fn).ctlSq.pDev) ∧ (ctlRefused s fn v = false) ∧ (bitAt v 19 = false) :=
  ⟨tUp, 0, 4, by decide, by decide, by decide, by decide, by decide, by decide⟩

set_option maxRecDepth 200000 in
theorem wit_RingLocators_6 : ∃ (s : State) (v : W64), (s.BarReady) ∧ (journalCap { s with journal := { s.journal with cfg := BitVec.ofNat 64 (fld v 0 5 + (if bitAt v 5 && 10 ≤ fld v 0 5 && fld v 0 5 ≤ 20 then 32 else 0)) } } = 0) ∧ (s.journal.held = []) :=
  ⟨{ tUp with journal := { tUp.journal with writes := 3 } }, 0x40, by decide, by decide, by decide⟩

set_option maxRecDepth 200000 in
theorem wit_RingLocators_7 : ∃ (s : State) (ring : RingRef) (q x : CqRing) (g : Gtc), (s.running = true) ∧ (getCq s ring = some q) ∧ (q.armed = true) ∧ (q.raiseAt = some g) ∧ (s.Reaches g) ∧ (getCq (s.goTo g) ring = some x) :=
  ⟨{ tUp with mgrCq := { tUp.mgrCq with armed := true, raiseAt := some 0 } }, .mgrCq, { tUp.mgrCq with armed := true, raiseAt := some 0 }, { tUp.mgrCq with armed := true, raiseAt := some 0 }, 0, by decide, by decide, by decide, by decide, by decide, by decide⟩

set_option maxRecDepth 200000 in
theorem wit_RingLocators_8 : ∃ (s : State) (ring : RingRef) (q : CqRing) (f : Nat), (s.running = true) ∧ (getCq s ring = some q) ∧ (q.armed = true) ∧ (q.raiseAt = none) ∧ (q.winFolio = some f) ∧ (f + q.modFolios ≤ s.folio) :=
  ⟨{ tUp with mgrCq := { tUp.mgrCq with armed := true, winFolio := some 0 } }, .mgrCq, { tUp.mgrCq with armed := true, winFolio := some 0 }, 0, by decide, by decide, by decide, by decide, by decide, by decide⟩

set_option maxRecDepth 200000 in
theorem wit_RingLocators_9 : ∃ (s : State) (ring : RingRef) (q : CqRing), ((getFn s q.fn).fenced = false) ∧ (q.notify = false) :=
  ⟨tUp, .mgrCq, tUp.mgrCq, by decide, by decide⟩

set_option maxRecDepth 200000 in
theorem wit_WorkDescriptors_1 : ∃ (s u : State) (qp : Nat) (d : Line) (q : Qp) (op : Nat) (c : Instr), (s.Ready) ∧ (s.xl.accesses = []) ∧ (wfQp qp = true) ∧ (uncached s qp = false) ∧ ((op, c) ∈ [(0x00, .nop qp d), (0x01, .send qp d), (0x02, .write qp d), (0x03, .writeTrig qp d), (0x04, .read qp d), (0x05, .rawSend qp d), (0x10, .allreduceSum qp d), (0x11, .allreduceMax qp d), (0x12, .reduceScatter qp d), (0x13, .allgather qp d), (0x14, .broadcast qp d), (0x15, .barrier qp d)]) ∧ (dOpcode d = op) ∧ (getQp (takeHanded s (.sq qp) d) qp = some q) ∧ (q.state = .rts ∨ q.state = .sqd) ∧ (opcodeOk (takeHanded s (.sq qp) d) (.sq qp) false d = true) ∧ (u = modQp (takeHanded s (.sq qp) d) qp fun q => { q with ops := q.ops ++ [SendOp.new q.opNext d none], opNext := q.opNext + 1 }) ∧ (workOk u qp q d = true) :=
  ⟨tRts, modQp tRts 1 fun q => { q with ops := q.ops ++ [SendOp.new q.opNext 0 none], opNext := q.opNext + 1 }, 1, 0, tQp, 0, .nop 1 0, by decide, by decide, by decide, by decide, by decide, by decide, by decide, by decide, by decide, by decide, by decide⟩

set_option maxRecDepth 200000 in
theorem wit_WorkDescriptors_2 : ∃ (s : State) (qp : Nat) (d : Line) (q : Qp) (op : Nat) (c : Instr), (s.Ready) ∧ (wfQp qp = true) ∧ (uncached s qp = false) ∧ ((op, c) ∈ [(0x00, .nop qp d), (0x01, .send qp d), (0x02, .write qp d), (0x03, .writeTrig qp d), (0x04, .read qp d), (0x05, .rawSend qp d), (0x10, .allreduceSum qp d), (0x11, .allreduceMax qp d), (0x12, .reduceScatter qp d), (0x13, .allgather qp d), (0x14, .broadcast qp d), (0x15, .barrier qp d)]) ∧ (dOpcode d = op) ∧ (getQp (takeHanded s (.sq qp) d) qp = some q) ∧ (q.state = .error) :=
  ⟨{ tUp with qps := [(1, { tQp with state := .error })] }, 1, 0, { tQp with state := .error }, 0, .nop 1 0, by decide, by decide, by decide, by decide, by decide, by decide, by decide⟩

set_option maxRecDepth 200000 in
theorem wit_WorkDescriptors_3 : ∃ (s : State) (qp : Nat) (d : Line) (op : Nat) (c : Instr), (s.Ready) ∧ (wfQp qp = true) ∧ (uncached s qp = true) ∧ ((op, c) ∈ [(0x00, .nop qp d), (0x01, .send qp d), (0x02, .write qp d), (0x03, .writeTrig qp d), (0x04, .read qp d), (0x05, .rawSend qp d), (0x10, .allreduceSum qp d), (0x11, .allreduceMax qp d), (0x12, .reduceScatter qp d), (0x13, .allgather qp d), (0x14, .broadcast qp d), (0x15, .barrier qp d)]) ∧ (dOpcode d = op) :=
  ⟨{ tUp with qps := [(1, { tQp with cached := false })] }, 1, 0, 0, .nop 1 0, by decide, by decide, by decide, by decide, by decide⟩

set_option maxRecDepth 200000 in
theorem wit_WorkDescriptors_4 : ∃ (s : State) (qp : Nat) (d : Line) (q : Qp) (c : Instr), (s.Ready) ∧ (s.xl.accesses = []) ∧ (wfQp qp = true) ∧ (uncached s qp = false) ∧ ((dOpcode d = 0x08 ∧ c = .recv qp d) ∨ (dOpcode d = 0x09 ∧ c = .rawRecv qp d)) ∧ (getQp (takeHanded s (.rq qp) d) qp = some q) ∧ (q.state ≠ .error ∧ q.state ≠ .reset) ∧ (opcodeOk (takeHanded s (.rq qp) d) (.rq qp) false d = true) ∧ (localOk (takeHanded s (.rq qp) d) q.fn (dLocalKey d) (dLocalAddr d) (dLength d) true = true) :=
  ⟨{ tRts with regions := [(0, ⟨0, 4096, 0, 0, true, true, true, true, 0, true, none⟩)] }, 1, setFld (setFld 0 0 8 8) 192 32 64, tQp, .recv 1 (setFld (setFld 0 0 8 8) 192 32 64), by decide, by decide, by decide, by decide, Or.inl ⟨by decide, rfl⟩, by decide, by decide, by decide, by decide⟩

set_option maxRecDepth 200000 in
theorem wit_WorkDescriptors_5 : ∃ (s : State) (qp : Nat) (d : Line) (c : Instr), (s.Ready) ∧ (wfQp qp = true) ∧ (uncached s qp = true) ∧ ((dOpcode d = 0x08 ∧ c = .recv qp d) ∨ (dOpcode d = 0x09 ∧ c = .rawRecv qp d)) :=
  ⟨{ tUp with qps := [(1, { tQp with cached := false })] }, 1, setFld 0 0 8 8, .recv 1 (setFld 0 0 8 8), by decide, by decide, by decide, Or.inl ⟨by decide, rfl⟩⟩

set_option maxRecDepth 200000 in
theorem wit_WorkDescriptors_6 : ∃ (s v : State) (qp : Nat) (d work : Line) (q : Qp), (s.Ready) ∧ (wfQp qp = true) ∧ (uncached s qp = false) ∧ (dOpcode d = 0x20) ∧ (v = takeHanded (takeHanded s (.sq qp) d) (.sq qp) work) ∧ (getQp v qp = some q) ∧ (q.state = .rts ∨ q.state = .sqd) ∧ (opcodeOk v (.sq qp) true work = true) ∧ (poolFull v (fnDom v q.fn) = false) ∧ (workOk v qp q work = true) ∧ (countersOk v (qpDom v q) d = true) :=
  ⟨tRts, tRts, 1, setFld (setFld 0 0 8 0x20) 160 32 5, setFld (setFld 0 0 8 1) 11 1 1, tQp, by decide, by decide, by decide, by decide, by decide, by decide, by decide, by decide, by decide, by decide, by decide⟩

set_option maxRecDepth 200000 in
theorem wit_WorkDescriptors_7 : ∃ (s : State) (qp : Nat) (d work : Line), (s.Ready) ∧ (wfQp qp = true) ∧ (uncached s qp = true) ∧ (dOpcode d = 0x20) :=
  ⟨{ tUp with qps := [(1, { tQp with cached := false })] }, 1, setFld 0 0 8 0x20, 0, by decide, by decide, by decide, by decide⟩

set_option maxRecDepth 200000 in
theorem wit_WorkDescriptors_8 : ∃ (s : State), (∀ e, e ∈ s.qps → ∀ p, p ∈ e.2.pairs → 2 ^ 31 ≤ (tget s.trig (dfld p.slot 16 0 16) 0 + 2 ^ 32 - dfld p.slot 20 0 32) % 2 ^ 32) :=
  ⟨{ tUp with qps := [(1, { tQp with pairs := [⟨0, setFld (setFld 0 0 8 0x20) 160 32 5, 0⟩] })] }, by decide⟩

set_option maxRecDepth 200000 in
theorem wit_WorkDescriptors_9 : ∃ (s : State) (qp : Nat) (d work : Line), (wfQp qp = false) :=
  ⟨tUp, 0, 0, 0, by decide⟩

set_option maxRecDepth 200000 in
theorem wit_QueuePairCommands_1 : ∃ (s : State) (d : Line) (dom : Nat) (c : Domain) (n : Nat), (s.MgrReady) ∧ (dfld d 16 0 16 ≤ 512) ∧ (fnDom s (dfld d 16 0 16) = some dom) ∧ (getDom s dom = some c) ∧ (n = freeFrom (fun n => (getQp s n).isSome) s.qps.length (max 1 c.cfg.qpBase)) ∧ (n < min (c.cfg.qpBase + c.cfg.qpCount) (2 ^ 20)) :=
  ⟨tUp, 0, 64, Domain.new tCfg, 1, by decide, by decide, by decide, by decide, by decide, by decide⟩

set_option maxRecDepth 200000 in
theorem wit_QueuePairCommands_2 : ∃ (s : State) (d : Line) (q : Qp), (s.MgrReady) ∧ (getQp s (dfld d 16 0 20) = some q) :=
  ⟨{ tUp with qps := [(1, Qp.new 0)] }, setFld 0 128 20 1, Qp.new 0, by decide, by decide⟩

set_option maxRecDepth 200000 in
theorem wit_QueuePairCommands_3 : ∃ (s : State) (d : Line) (q : Qp), (s.MgrReady) ∧ (getQp s (dfld d 16 0 20) = some q) :=
  ⟨{ tUp with qps := [(1, Qp.new 0)] }, setFld (setFld 0 128 20 1) 148 3 1, Qp.new 0, by decide, by decide⟩

set_option maxRecDepth 200000 in
theorem wit_QueuePairCommands_4 : ∃ (s : State) (qp : Nat) (q : Qp) (d : Line), (s.Ready) ∧ (wfQp qp = true) ∧ (getQp s qp = some q) ∧ (q.sqdWait = some d) ∧ (sqdDrained q = true) :=
  ⟨{ tUp with qps := [(1, { tQp with sqdWait := some 0 })] }, 1, { tQp with sqdWait := some 0 }, 0, by decide, by decide, by decide, by decide, by decide⟩

set_option maxRecDepth 200000 in
theorem wit_QueuePairCommands_5 : ∃ (s : State) (qp : Nat) (q : Qp), (s.Ready) ∧ (wfQp qp = true) ∧ (getQp s qp = some q) ∧ (q.cached = false) ∧ (q.loading.isSome = true) ∧ ((cachedQps s).length < 16384) :=
  ⟨{ tUp with qps := [(1, { tQp with cached := false, loading := some 0, ctxWait := [.work 0] })] }, 1, { tQp with cached := false, loading := some 0, ctxWait := [.work 0] }, by decide, by decide, by decide, by decide, by decide, by decide⟩

set_option maxRecDepth 200000 in
theorem wit_QueuePairCommands_6 : ∃ (s : State) (d : Line) (i : Nat) (r : Region), (s.MgrReady) ∧ (regionOf s (dfld d 16 0 32) = some (i, r)) :=
  ⟨{ tUp with regions := [(0, ⟨0, 4096, 0, 0, true, true, true, true, 0, true, none⟩)] }, 0, 0, ⟨0, 4096, 0, 0, true, true, true, true, 0, true, none⟩, by decide, by decide⟩

set_option maxRecDepth 200000 in
theorem wit_QueuePairCommands_7 : ∃ (s : State) (key : Nat) (r : Region) (d : Line), (s.Ready) ∧ (s.regions.lookup (key / 256) = some r) ∧ (r.valid = false) ∧ (r.gen = key % 256) ∧ (regionHeld s (key / 256) = false) ∧ (r.pinned = false) ∧ (r.waiting = some d) :=
  ⟨{ tUp with regions := [(0, ⟨0, 4096, 0, 0, true, true, true, false, 0, false, some 0⟩)] }, 0, ⟨0, 4096, 0, 0, true, true, true, false, 0, false, some 0⟩, 0, by decide, by decide, by decide, by decide, by decide, by decide, by decide⟩

set_option maxRecDepth 200000 in
theorem wit_QueuePairCommands_8 : ∃ (s : State) (d : Line) (pins : List Pin) (c : Nat) (ctx : Ctx) (dom : Domain) (i : Nat), (s.MgrReady) ∧ (dfld d 32 0 16 ≤ 512) ∧ (fnDom s (dfld d 32 0 16) = some c) ∧ (s.xl.ctxs.lookup (dfld d 34 0 12) = some ctx) ∧ (ctx.dom = c) ∧ (getDom s c = some dom) ∧ (dfld d 16 0 57 % 4096 = 0 ∧ dfld d 24 0 48 % 4096 = 0 ∧ dfld d 24 0 48 ≠ 0) ∧ (ctxCovers s (dfld d 34 0 12) (dfld d 16 0 57) (dfld d 24 0 48) = true) ∧ (i = freeFrom (fun i => (s.regions.lookup i).isSome) s.regions.length dom.cfg.regionBase) ∧ (i < dom.cfg.regionBase + dom.cfg.regionCount ∧ i < 262144) ∧ (dbit d 36 3 = false) :=
  ⟨{ tUp with xl := { tUp.xl with ctxs := [(0, ⟨64, 0, 0, false, 10, [(0, ⟨1, true, false, false, false, 0x10000, 0x100000, 0x40100000, none, none⟩)]⟩)] } }, setFld (setFld 0 128 57 0x10000) 192 48 0x4000, [], 64, ⟨64, 0, 0, false, 10, [(0, ⟨1, true, false, false, false, 0x10000, 0x100000, 0x40100000, none, none⟩)]⟩, Domain.new tCfg, 0, by decide, by decide, by decide, by decide, by decide, by decide, by decide, by decide, by decide, by decide, by decide⟩

set_option maxRecDepth 200000 in
theorem wit_TransportCellArrivals_1 : ∃ (s : State) (via : Via) (cell : Cell) (q : Qp), (s.Ready) ∧ (cType cell = 1) ∧ (s.lets cell) ∧ (uncached s (cQp cell) = false) ∧ (getQp s (cQp cell) = some q) ∧ (qpLive q = true) ∧ (fromPeer s q via cell = true) ∧ (classify q (cSeq cell) = .delivered) :=
  ⟨tRts, .lattice, tCell 1 1 4095 0 0, tQp, by decide, by decide, by decide, by decide, by decide, by decide, by decide, by decide⟩

set_option maxRecDepth 200000 in
theorem wit_TransportCellArrivals_2 : ∃ (s : State) (via : Via) (cell : Cell) (q : Qp) (rs : List Recv), (s.Ready) ∧ (s.xl.accesses = []) ∧ (s.cyc.placed = []) ∧ (cType cell = 1) ∧ (s.lets cell) ∧ (uncached s (cQp cell) = false) ∧ (getQp s (cQp cell) = some q) ∧ (qpLive q = true) ∧ (fromPeer s q via cell = true) ∧ (classify q (cSeq cell) = .pending) ∧ (cSeq cell = nextAdmit q) ∧ (q.discard = none) ∧ (q.stash = []) ∧ (hRetx cell.payload = false) ∧ (admitCheck s q (setFld cell.payload 11 1 0) = .ok rs) :=
  ⟨{ tUp with qps := [(1, { tQp with recvs := [⟨0, 0, 0⟩] })] }, .lattice, tCell 1 1 0 0 (setFld (setFld 0 0 8 1) 14 1 1), { tQp with recvs := [⟨0, 0, 0⟩] }, [⟨0, 0, 0⟩], by decide, by decide, by decide, by decide, by decide, by decide, by decide, by decide, by decide, by decide, by decide, by decide, by decide, by decide, rfl⟩

set_option maxRecDepth 200000 in
theorem wit_TransportCellArrivals_3 : ∃ (s : State) (via : Via) (cell : Cell) (q : Qp), (s.Ready) ∧ (s.xl.accesses = []) ∧ (s.cyc.placed = []) ∧ (cType cell = 2) ∧ (s.lets cell) ∧ (uncached s (cQp cell) = false) ∧ (getQp s (cQp cell) = some q) ∧ (qpLive q = true) ∧ (fromPeer s q via cell = true) ∧ (classify q (cSeq cell) = .delivered) :=
  ⟨tRts, .lattice, tCell 2 1 4095 0 0, tQp, by decide, by decide, by decide, by decide, by decide, by decide, by decide, by decide, by decide, by decide⟩

set_option maxRecDepth 200000 in
theorem wit_TransportCellArrivals_4 : ∃ (s : State) (via : Via) (cell : Cell) (q : Qp), (s.Ready) ∧ (cType cell = 2) ∧ (s.lets cell) ∧ (uncached s (cQp cell) = false) ∧ (getQp s (cQp cell) = some q) ∧ (qpLive q = true) ∧ (fromPeer s q via cell = true) ∧ (classify q (cSeq cell) = .admitted) :=
  ⟨{ tUp with qps := [(1, { tQp with rx := [⟨0, setFld (setFld 0 0 8 1) 32 32 64, [], [⟨0, 0, 0⟩], [], 0, false, false, false, [], false, false⟩] })] }, .lattice, tCell 2 1 0 0 0, { tQp with rx := [⟨0, setFld (setFld 0 0 8 1) 32 32 64, [], [⟨0, 0, 0⟩], [], 0, false, false, false, [], false, false⟩] }, by decide, by decide, by decide, by decide, by decide, by decide, by decide, by decide⟩

set_option maxRecDepth 200000 in
theorem wit_TransportCellArrivals_5 : ∃ (s : State) (via : Via) (cell : Cell) (c : Instr), (s.Ready) ∧ ((cType cell = 1 ∧ c = .headCellArrival via cell) ∨ (cType cell = 2 ∧ c = .dataCellArrival via cell) ∨ (cType cell = 3 ∧ c = .ackCell via cell) ∨ (cType cell = 4 ∧ c = .nakCell via cell) ∨ (cType cell = 5 ∧ c = .snakCell via cell)) ∧ (streamOf s cell = none) ∧ (s.lets cell) ∧ (uncached s (cQp cell) = true) :=
  ⟨{ tUp with qps := [(1, { tQp with cached := false })] }, .lattice, tCell 2 1 0 0 0, .dataCellArrival .lattice (tCell 2 1 0 0 0), by decide, Or.inr (Or.inl ⟨by decide, rfl⟩), by decide, by decide, by decide⟩

set_option maxRecDepth 200000 in
theorem wit_TransportCellArrivals_6 : ∃ (s : State) (via : Via) (cell : Cell) (q : Qp), (s.Ready) ∧ (cType cell = 3) ∧ (s.lets cell) ∧ (streamOf s cell = none) ∧ (uncached s (cQp cell) = false) ∧ (getQp s (cQp cell) = some q) ∧ (qpLive q = true) ∧ (fromPeer s q via cell = true) :=
  ⟨tRts, .lattice, tCell 3 1 0 0 0, tQp, by decide, by decide, by decide, by decide, by decide, by decide, by decide, by decide⟩

set_option maxRecDepth 200000 in
theorem wit_TransportCellArrivals_7 : ∃ (s : State) (via : Via) (cell : Cell) (q : Qp), (s.Ready) ∧ (cType cell = 5) ∧ (s.lets cell) ∧ (streamOf s cell = none) ∧ (uncached s (cQp cell) = false) ∧ (getQp s (cQp cell) = some q) ∧ (qpLive q = true) ∧ (fromPeer s q via cell = true) :=
  ⟨tRts, .lattice, tCell 5 1 0 0 0, tQp, by decide, by decide, by decide, by decide, by decide, by decide, by decide, by decide⟩

set_option maxRecDepth 200000 in
theorem wit_TransportCellArrivals_8 : ∃ (s : State) (via : Via) (cell : Cell) (n : Nat) (q : Qp), (s.Ready) ∧ (s.xl.accesses = []) ∧ (cType cell = 4) ∧ (s.lets cell) ∧ (streamOf s cell = none) ∧ (uncached s (cQp cell) = false) ∧ (nakTarget (takeEjected s via cell) via cell = some n) ∧ (getQp s n = some q) ∧ (dfld cell.payload 0 0 8 = 3) :=
  ⟨tRts, .lattice, tCell 4 1 0 0 3, 1, tQp, by decide, by decide, by decide, by decide, by decide, by decide, by decide, by decide, by decide⟩

set_option maxRecDepth 200000 in
theorem wit_TransportCellArrivals_9 : ∃ (s : State) (via : Via) (cell : Cell) (n : Nat) (q : Qp), (s.Ready) ∧ (s.xl.accesses = []) ∧ (cType cell = 4) ∧ (s.lets cell) ∧ (streamOf s cell = none) ∧ (uncached s (cQp cell) = false) ∧ (nakTarget (takeEjected s via cell) via cell = some n) ∧ (getQp s n = some q) ∧ (dfld cell.payload 0 0 8 = 1) ∧ ((q.tx.any fun t => t.seq = dfld cell.payload 2 0 12 && !t.acked) = true) ∧ (q.round = none) ∧ (q.rnrMax ≠ 7) ∧ (0 < q.rnrLeft) :=
  ⟨{ tUp with qps := [(1, { tQp with rnrLeft := 2, tx := [⟨0, none, 0, 0, [], 0, 0, false, 1, none, 0, false, [], [], []⟩] })] }, .lattice, tCell 4 1 0 0 1, 1, { tQp with rnrLeft := 2, tx := [⟨0, none, 0, 0, [], 0, 0, false, 1, none, 0, false, [], [], []⟩] }, by decide, by decide, by decide, by decide, by decide, by decide, by decide, by decide, by decide, by decide, by decide, by decide, by decide⟩

set_option maxRecDepth 200000 in
theorem wit_TransportCellArrivals_10 : ∃ (s : State) (via : Via) (cell : Cell) (n : Nat) (q : Qp), (s.Ready) ∧ (cType cell = 4) ∧ (s.lets cell) ∧ (streamOf s cell = none) ∧ (uncached s (cQp cell) = false) ∧ (nakTarget (takeEjected s via cell) via cell = some n) ∧ (getQp s n = some q) ∧ (4 ≤ dfld cell.payload 0 0 8 ∧ dfld cell.payload 0 0 8 ≤ 8) :=
  ⟨tRts, .lattice, tCell 4 1 0 0 5, 1, tQp, by decide, by decide, by decide, by decide, by decide, by decide, by decide, by decide⟩

set_option maxRecDepth 200000 in
theorem wit_TransportCellArrivals_11 : ∃ (s : State) (qp seq : Nat) (q : Qp) (r : RxSeg), (s.Ready) ∧ (wfQp qp = true) ∧ (getQp s qp = some q) ∧ (q.state ≠ .error) ∧ ((q.rx.find? fun r => r.seq = seq % 4096) = some r) ∧ (segWhole r = true) ∧ (hSealed r.head = false) :=
  ⟨{ tUp with qps := [(1, { tQp with rx := [⟨0, 0, [], [], [], 0, false, false, false, [], false, false⟩] })] }, 1, 0, { tQp with rx := [⟨0, 0, [], [], [], 0, false, false, false, [], false, false⟩] }, ⟨0, 0, [], [], [], 0, false, false, false, [], false, false⟩, by decide, by decide, by decide, by decide, by decide, by decide, by decide⟩

set_option maxRecDepth 200000 in
theorem wit_TransportTimers_1 : ∃ (s : State) (qp : Nat) (q x : Qp) (o : Gtc) (len : Nat), (s.running = true) ∧ (wfQp qp = true) ∧ (s.col.comms = []) ∧ (getQp s qp = some q) ∧ (q.timer = some (o, len)) ∧ (s.Reaches (o + len)) ∧ (getQp (s.goTo (o + len)) qp = some x) ∧ (x.timer = some (o, len)) ∧ ((x.tx.find? fun t => !t.acked && t.sc.isNone) = none) :=
  ⟨{ tUp with qps := [(1, { tQp with timer := some (0, 0) })] }, 1, { tQp with timer := some (0, 0) }, { tQp with timer := some (0, 0) }, 0, 0, by decide, by decide, by decide, by decide, by decide, by decide, by decide, by decide, by decide⟩

set_option maxRecDepth 200000 in
theorem wit_TransportTimers_2 : ∃ (s : State) (qp : Nat) (q y : Qp) (o : Gtc) (len : Nat) (x : TxSeg), (s.running = true) ∧ (wfQp qp = true) ∧ (s.col.comms = []) ∧ (getQp s qp = some q) ∧ (q.timer = some (o, len)) ∧ (s.Reaches (o + len)) ∧ (getQp (s.goTo (o + len)) qp = some y) ∧ (y.timer = some (o, len)) ∧ ((y.tx.find? fun t => !t.acked && t.sc.isNone) = some x) ∧ (x.next ≠ 0) ∧ (y.retryLeft ≠ 0) :=
  ⟨{ tUp with qps := [(1, { tQp with retryLeft := 1, timer := some (0, 0), tx := [⟨0, none, 0, 0, [], 0, 0, false, 1, none, 0, false, [], [], []⟩] })] }, 1, { tQp with retryLeft := 1, timer := some (0, 0), tx := [⟨0, none, 0, 0, [], 0, 0, false, 1, none, 0, false, [], [], []⟩] }, { tQp with retryLeft := 1, timer := some (0, 0), tx := [⟨0, none, 0, 0, [], 0, 0, false, 1, none, 0, false, [], [], []⟩] }, 0, 0, ⟨0, none, 0, 0, [], 0, 0, false, 1, none, 0, false, [], [], []⟩, by decide, by decide, by decide, by decide, by decide, by decide, by decide, by decide, by decide, by decide, by decide⟩

set_option maxRecDepth 200000 in
theorem wit_TransportTimers_3 : ∃ (s : State) (qp : Nat) (q : Qp) (seq k : Nat), (s.running = true) ∧ (wfQp qp = true) ∧ (s.col.comms = []) ∧ (getQp s qp = some q) ∧ (q.round = some (seq, k)) ∧ (k ≤ s.folio) ∧ (q.paWaits = []) :=
  ⟨{ tUp with qps := [(1, { tQp with round := some (0, 0) })] }, 1, { tQp with round := some (0, 0) }, 0, 0, by decide, by decide, by decide, by decide, by decide, by decide, by decide⟩

set_option maxRecDepth 200000 in
theorem wit_TransportTimers_4 : ∃ (s : State) (qp : Nat) (q : Qp) (k : Nat), (s.running = true) ∧ (wfQp qp = true) ∧ (s.col.comms = []) ∧ (s.xl.accesses = []) ∧ (getQp s qp = some q) ∧ (least (q.stash.map (·.folio)) = some k) ∧ (k + 64 ≤ s.folio) :=
  ⟨{ tUp with qps := [(1, { tQp with stash := [⟨3, false, true, 0, 0, 0⟩] })], time := { tUp.time with tick := 70 } }, 1, { tQp with stash := [⟨3, false, true, 0, 0, 0⟩] }, 0, by decide, by decide, by decide, by decide, by decide, by decide, by decide⟩

set_option maxRecDepth 200000 in
theorem wit_LatticeTablesAndEpochs_1 : ∃ (s : State) (v : W64), (s.BarReady) :=
  ⟨tUp, 5, by decide⟩

set_option maxRecDepth 200000 in
theorem wit_LatticeTablesAndEpochs_2 : ∃ (s : State) (d : Line) (bs : List Byte), (s.MgrReady) ∧ (dfld d 24 0 1 ≠ s.lat.epoch) ∧ (s.lat.oldUntil = none) ∧ (dfld d 16 0 39 % 64 = 0) ∧ (domNamed s 64 (dfld d 16 0 39) 2048 = true) ∧ (allocPoison s 64 (dfld d 16 0 39) 2048 = false) ∧ (rdAlloc s 64 (dfld d 16 0 39) 2048 = some bs) :=
  ⟨{ tUp with doms := [(64, Domain.new { tCfg with granules := [4, 5], transport := 0 })] }, setFld 0 192 1 1, List.replicate 2048 0, by decide, by decide, by decide, by decide, by decide, by decide, rfl⟩

set_option maxRecDepth 200000 in
theorem wit_LatticeTablesAndEpochs_3 : ∃ (s : State) (d : Line), (s.MgrReady) ∧ (dfld d 24 0 1 = s.lat.epoch ∨ s.lat.oldUntil.isSome = true) :=
  ⟨tUp, 0, by decide, by decide⟩

set_option maxRecDepth 200000 in
theorem wit_LatticeTablesAndEpochs_4 : ∃ (s : State) (d : Line), (s.MgrReady) ∧ (s.lat.switch = none) ∧ (s.lat.oldUntil = none) ∧ (s.folio + 8 ≤ dfld d 16 0 64) ∧ ((2, dfld d 24 0 32, dfld d 16 0 64) ∉ s.lat.seen) :=
  ⟨tUp, setFld 0 128 64 9, by decide, by decide, by decide, by decide, by decide⟩

set_option maxRecDepth 200000 in
theorem wit_LatticeTablesAndEpochs_5 : ∃ (s : State) (port id ks : Nat), (s.Ready) ∧ (wfLat port = true) ∧ ((2, id, ks) ∉ s.lat.seen) ∧ (s.lat.switch = none) :=
  ⟨tUp, 0, 7, 20, by decide, by decide, by decide, by decide⟩

set_option maxRecDepth 200000 in
theorem wit_LatticeTablesAndEpochs_6 : ∃ (s : State) (port id ks : Nat), (s.Ready) ∧ (wfLat port = true) ∧ ((2, id, ks) ∈ s.lat.seen) :=
  ⟨{ tUp with lat := { tUp.lat with seen := [(2, 7, 20)] } }, 0, 7, 20, by decide, by decide, by decide⟩

set_option maxRecDepth 200000 in
theorem wit_LatticeTablesAndEpochs_7 : ∃ (s u : State) (k : Nat), (s.running = true) ∧ (s.lat.oldUntil = some k) ∧ (k ≤ s.folio) ∧ (u = { s with lat := { s.lat with oldUntil := none, retired := true } }) :=
  ⟨{ tUp with lat := { tUp.lat with oldUntil := some 0 } }, { tUp with lat := { tUp.lat with retired := true } }, 0, by decide, by decide, by decide, by decide⟩

set_option maxRecDepth 200000 in
theorem wit_LatticeCells_1 : ∃ (s : State) (p slot : Nat) (c : Cell), (s.Ready) ∧ (wfLat p = true) ∧ (live s p = true) ∧ (cType c ≠ 0 ∧ cType c ≠ 8) ∧ (10 ≤ cType c ∨ 2 ≤ cClass c ∨ (cRowCast c = true ∧ cColCast c = true) ∨ dimX s ≤ cDstX c ∨ dimY s ≤ cDstY c) :=
  ⟨tLat, 0, 3, tCell 11 0 0 0 0, by decide, by decide, by decide, by decide, by decide⟩

set_option maxRecDepth 200000 in
theorem wit_LatticeCells_2 : ∃ (s : State) (p slot : Nat) (c : Cell), (s.Ready) ∧ (wfLat p = true) ∧ (live s p = true) ∧ (cType c ≠ 0 ∧ cType c ≠ 8) ∧ (badHeader s c = false) ∧ (cClass c = 0) ∧ (epochDead s c = false) ∧ (cDstY c * 32 + cDstX c = myCoord s) :=
  ⟨tLat, 0, 3, tCell 1 0 0 0 0, by decide, by decide, by decide, by decide, by decide, by decide, by decide, by decide⟩

set_option maxRecDepth 200000 in
theorem wit_LatticeCells_3 : ∃ (s u : State) (p slot : Nat) (c : Cell), (s.Ready) ∧ (wfLat p = true) ∧ (live s p = true) ∧ (cType c ≠ 0 ∧ cType c ≠ 8) ∧ (badHeader s c = false) ∧ (cClass c = 0) ∧ (epochDead s c = false) ∧ (cDstY c * 32 + cDstX c ≠ myCoord s) ∧ (cRowCast c = false ∧ cColCast c = false) ∧ (u = bwBytes (bump s (latCnt p 3) 1) p false 64) :=
  ⟨tLat, bwBytes (bump tLat (latCnt 0 3) 1) 0 false 64, 0, 3, tFar, by decide, by decide, by decide, by decide, by decide, by decide, by decide, by decide, by decide, rfl⟩

set_option maxRecDepth 200000 in
theorem wit_LatticeCells_5 : ∃ (s : State) (pl q j : Nat) (x : Cand), (cAge x.cell < 255) ∧ (x.isCast = false) ∧ (routeValid (routeEntry s pl (cEpoch x.cell) (cDstY x.cell * 32 + cDstX x.cell)) = true) ∧ ((productive s pl (cEpoch x.cell) (cDstY x.cell * 32 + cDstX x.cell)).head? = some q) ∧ (live s q = true) ∧ (freeSlot s q = some j) :=
  ⟨tLat, 0, 0, 0, ⟨1, 0, tFar, false⟩, by decide, by decide, by decide, by decide, by decide, by decide⟩

set_option maxRecDepth 200000 in
theorem wit_LatticeCells_6 : ∃ (s : State) (pl q j : Nat) (x : Cand), (cAge x.cell < 255) ∧ (x.isCast = false) ∧ (routeValid (routeEntry s pl (cEpoch x.cell) (cDstY x.cell * 32 + cDstX x.cell)) = true) ∧ (∀ y, y ∈ productive s pl (cEpoch x.cell) (cDstY x.cell * 32 + cDstX x.cell) → freeSlot s y = none) ∧ (((List.range 4).map (pl * 4 + ·)).find? (fun y => live s y && (freeSlot s y).isSome) = some q) ∧ (freeSlot s q = some j) :=
  ⟨{ tLat with lat := { tLat.lat with routes := [(1, 0x18)] } }, 0, 0, 0, ⟨1, 0, tFar, false⟩, by decide, by decide, by decide, by decide, by decide, by decide⟩

set_option maxRecDepth 200000 in
theorem wit_LatticeCells_7 : ∃ (s : State) (pl : Nat) (x : Cand), (x.held = false) ∧ ((absorbOf s pl).length < 32) :=
  ⟨tUp, 0, ⟨0, 0, tCell 1 0 0 0 0, false⟩, by decide, by decide⟩

set_option maxRecDepth 200000 in
theorem wit_LatticeCells_9 : ∃ (s : State) (pl : Nat) (g : Nat), (s.running = true) ∧ (wfPlane pl = true) ∧ (least ((absorbOf s pl).map (·.at_)) = some g) ∧ (s.Reaches (g + 96)) :=
  ⟨{ tUp with time := { tUp.time with gtc := 96, gtcMem := 96 }, lat := { tUp.lat with bufA := [⟨tCell 1 0 0 0 0, 0, 0⟩] } }, 0, 0, by decide, by decide, by decide, by decide⟩

set_option maxRecDepth 200000 in
theorem wit_LatticeCells_10 : ∃ (s : State), (s.Ready) :=
  ⟨tUp, by decide⟩

set_option maxRecDepth 200000 in
theorem wit_GateSetCommands_1 : ∃ (s : State) (d : Line) (h img : List Byte) (g : GateSet), (s.MgrReady) ∧ (dfld d 16 0 39 % 64 = 0) ∧ (rdAlloc s 64 (dfld d 16 0 39) 64 = some h) ∧ (domNamed s 64 (dfld d 16 0 39) 64 = true) ∧ (allocPoison s 64 (dfld d 16 0 39) 64 = false) ∧ (max 64 (imf h 44 0 32) ≤ 2 ^ 28) ∧ (domNamed s 64 (dfld d 16 0 39) (max 64 (imf h 44 0 32)) = true) ∧ (allocPoison s 64 (dfld d 16 0 39) (max 64 (imf h 44 0 32)) = false) ∧ (rdAlloc s 64 (dfld d 16 0 39) (max 64 (imf h 44 0 32)) = some img) ∧ (validate s img (dfld d 16 0 39) (dfld d 24 0 32) = .ok g) ∧ (leaving s 64 (dfld d 16 0 39) (max 64 (imf h 44 0 32)) = false) :=
  ⟨tImg, setFld 0 192 32 7, tImgBytes.take 64, tImgBytes, tImgSet, by decide, by decide, rfl, by decide, by decide, by decide, by decide, by decide, rfl, rfl, by decide⟩

set_option maxRecDepth 200000 in
theorem wit_GateSetCommands_2 : ∃ (s : State) (d : Line) (h img : List Byte) (r : Nat), (s.MgrReady) ∧ (dfld d 16 0 39 % 64 = 0) ∧ (rdAlloc s 64 (dfld d 16 0 39) 64 = some h) ∧ (domNamed s 64 (dfld d 16 0 39) 64 = true) ∧ (allocPoison s 64 (dfld d 16 0 39) 64 = false) ∧ (max 64 (imf h 44 0 32) ≤ 2 ^ 28) ∧ (domNamed s 64 (dfld d 16 0 39) (max 64 (imf h 44 0 32)) = true) ∧ (allocPoison s 64 (dfld d 16 0 39) (max 64 (imf h 44 0 32)) = false) ∧ (rdAlloc s 64 (dfld d 16 0 39) (max 64 (imf h 44 0 32)) = some img) ∧ (validate s img (dfld d 16 0 39) (dfld d 24 0 32) = .error r) :=
  ⟨tImg, setFld 0 192 32 8, tImgBytes.take 64, tImgBytes, 1, by decide, by decide, rfl, by decide, by decide, by decide, by decide, by decide, rfl, rfl⟩

set_option maxRecDepth 200000 in
theorem wit_GateSetCommands_3 : ∃ (s : State) (d : Line) (g : GateSet), (s.MgrReady) ∧ (s.sched.sets.find? (fun g => g.id = dfld d 24 0 32) = some g) :=
  ⟨{ tUp with sched := { tUp.sched with sets := [tImgSet], reports := [(7, 0)] } }, setFld 0 192 32 7, tImgSet, by decide, by decide⟩

set_option maxRecDepth 200000 in
theorem wit_GateSetCommands_4 : ∃ (s : State) (base cycle k : Nat), (0 < cycle) :=
  ⟨tUp, 3, 4, 10, by decide⟩

set_option maxRecDepth 200000 in
theorem wit_GateSetCommands_5 : ∃ (s : State) (d : Line), (s.MgrReady) :=
  ⟨tUp, 0, by decide⟩

set_option maxRecDepth 200000 in
theorem wit_GateSetCommands_6 : ∃ (s : State) (d : Line), (s.MgrReady) :=
  ⟨tUp, 0, by decide⟩

set_option maxRecDepth 200000 in
theorem wit_GateSetPayloads_1 : ∃ (s : State) (port id base cycle k : Nat), (s.Ready) ∧ (wfLat port = true) ∧ (s.sched.pending = none) ∧ (s.sched.active ≠ some id ∨ s.sched.activeFrom ≠ startTick base cycle k) :=
  ⟨tUp, 0, 7, 3, 4, 10, by decide, by decide, by decide, by decide⟩

set_option maxRecDepth 200000 in
theorem wit_GateSetPayloads_2 : ∃ (s : State) (port id coord : Nat), (s.Ready) ∧ (wfLat port = true) :=
  ⟨tUp, 0, 7, 3, by decide, by decide⟩

set_option maxRecDepth 200000 in
theorem wit_GateSetPayloads_3 : ∃ (s u : State) (port : Nat) (p : Line) (n : Notice), (s.Ready) ∧ (wfLat port = true) ∧ (dfld p 0 0 8 = 1) ∧ (n = ⟨dfld p 2 0 12, dfld p 2 12 4, dfld p 4 0 32, dfld p 8 0 64⟩) ∧ (∀ q, q < 8 → linkOf s q ≠ n.link) ∧ ((s.sched.notices.any fun x => x.link = n.link && x.stamp = n.stamp) = false) ∧ (s.sched.covered.contains n.link = false) ∧ (u = floodCtl { s with sched := { s.sched with notices := s.sched.notices ++ [n] } } (some port) (noticePayload (dfld p 1 0 8 + 1) n)) :=
  ⟨tUp, floodCtl { tUp with sched := { tUp.sched with notices := [⟨4000, 0, 0, 0⟩] } } (some 0) (noticePayload 1 ⟨4000, 0, 0, 0⟩), 0, setFld (setFld 0 0 8 1) 16 12 4000, ⟨4000, 0, 0, 0⟩, by decide, by decide, by decide, by decide, by decide, by decide, by decide, rfl⟩

set_option maxRecDepth 200000 in
theorem wit_GateSetPayloads_4 : ∃ (s : State) (port : Nat) (p : Line), (s.Ready) ∧ (wfLat port = true) ∧ (dfld p 0 0 8 = 1) ∧ (∀ q, q < 8 → linkOf s q ≠ dfld p 2 0 12) ∧ ((s.sched.notices.any fun x => x.link = dfld p 2 0 12 && x.stamp = dfld p 8 0 64) = true) :=
  ⟨{ tUp with sched := { tUp.sched with notices := [⟨4000, 0, 0, 0⟩] } }, 0, setFld (setFld 0 0 8 1) 16 12 4000, by decide, by decide, by decide, by decide, by decide⟩

set_option maxRecDepth 200000 in
theorem wit_GateSetPayloads_5 : ∃ (s : State) (f k : Nat), (s.running = true) ∧ (least (promiseTicks s f) = some k) ∧ (k ≤ s.folio) :=
  ⟨{ tUp with qps := [(1, { tQp with ops := [{ SendOp.new 0 (setFld 0 13 1 1) none with phase := .sending, sc := some (0, 0) }] })], time := { tUp.time with tick := 9 } }, 0, 5, by decide, by decide, by decide⟩

set_option maxRecDepth 200000 in
theorem wit_GateSetPayloads_6 : ∃ (s : State) (f n : Nat) (q : Qp) (o : SendOp), (s.col.comms = []) ∧ (s.qps = [(n, q)]) ∧ ((q.ops.filter fun o => dSc o.desc && dScFlow o.desc = f && !o.late && o.phase = .sending && (match o.sc with | some (ta, m) => decide (ta + m + 5 ≤ s.folio) | none => false)) = [o]) :=
  ⟨{ tUp with qps := [(1, { tQp with ops := [{ SendOp.new 0 (setFld 0 13 1 1) none with phase := .sending, sc := some (0, 0) }] })], time := { tUp.time with tick := 9 } }, 0, 1, { tQp with ops := [{ SendOp.new 0 (setFld 0 13 1 1) none with phase := .sending, sc := some (0, 0) }] }, { SendOp.new 0 (setFld 0 13 1 1) none with phase := .sending, sc := some (0, 0) }, by decide, by decide, by decide⟩

set_option maxRecDepth 200000 in
theorem wit_CollectiveCommands_1 : ∃ (s : State) (d : Line) (c : Nat) (dom : Domain), (s.MgrReady) ∧ (dfld d 16 0 16 ≤ 512) ∧ (fnDom s (dfld d 16 0 16) = some c) ∧ (getDom s c = some dom) ∧ (dfld d 20 0 16 = 0 ∨ (dom.cfg.trigBase ≤ dfld d 18 0 16 ∧ dfld d 18 0 16 + dfld d 20 0 16 ≤ dom.cfg.trigBase + dom.cfg.trigCount)) :=
  ⟨tUp, setFld 0 160 16 2, 64, Domain.new tCfg, by decide, by decide, by decide, by decide, by decide⟩

set_option maxRecDepth 200000 in
theorem wit_CollectiveCommands_2 : ∃ (s : State) (d : Line), (s.MgrReady) ∧ (dfld d 16 0 16 > 512 ∨ (fnDom s (dfld d 16 0 16)).bind (getDom s) = none) :=
  ⟨tUp, setFld 0 128 16 5, by decide, by decide⟩

set_option maxRecDepth 200000 in
theorem wit_CollectiveCommands_3 : ∃ (s : State) (d : Line) (q : Qp) (dom : Nat) (cfg : Domain) (l : List Nat) (m : Comm), (s.MgrReady) ∧ (getQp s (dfld d 20 0 20) = some q) ∧ (q.type = 2 ∧ q.state = .init ∧ q.fn = dfld d 18 0 16) ∧ (fnDom s (dfld d 18 0 16) = some dom) ∧ (getDom s dom = some cfg) ∧ (getComm s (dfld d 16 0 16) = none) ∧ ((s.col.comms.any fun e => e.2.qp = dfld d 20 0 20) = false) ∧ ((dfld d 24 0 2 = 0 ∧ l = []) ∨ (dfld d 24 0 2 = 1 ∧ 1 ≤ dfld d 40 0 7 ∧ dfld d 40 0 7 ≤ 64 ∧ listMembers s dom (dfld d 32 0 39) (dfld d 40 0 7) = some l ∧ l.eraseDups.length = dfld d 40 0 7 ∧ (l.all fun c => c % 32 < dimX s && c / 32 < dimY s) = true)) ∧ (m = { fn := dfld d 18 0 16, qp := dfld d 20 0 20, isList := dfld d 24 0 2 = 1, sched := dbit d 24 2, slots := dfld d 25 0 8, shared := if dfld d 25 0 8 = 0 then dfld d 26 0 8 else 0, x0 := dfld d 28 0 5, y0 := dfld d 28 5 5, xc := dfld d 28 10 5 + 1, yc := dfld d 28 15 5 + 1, coords := l, waitUs := max 1 (dfld d 44 0 32), flowMap := dfld d 48 0 39, listAddr := dfld d 32 0 39, nextSeq := 0, begun := false, run := [], stash := [], aborted := [], notice := none }) ∧ (m.slots ≤ 64 ∧ (m.slots = 0 → 1 ≤ m.shared ∧ m.shared ≤ 64)) ∧ (m.isList = false → m.xc ≤ dimX s ∧ m.yc ≤ dimY s ∧ m.x0 < dimX s ∧ m.y0 < dimY s) ∧ (m.sched = true → domNamed s dom m.flowMap 32768 = true ∧ allocPoison s dom m.flowMap 32768 = false ∧ leaving s dom m.flowMap 32768 = false) ∧ (m.isList = true → leaving s dom m.listAddr (2 * dfld d 40 0 7) = false) ∧ ((coordRank s m (myCoord s)).isSome = true) ∧ (slotsReserved s dom + m.slots ≤ cfg.cfg.slotQuota ∧ commCount s dom < cfg.cfg.commQuota ∧ s.col.comms.length < 4096 ∧ m.slots ≤ sharedFree s) :=
  ⟨{ tUp with qps := [(1, { Qp.new 0 with type := 2, state := .init })] }, setFld (setFld 0 160 20 1) 200 8 4, { Qp.new 0 with type := 2, state := .init }, 64, Domain.new tCfg, [], { fn := 0, qp := 1, isList := false, sched := false, slots := 4, shared := 0, x0 := 0, y0 := 0, xc := 1, yc := 1, coords := [], waitUs := 1, flowMap := 0, listAddr := 0, nextSeq := 0, begun := false, run := [], stash := [], aborted := [], notice := none }, by decide, by decide, by decide, by decide, by decide, by decide, by decide, by decide, by decide, by decide, by decide, by decide, by decide, by decide, by decide⟩

set_option maxRecDepth 200000 in
theorem wit_CollectiveCommands_4 : ∃ (s : State) (d : Line) (q : Qp), (s.MgrReady) ∧ (getQp s (dfld d 20 0 20) = some q) ∧ (fnDom s (dfld d 18 0 16) ≠ none) ∧ (q.type ≠ 2 ∨ q.state ≠ .init ∨ q.fn ≠ dfld d 18 0 16) :=
  ⟨tRts, setFld 0 160 20 1, tQp, by decide, by decide, by decide, by decide⟩

set_option maxRecDepth 200000 in
theorem wit_CollectiveCommands_5 : ∃ (s : State) (d : Line), (s.MgrReady) ∧ (getComm s (dfld d 16 0 16) = none) :=
  ⟨tUp, 0, by decide, by decide⟩

set_option maxRecDepth 200000 in
theorem wit_CollectiveCommands_6 : ∃ (s : State) (d : Line) (m : Comm) (q : Qp), (s.MgrReady) ∧ (getComm s (dfld d 16 0 16) = some m) ∧ (getQp s m.qp = some q) ∧ (s.xl.accesses = []) ∧ (s.xl.faults = []) :=
  ⟨{ tUp with qps := [(1, { tQp with type := 2, state := .error })], col := { tUp.col with comms := [(0, tComm)] } }, 0, tComm, { tQp with type := 2, state := .error }, by decide, by decide, by decide, by decide, by decide⟩

set_option maxRecDepth 200000 in
theorem wit_CollectiveCells_1 : ∃ (s : State) (x : Cell) (m : Comm) (r : Nat) (c : Coll) (i : Instr), (s.Ready) ∧ (s.xl.accesses = []) ∧ ((i = .scaleCellArrival x ∧ cType x = 7 ∧ cQp x / 65536 < 4) ∨ (i = .redCellArrival x ∧ cType x = 6 ∧ 4 ≤ cQp x / 65536 ∧ cQp x / 65536 < 10)) ∧ (s.lets x) ∧ (getComm s (cQp x % 65536) = some m) ∧ (coordRank s m (cSrc x) = some r) ∧ (stagePath m (cQp x / 65536) r (myRank s m) = true) ∧ ((getQp s m.qp).map qpLive = some true) ∧ (m.run.find? (fun c => c.seq % 256 = cSeq x / 16) = some c) ∧ (c.started = true) :=
  ⟨tColl, tSc 0 1, { tComm with xc := 2, run := [tRun] }, 1, tRun, .scaleCellArrival (tSc 0 1), by decide, by decide, by decide, by decide, by decide, by decide, by decide, by decide, by decide, by decide⟩

set_option maxRecDepth 200000 in
theorem wit_CollectiveCells_2 : ∃ (s : State) (x : Cell) (m : Comm) (r : Nat) (i : Instr), (s.Ready) ∧ (s.xl.accesses = []) ∧ ((i = .scaleCellArrival x ∧ cType x = 7 ∧ cQp x / 65536 < 4) ∨ (i = .redCellArrival x ∧ cType x = 6 ∧ 4 ≤ cQp x / 65536 ∧ cQp x / 65536 < 10)) ∧ (s.lets x) ∧ (getComm s (cQp x % 65536) = some m) ∧ (coordRank s m (cSrc x) = some r) ∧ (stagePath m (cQp x / 65536) r (myRank s m) = true) ∧ ((getQp s m.qp).map qpLive = some true) ∧ (m.run.find? (fun c => c.seq % 256 = cSeq x / 16) = none) ∧ (m.aborted.find? (fun a => a.1 % 256 = cSeq x / 16 && a.2.2.2) = none) :=
  ⟨tColl0, tSc 0 1, { tComm with xc := 2 }, 1, .scaleCellArrival (tSc 0 1), by decide, by decide, by decide, by decide, by decide, by decide, by decide, by decide, by decide, by decide⟩

set_option maxRecDepth 200000 in
theorem wit_CollectiveCells_3 : ∃ (s : State) (x : Cell) (m : Comm) (dom : Domain), (cOff x ≠ 0xFFFF) ∧ (getDom s (commDom s m) = some dom) ∧ (stashUse s (commDom s m) < dom.cfg.stashMib * 8192) ∧ (getComm s (cQp x % 65536) = some m) :=
  ⟨{ tUp with doms := [(64, Domain.new { tCfg with stashMib := 1 })], col := { tUp.col with comms := [(0, tComm)] } }, tSc 0 1, tComm, Domain.new { tCfg with stashMib := 1 }, by decide, by decide, by decide, by decide⟩

set_option maxRecDepth 200000 in
theorem wit_CollectiveCells_4 : ∃ (s : State) (x : Cell) (m : Comm) (r : Nat) (c : Coll), (s.Ready) ∧ (s.xl.accesses = []) ∧ (cType x = 6 ∧ cQp x / 65536 = 11) ∧ (s.lets x) ∧ (getComm s (cQp x % 65536) = some m) ∧ (coordRank s m (cSrc x) = some r) ∧ (stagePath m (cQp x / 65536) r (myRank s m) = true) ∧ ((getQp s m.qp).map qpLive = some true) ∧ (m.run.find? (fun c => c.seq = dfld x.payload 2 0 16) = some c) :=
  ⟨tColl, tSc 11 1, { tComm with xc := 2, run := [tRun] }, 1, tRun, by decide, by decide, by decide, by decide, by decide, by decide, by decide, by decide, by decide⟩

set_option maxRecDepth 200000 in
theorem wit_CollectiveCells_5 : ∃ (s : State) (x : Cell) (m : Comm) (r : Nat), (s.Ready) ∧ (s.xl.accesses = []) ∧ (cType x = 6 ∧ cQp x / 65536 = 11) ∧ (s.lets x) ∧ (getComm s (cQp x % 65536) = some m) ∧ (coordRank s m (cSrc x) = some r) ∧ (stagePath m (cQp x / 65536) r (myRank s m) = true) ∧ ((getQp s m.qp).map qpLive = some true) ∧ (m.run.find? (fun c => c.seq = dfld x.payload 2 0 16) = none) ∧ ((dfld x.payload 2 0 16 + 65536 - m.nextSeq) % 65536 < 32768) ∧ ((m.aborted.any fun a => a.1 = dfld x.payload 2 0 16) = false) :=
  ⟨tColl0, tSc 11 1, { tComm with xc := 2 }, 1, by decide, by decide, by decide, by decide, by decide, by decide, by decide, by decide, by decide, by decide, by decide⟩

set_option maxRecDepth 200000 in
theorem wit_CollectiveCells_6 : ∃ (s : State) (x : Cell) (m : Comm) (r : Nat), (s.Ready) ∧ (s.xl.accesses = []) ∧ (cType x = 6 ∧ cQp x / 65536 = 12) ∧ (s.lets x) ∧ (getComm s (cQp x % 65536) = some m) ∧ (coordRank s m (cSrc x) = some r) ∧ (stagePath m (cQp x / 65536) r (myRank s m) = true) ∧ ((getQp s m.qp).map qpLive = some true) :=
  ⟨tColl0, tSc 12 1, { tComm with xc := 2 }, 1, by decide, by decide, by decide, by decide, by decide, by decide, by decide, by decide⟩

set_option maxRecDepth 200000 in
theorem wit_CollectiveCells_7 : ∃ (s : State) (x : Cell) (i : Instr), (s.Ready) ∧ ((i = .scaleCellArrival x ∧ cType x = 7) ∨ ((i = .redCellArrival x ∨ i = .abortCellArrival x ∨ i = .suspendedCellArrival x) ∧ cType x = 6)) ∧ (s.lets x) ∧ (getComm s (cQp x % 65536) = none) :=
  ⟨tUp, tSc 3 1, .scaleCellArrival (tSc 3 1), by decide, by decide, by decide, by decide⟩

set_option maxRecDepth 200000 in
theorem wit_CollectiveProgress_1 : ∃ (s : State) (comm st : Nat), (s.Ready) ∧ (stageNext s comm st = none) :=
  ⟨tUp, 0, 0, by decide, by decide⟩

set_option maxRecDepth 200000 in
theorem wit_CollectiveProgress_2 : ∃ (s : State) (comm st i n : Nat), (s.Ready) ∧ (stageNext s comm st = some (i, n)) :=
  ⟨{ tUp with lat := { tUp.lat with cfg := 1 }, qps := [(1, { tQp with type := 2 })], col := { tUp.col with comms := [(0, { tComm with xc := 2, run := [{ tRun with desc := 0x15 }] })] } }, 0, 0, 0, 0, by decide, by decide⟩

set_option maxRecDepth 200000 in
theorem wit_CollectiveProgress_3 : ∃ (s : State) (comm st : Nat) (m : Comm) (d : Domain), (getComm s comm = some m) ∧ (getDom s (commDom s m) = some d) :=
  ⟨tColl0, 0, 0, { tComm with xc := 2 }, Domain.new tCfg, by decide, by decide⟩

set_option maxRecDepth 200000 in
theorem wit_CollectiveProgress_4 : ∃ (s : State) (comm i : Nat) (rest : List (Nat × Nat)) (m : Comm) (c : Coll), (s.Ready) ∧ (s.col.fifo = (comm, i) :: rest) ∧ (getColl s comm i = some (m, c)) :=
  ⟨{ tUp with col := { tUp.col with comms := [(0, { tComm with run := [{ tRun with waits := some 0 }] })], fifo := [(0, 0)] } }, 0, 0, [], { tComm with run := [{ tRun with waits := some 0 }] }, { tRun with waits := some 0 }, by decide, by decide, by decide⟩

set_option maxRecDepth 200000 in
theorem wit_CollectiveProgress_5 : ∃ (s : State) (comm : Nat) (m : Comm) (c : Coll) (o : Gtc), (s.running = true) ∧ (getComm s comm = some m) ∧ (m.run.find? (fun c => c.waits.isSome) = some c) ∧ (m.run.find? (fun x => x.idx = c.idx) = some c) ∧ (c.waits = some o) ∧ (s.Reaches (o + m.waitUs * 16000)) :=
  ⟨{ tUp with col := { tUp.col with comms := [(0, { tComm with run := [{ tRun with waits := some 0 }] })], fifo := [(0, 0)] } }, 0, { tComm with run := [{ tRun with waits := some 0 }] }, { tRun with waits := some 0 }, 0, by decide, by decide, by decide, by decide, by decide, by decide⟩

set_option maxRecDepth 200000 in
theorem wit_CollectiveProgress_7 : ∃ (s : State) (comm k : Nat) (m : Comm) (d : Domain), (s.running = true) ∧ (getComm s comm = some m) ∧ (m.notice = some k) ∧ (k ≤ s.folio) ∧ (getDom s (commDom s m) = some d) ∧ (d.suspended = true) :=
  ⟨{ tUp with doms := [(64, { Domain.new tCfg with suspended := true })], col := { tUp.col with comms := [(0, { tComm with notice := some 0 })] } }, 0, 0, { tComm with notice := some 0 }, { Domain.new tCfg with suspended := true }, by decide, by decide, by decide, by decide, by decide, by decide⟩

set_option maxRecDepth 200000 in
theorem wit_EngineJobCommands_1 : ∃ (s : State) (d : Line) (dom : Nat) (j : Job), (s.MgrReady) ∧ (dfld d 20 0 16 ≤ 512) ∧ (fnDom s (dfld d 20 0 16) = some dom) ∧ (dfld d 16 0 8 ≤ 5 ∧ dfld d 16 0 8 ≠ 4) ∧ (dfld d 16 0 8 = 5 → (s.xl.ctxs.lookup (dfld d 56 0 12)).isSome = true ∧ (dfld d 17 0 8 = 2 ∨ (s.xl.ctxs.lookup (dfld d 22 0 12)).isSome = true)) ∧ (working s (dfld d 16 0 8) ≠ []) ∧ (weightOf s dom (dfld d 16 0 8) ≠ 0) ∧ (jobOf s d dom = some j) ∧ (opFieldsOk s j = true) ∧ ((if dfld d 16 0 8 = 5 then movRangesOk s j else hbmRangesOk s j) = true) :=
  ⟨tJob, tJobCmd, 64, tFill, by decide, by decide, by decide, by decide, by decide, by decide, by decide, rfl, by decide, by decide⟩

set_option maxRecDepth 200000 in
theorem wit_EngineJobCommands_2 : ∃ (s : State) (d : Line), (s.MgrReady) ∧ (512 < dfld d 20 0 16 ∨ fnDom s (dfld d 20 0 16) = none) :=
  ⟨tUp, setFld 0 160 16 3, by decide, by decide⟩

set_option maxRecDepth 200000 in
theorem wit_EngineJobCommands_3 : ∃ (s : State) (d : Line) (dom : Nat) (j : Job), (s.MgrReady) ∧ (dfld d 20 0 16 ≤ 512) ∧ (fnDom s (dfld d 20 0 16) = some dom) ∧ (dfld d 16 0 8 = 4) ∧ (working s 4 ≠ [] ∧ weightOf s dom 4 ≠ 0) ∧ (jobOf s d dom = some j) ∧ (opFieldsOk s j = true ∧ hbmRangesOk s j = true) :=
  ⟨tJob, tCrcCmd, 64, tCrc, by decide, by decide, by decide, by decide, by decide, rfl, by decide⟩

set_option maxRecDepth 200000 in
theorem wit_EngineJobCommands_4 : ∃ (s t : State) (id e : Nat) (j : Job) (imgs : List (List Byte × List (Nat × Nat))) (d : Line) (out : JobOut), (s.Ready) ∧ (getJob s id = some j) ∧ (j.coll = none ∧ j.gcm = none ∧ j.chain = none) ∧ (j.kind ≠ 5) ∧ (j.cmd = some d) ∧ (j.fin = true ∨ stepCount j = 0 ∨ reached s j = stepCount j) ∧ (jobAsks s id = false) ∧ (jobImages s j = some imgs) ∧ (out = jobResult s j imgs) ∧ ([0, 0xA, 0xB].contains out.status = true) ∧ (out.bytes.length ≤ maxOut j) ∧ (e = ((j.pieces.getLast?).map (·.1)).getD (j.engine.getD 0)) ∧ (writeSteps (countErrors (countSteps s j e j.done (stepCount j)) j e imgs) id j out (if stepCount j = 0 then [[(0, out.bytes.length)]] else (List.range (stepCount j - j.done)).map fun i => stepRanges j (stepCount j) (j.done + i) out.bytes.length) = (t, true)) :=
  ⟨{ tJob with zoo := { tJob.zoo with jobs := [(0, { tCrc with fin := true })] } }, (writeSteps (countErrors (countSteps { tJob with zoo := { tJob.zoo with jobs := [(0, { tCrc with fin := true })] } } tCrc 0 0 1) tCrc 0 [([], [])]) 0 tCrc ⟨crcRecord ((fixedSet 0).getD ⟨0, 0, 0, 0, false, false, 0, false⟩) 0 0 0, [], 0⟩ [[(0, 32)]]).1, 0, 0, { tCrc with fin := true }, [([], [])], tCrcCmd, ⟨crcRecord ((fixedSet 0).getD ⟨0, 0, 0, 0, false, false, 0, false⟩) 0 0 0, [], 0⟩, by decide, by decide, by decide, by decide, by decide, by decide, by decide, rfl, rfl, by decide, by decide, by decide, rfl⟩

set_option maxRecDepth 200000 in
theorem wit_EngineJobCommands_5 : ∃ (s : State) (id : Nat) (j : Job) (d : Line), (s.Ready) ∧ (getJob s id = some j) ∧ (j.kind = 5) ∧ (j.coll = none) ∧ (j.cmd = some d) ∧ (j.pieces = []) ∧ (j.done = stepCount j) ∧ (j.writes = 0) ∧ (j.ended = none) ∧ (s.xl.accesses = []) :=
  ⟨{ tJob with zoo := { tJob.zoo with jobs := [(0, { tFill with kind := 5, done := stepCount { tFill with kind := 5 } })] } }, 0, { tFill with kind := 5, done := stepCount { tFill with kind := 5 } }, tJobCmd, by decide, by decide, by decide, by decide, by decide, by decide, by decide, by decide, by decide, by decide⟩

set_option maxRecDepth 200000 in
theorem wit_EnginesAndScrubber_1 : ∃ (s : State) (b : Nat), (s.Ready) ∧ (wfFence b = true) ∧ (s.zoo.fenced.contains b = false) ∧ (∀ e, e ∈ s.zoo.jobs → e.2.hits = []) :=
  ⟨tJob, 0, by decide, by decide, by decide, by intro e he; exact absurd he (by simp [tJob, tUp, State.reset, Zoo.reset])⟩

set_option maxRecDepth 200000 in
theorem wit_EnginesAndScrubber_2 : ∃ (s : State) (d : Line), (s.MgrReady) :=
  ⟨tUp, 0, by decide⟩

set_option maxRecDepth 200000 in
theorem wit_EnginesAndScrubber_3 : ∃ (s : State) (b k : Nat) (pass : Bool) (d : Line) (r : Option Bool), (s.Ready) ∧ (wfFence b = true) ∧ (s.zoo.tests.find? (fun t => t.1 = b && t.2.1 + 2 ≤ s.folio) = some (b, k, d, r)) :=
  ⟨{ tUp with zoo := { tUp.zoo with tests := [(3, 0, 0, none)], fenced := [3] }, time := { tUp.time with tick := 2 } }, 3, 0, true, 0, none, by decide, by decide, by decide⟩

set_option maxRecDepth 200000 in
theorem wit_EnginesAndScrubber_4 : ∃ (s : State) (b : Nat) (pass : Bool), (s.Ready) ∧ (wfFence b = true) ∧ (s.zoo.tests.find? (fun t => t.1 = b && t.2.1 + 2 ≤ s.folio) = none) :=
  ⟨{ tUp with zoo := { tUp.zoo with tests := [(3, 0, 0, none)], fenced := [3] }, time := { tUp.time with tick := 1 } }, 3, true, by decide, by decide, by decide⟩

set_option maxRecDepth 200000 in
theorem wit_EnginesAndScrubber_5 : ∃ (s : State) (id line n : Nat) (data : Line) (p poison : Bool) (j : Job) (bs : List Byte), (s.Ready) ∧ (s.xl.accesses = []) ∧ (s.xl.faults = []) ∧ (getJob s id = some j) ∧ (j.buffer.lookup line = some (bs, n, p)) ∧ (n ≠ 0) :=
  ⟨{ tJob with zoo := { tJob.zoo with jobs := [(0, { tFill with buffer := [(0, [0, 0], 1, false)] })] } }, 0, 0, 1, 7, false, true, { tFill with buffer := [(0, [0, 0], 1, false)] }, [0, 0], by decide, by decide, by decide, by decide, by decide, by decide⟩

set_option maxRecDepth 200000 in
theorem wit_EnginesAndScrubber_6 : ∃ (s : State) (l : Nat) (res : ScrubResult), (s.Ready) ∧ (wfLine l = true) ∧ (bitAt s.zoo.scrubCfg.inForce 8 = true) ∧ (scrubbed s (l / 2 ^ 24) = true) :=
  ⟨{ tUp with zoo := { tUp.zoo with scrubCfg := rwt 0x118 } }, 5, .uncorrectable, by decide, by decide, by decide, by decide⟩

set_option maxRecDepth 200000 in
theorem wit_EnginesAndScrubber_7 : ∃ (s : State) (l : Nat) (res : ScrubResult), (wfLine l = false) :=
  ⟨tUp, 288 * 2 ^ 24, .clean, by decide⟩

set_option maxRecDepth 200000 in
theorem wit_CheckSetsAndKeySlots_1 : ∃ (s : State) (d : Line), (s.MgrReady) :=
  ⟨tUp, 0, by decide⟩

set_option maxRecDepth 200000 in
theorem wit_CheckSetsAndKeySlots_2 : ∃ (s : State) (d : Line), (s.cyc.defines = [d]) :=
  ⟨{ tUp with cyc := { tUp.cyc with defines := [5] } }, 5, by decide⟩

set_option maxRecDepth 200000 in
theorem wit_CheckSetsAndKeySlots_3 : ∃ (s : State) (d : Line), (dfld d 18 0 16 ≤ 512) ∧ ((fnDom s (dfld d 18 0 16)).isSome = true) :=
  ⟨tUp, 0, by decide, by decide⟩

set_option maxRecDepth 200000 in
theorem wit_CheckSetsAndKeySlots_4 : ∃ (s : State) (d : Line), (512 < dfld d 18 0 16 ∨ fnDom s (dfld d 18 0 16) = none) :=
  ⟨tUp, setFld 0 144 16 9, by decide⟩

set_option maxRecDepth 200000 in
theorem wit_CheckSetsAndKeySlots_5 : ∃ (s : State) (i : Nat) (v : W64), (s.BarReady) ∧ (i < 8) :=
  ⟨tUp, 3, 9, by decide, by decide⟩

set_option maxRecDepth 200000 in
theorem wit_CheckSetsAndKeySlots_6 : ∃ (s : State) (i : Nat) (v : W64), (s.cyc.staged = [(i, v)]) ∧ (s.cyc.unstage = false) :=
  ⟨{ tUp with cyc := { tUp.cyc with staged := [(3, 9)] } }, 3, 9, by decide, by decide⟩

set_option maxRecDepth 200000 in
theorem wit_CheckSetsAndKeySlots_7 : ∃ (s : State) (v : W64) (load : Bool), (s.BarReady) ∧ (fld v 40 2 = (if load then 1 else 2)) ∧ (goRefusal s v load ≠ 0) :=
  ⟨tUp, 0x10000000000, true, by decide, by decide, by decide⟩

set_option maxRecDepth 200000 in
theorem wit_CheckSetsAndKeySlots_8 : ∃ (s : State) (v : W64) (k : BitVec 512), (s.BarReady) ∧ (fld v 40 2 = 1) ∧ (goRefusal s v true = 0) ∧ (k = (if fld v 16 2 = 1 then stagedKey s else ((stagedKey s).extractLsb' 0 256).setWidth 512)) :=
  ⟨tKey, 0x10000020000, 0, by decide, by decide, by decide, by decide⟩

set_option maxRecDepth 200000 in
theorem wit_CheckSetsAndKeySlots_9 : ∃ (s : State) (v : W64), (s.BarReady) ∧ (fld v 40 2 = 2) ∧ (goRefusal s v false = 0) :=
  ⟨{ tKey with keys := [(0, ⟨2, 0, 0, 5, 6, false⟩)] }, 0x20000000000, by decide, by decide, by decide⟩

set_option maxRecDepth 200000 in
theorem wit_NearPortBringUp_1 : ∃ (s : State) (n : Nat) (v : W64), (s.BarReady) ∧ (wfNear n = true) ∧ (fld v 1 2 = 3 ∨ (fld v 1 2 ≠ (getNear s n).modeNext.getD (getNear s n).mode ∧ ((getNear s n).enable = true ∨ (getNear s n).state ≠ 0 ∨ ringOnNear s n = true ∨ ((getNear s n).windows.all fun w => w.2.len = 0) = false))) :=
  ⟨tUp, 0, 6, by decide, by decide, by decide⟩

set_option maxRecDepth 200000 in
theorem wit_NearPortBringUp_2 : ∃ (s : State) (n : Nat) (v : W64), (s.BarReady) ∧ (wfNear n = true) ∧ (fld v 1 2 ≠ 3) ∧ (fld v 1 2 = (getNear s n).modeNext.getD (getNear s n).mode ∨ ((getNear s n).enable = false ∧ (getNear s n).state = 0 ∧ ringOnNear s n = false ∧ ((getNear s n).windows.all fun w => w.2.len = 0) = true)) ∧ (bitAt v 3 = false) :=
  ⟨tUp, 0, 1, by decide, by decide, by decide, by decide, by decide⟩

set_option maxRecDepth 200000 in
theorem wit_NearPortBringUp_3 : ∃ (s : State) (n : Nat) (v : W64), (s.BarReady) ∧ (wfNear n = true) ∧ (fld v 1 2 = 0) ∧ ((getNear s n).mode = 0 ∧ (getNear s n).modeNext = none ∧ (getNear s n).enable = true ∧ (getNear s n).state = 4 ∧ (getNear s n).lreset = none) ∧ (bitAt v 0 = true ∧ bitAt v 3 = true) ∧ ((resetWindow (getNear s n).resetTimes s.now).length < 3) :=
  ⟨tNear, 0, 9, by decide, by decide, by decide, by decide, by decide, by decide⟩

set_option maxRecDepth 200000 in
theorem wit_NearPortBringUp_4 : ∃ (s : State) (n : Nat), (s.Ready) ∧ (wfNear n = true) ∧ ((getNear s n).mode = 0 ∧ (getNear s n).enable = true ∧ (getNear s n).state = 0 ∧ (getNear s n).since = 0) ∧ (nearLit s n = true) :=
  ⟨{ tUp with near := [{ NearPort.reset with enable := true }], engs := tUp.engs.map fun e => { e with temp := 25 } }, 0, by decide, by decide, by decide, by decide⟩

set_option maxRecDepth 200000 in
theorem wit_NearPortBringUp_5 : ∃ (s : State) (n : Nat), (s.Ready) ∧ (wfNear n = true) ∧ ((getNear s n).state = 1) :=
  ⟨{ tUp with near := [{ NearPort.reset with enable := true, state := 1 }] }, 0, by decide, by decide, by decide⟩

set_option maxRecDepth 200000 in
theorem wit_NearPortBringUp_6 : ∃ (s : State) (n : Nat), (s.Ready) ∧ (wfNear n = true) ∧ ((getNear s n).state = 2) :=
  ⟨{ tUp with near := [{ NearPort.reset with enable := true, state := 2 }] }, 0, by decide, by decide, by decide⟩

set_option maxRecDepth 200000 in
theorem wit_NearPortBringUp_7 : ∃ (s : State) (n : Nat) (c : Cell) (a : Gtc), (s.Ready) ∧ (wfNear n = true) ∧ (cType c = 0xD) ∧ ((getNear s n).mode = 0 ∧ (getNear s n).state = 3 ∧ (getNear s n).echoRecv = false ∧ (getNear s n).echoSent = false) ∧ (c.crc = crc32c (cellBytes c.hdr c.payload)) ∧ (zOp c = 0) ∧ (paramOk c.payload = true) ∧ (n < s.near.length) :=
  ⟨{ tUp with near := [{ NearPort.reset with enable := true, state := 3, paramNext := 12288 }] }, 0, zCell (zHdr 0xD 0 3 0 0 0 0 0 0 0 false) (setFld (paramPayload true 0 0 0) 8 1 1), 0, by decide, by decide, by decide, by decide, by decide, by decide, by decide, by decide⟩

set_option maxRecDepth 200000 in
theorem wit_NearPortBringUp_8 : ∃ (s : State) (n d : Nat), (s.running = true) ∧ (wfNear n = true) ∧ (nearTimeout (getNear s n).state = some d) ∧ (s.Reaches ((getNear s n).since + d)) :=
  ⟨{ tUp with near := [{ NearPort.reset with enable := true, state := 1 }], time := { tUp.time with tick := 2000 } }, 0, 80000000, by decide, by decide, by decide, by decide⟩

set_option maxRecDepth 200000 in
theorem wit_NearPortBringUp_9 : ∃ (s : State) (n : Nat), (s.running = true) ∧ (wfNear n = true) ∧ ((getNear s n).state = 0 ∧ (getNear s n).enable = true ∧ (getNear s n).since ≠ 0) ∧ (s.Reaches ((getNear s n).since + 160000000)) :=
  ⟨{ tUp with near := [{ NearPort.reset with enable := true, since := 5 }], time := { tUp.time with tick := 4000 } }, 0, by decide, by decide, by decide, by decide⟩

set_option maxRecDepth 200000 in
theorem wit_NearPortBringUp_10 : ∃ (s : State) (n : Nat), (s.Ready) ∧ (wfNear n = true) :=
  ⟨tNear, 0, by decide, by decide⟩

set_option maxRecDepth 200000 in
theorem wit_NearLinkResets_1 : ∃ (s : State) (n : Nat) (c : Cell), (s.Ready) ∧ (wfNear n = true) ∧ (cType c = 0) ∧ (s.NearTakes n c) :=
  ⟨tNear, 0, zCell (zHdr 0 0 3 1 2 0 0 0 0 0 false) 0, by decide, by decide, by decide, by decide⟩

set_option maxRecDepth 200000 in
theorem wit_NearLinkResets_2 : ∃ (s : State) (n e : Nat) (c : Cell), (s.Ready) ∧ (wfNear n = true) ∧ (cType c = 0xD) ∧ ((getNear s n).state = 4 ∧ (getNear s n).mode = 0) ∧ (c.crc = crc32c (cellBytes c.hdr c.payload) ∧ cellWrong c = false) ∧ (zOp c = 1) :=
  ⟨tNear, 0, 3, zLink 1 0, by decide, by decide, by decide, by decide, by decide, by decide⟩

set_option maxRecDepth 200000 in
theorem wit_NearLinkResets_3 : ∃ (s u : State) (n cause : Nat) (asked : Bool) (i : Instr) (c : Cell), (s.Ready) ∧ (wfNear n = true) ∧ ((1 ≤ cause ∧ cause ≤ 3 ∧ asked = false ∧ i = .zuquinCellError n cause) ∨ ((cType c = 0xD ∧ c.crc = crc32c (cellBytes c.hdr c.payload) ∧ cellWrong c = false ∧ zOp c = 2) ∧ cause = max 1 (min 4 (dfld c.payload 0 0 8)) ∧ asked = true ∧ i = .zlinkResetReq n c)) ∧ ((getNear s n).state = 4 ∧ (getNear s n).mode = 0 ∧ (getNear s n).lreset = none) ∧ ((resetWindow (getNear s n).resetTimes s.now).length < 3) ∧ (u = (if asked then bump (creditsBack s n c) (nearCnt n 1) 1 else if cause = 1 then [8 + 2 * n, 9 + 2 * n].foldl (fun s e => modEng s e fun g => { g with excluded := g.excluded + 1 }) { bump s (nearCnt n 13) 1 with cals := lmod s.cals (8 + n) fun c => { c with uncorr := sat 65535 (c.uncorr + 1) } } else s)) :=
  ⟨tNear, tNear, 0, 2, false, .zuquinCellError 0 2, zLink 2 2, by decide, by decide, by decide, by decide, by decide, by decide⟩

set_option maxRecDepth 200000 in
theorem wit_NearLinkResets_4 : ∃ (s : State) (n cause : Nat) (i : Instr) (c : Cell), (s.Ready) ∧ (wfNear n = true) ∧ ((1 ≤ cause ∧ cause ≤ 3 ∧ i = .zuquinCellError n cause) ∨ ((cType c = 0xD ∧ c.crc = crc32c (cellBytes c.hdr c.payload) ∧ cellWrong c = false ∧ zOp c = 2) ∧ i = .zlinkResetReq n c)) ∧ ((getNear s n).state = 4 ∧ (getNear s n).mode = 0 ∧ (getNear s n).lreset = none) ∧ (3 ≤ (resetWindow (getNear s n).resetTimes s.now).length) ∧ (n < s.near.length) :=
  ⟨{ tUp with near := [{ tNearPort with resetTimes := [0, 0] }] }, 0, 1, .zuquinCellError 0 1, zLink 2 2, by decide, by decide, by decide, by decide, by decide, by decide⟩

set_option maxRecDepth 200000 in
theorem wit_NearLinkResets_5 : ∃ (s : State) (n : Nat) (r : NearReset), (s.Ready) ∧ (wfNear n = true) ∧ ((getNear s n).lreset = some r) ∧ (r.sentAck = false ∧ (getNear s n).heldDb = []) :=
  ⟨{ tUp with near := [{ tNearPort with lreset := some ⟨0, 2, false, false, true, 192⟩ }] }, 0, ⟨0, 2, false, false, true, 192⟩, by decide, by decide, by decide, by decide⟩

set_option maxRecDepth 200000 in
theorem wit_NearLinkResets_6 : ∃ (s : State) (n : Nat) (c : Cell) (r : NearReset), (s.Ready) ∧ (wfNear n = true) ∧ (cType c = 0xD) ∧ ((getNear s n).state = 4 ∧ (getNear s n).mode = 0) ∧ (c.crc = crc32c (cellBytes c.hdr c.payload) ∧ cellWrong c = false) ∧ (zOp c = 3) ∧ ((getNear s n).lreset = some r) :=
  ⟨{ tUp with near := [{ tNearPort with lreset := some ⟨0, 2, false, false, true, 192⟩ }] }, 0, zLink 3 0, ⟨0, 2, false, false, true, 192⟩, by decide, by decide, by decide, by decide, by decide, by decide, by decide⟩

set_option maxRecDepth 200000 in
theorem wit_NearLinkResets_7 : ∃ (s : State) (n : Nat) (r : NearReset), ((getNear s n).lreset = some r) ∧ (n < s.near.length) :=
  ⟨{ tUp with near := [{ tNearPort with lreset := some ⟨0, 2, false, false, true, 192⟩ }] }, 0, ⟨0, 2, false, false, true, 192⟩, by decide, by decide⟩

set_option maxRecDepth 200000 in
theorem wit_NearLinkResets_8 : ∃ (s : State) (n : Nat) (r : NearReset), (s.running = true) ∧ (wfNear n = true) ∧ ((getNear s n).lreset = some r) ∧ (s.Reaches (r.start + 320000)) :=
  ⟨{ tUp with near := [{ tNearPort with lreset := some ⟨0, 2, true, false, true, 192⟩ }], time := { tUp.time with tick := 10 } }, 0, ⟨0, 2, true, false, true, 192⟩, by decide, by decide, by decide, by decide⟩

set_option maxRecDepth 200000 in
theorem wit_NearLinkResets_9 : ∃ (s : State) (n : Nat), ((getNear s n).state = 4) ∧ (n < s.near.length) :=
  ⟨tNear, 0, by decide, by decide⟩

set_option maxRecDepth 200000 in
theorem wit_NearPortRequests_1 : ∃ (s : State) (n : Nat) (c : Cell) (i : Instr), (s.Ready) ∧ (wfNear n = true) ∧ (cType c = 0xA) ∧ (s.NearTakes n c) ∧ ((zOp c = 1 ∧ i = .zreqWrite n c) ∨ (zOp c ≠ 1 ∧ i = .zreqRead n c)) :=
  ⟨tNear, 0, zCell (zHdr 0xA 0 0 3 0 5 0 0 0 0 false) 0, .zreqRead 0 (zCell (zHdr 0xA 0 0 3 0 5 0 0 0 0 false) 0), by decide, by decide, by decide, by decide, by decide⟩

set_option maxRecDepth 200000 in
theorem wit_NearPortRequests_2 : ∃ (s : State) (n e : Nat) (c : Cell), (cClass c = 0 ∧ zOp c ≤ 1 ∧ (zOp c = 1 → zFirst c ≤ zLast c) ∧ (zOp c = 0 → zAddr c + 64 * (zLast c + 1) ≤ 2 ^ 56)) ∧ (windowCheck (bump s (nearCnt n 3) 1) n (zAddr c) (if zOp c = 0 then 64 * (zLast c + 1) else 64) (decide (zOp c = 1)) = .error e) :=
  ⟨tNear, 0, 1, zCell (zHdr 0xA 0 0 3 0 5 0 0 0 0 false) 0, by decide, rfl⟩

set_option maxRecDepth 200000 in
theorem wit_NearPortRequests_3 : ∃ (s : State) (n ph va i : Nat) (c : Cell) (w : Window) (x : Ctx) (g : Seg), (cClass c = 0 ∧ zOp c = 1 ∧ zFirst c ≤ zLast c) ∧ (windowCheck (bump s (nearCnt n 3) 1) n (zAddr c) 64 true = .ok (w, x, i, g, va)) ∧ (domPhys s x.dom (g.tbase + (va - g.base)) = some ph) ∧ (hostBiased (logSeg (bump s (nearCnt n 3) 1) g va) ph = false) :=
  ⟨tWin, 0, 2 ^ 32, 0, 0, zCell (zHdr 0xA 0 0 3 0 5 0 1 0 3 false) 7, tWindow, tWinCtx, tWinSeg, by decide, rfl, by decide, by decide⟩

set_option maxRecDepth 200000 in
theorem wit_NearPortRequests_4 : ∃ (s : State) (n : Nat) (c : Cell) (i : Instr), (s.Ready) ∧ (wfNear n = true) ∧ (cType c = 0xB) ∧ (s.NearTakes n c) ∧ ((zOp c, i) ∈ [(0, .zrspReadData n c), (1, .zrspWriteDone n c), (2, .zrspPageAbsent n c), (3, .zrspError n c)]) :=
  ⟨tNear, 0, zCell (zHdr 0xB 0 1 3 0 5 0 0 0 0 false) 0, .zrspReadData 0 (zCell (zHdr 0xB 0 1 3 0 5 0 0 0 0 false) 0), by decide, by decide, by decide, by decide, by decide⟩

set_option maxRecDepth 200000 in
theorem wit_NearPortRequests_5 : ∃ (s : State) (n : Nat) (c : Cell), ((getNear s n).owner (zTag c) = none) :=
  ⟨tNear, 0, zCell (zHdr 0xB 0 1 3 0 5 0 0 0 0 false) 0, by decide⟩

set_option maxRecDepth 200000 in
theorem wit_NearPortRequests_6 : ∃ (s : State) (n id : Nat) (c : Cell) (r : NearReq) (a : Access), ((getNear s n).owner (zTag c) = some r) ∧ (r.access = some id) ∧ (s.xl.accesses.find? (fun a => a.id = id) = some a) ∧ (a.result = none ∧ a.issued = true) :=
  ⟨tNearRd, 0, 3, zCell (zHdr 0xB 0 1 3 0 5 0 0 0 0 false) 9, tNearReq, tNearAcc, by decide, by decide, by decide, by decide⟩

set_option maxRecDepth 200000 in
theorem wit_NearPortDoorbellsAndWindows_1 : ∃ (s : State) (n : Nat) (c : Cell) (i : Instr), (s.Ready) ∧ (wfNear n = true) ∧ (cType c = 0xC) ∧ (s.NearTakes n c) ∧ ((zOp c = 2 ∧ i = .zdbPageReady n c) ∨ (zOp c ≠ 2 ∧ i = .zdbDoorbell n c)) :=
  ⟨tNear, 0, zCell (zHdr 0xC 0 2 3 0 0 0 2 0 0 false) 0, .zdbPageReady 0 (zCell (zHdr 0xC 0 2 3 0 0 0 2 0 0 false) 0), by decide, by decide, by decide, by decide, by decide⟩

set_option maxRecDepth 200000 in
theorem wit_NearPortDoorbellsAndWindows_2 : ∃ (s : State) (n : Nat) (c : Cell), (inboundBusy s n = false) ∧ ((getNear s n).heldDb = []) :=
  ⟨tNear, 0, zCell (zHdr 0xC 0 2 3 0 0 0 2 0 0 false) 0, by decide, by decide⟩

set_option maxRecDepth 200000 in
theorem wit_NearPortDoorbellsAndWindows_3 : ∃ (s : State) (n fn dom : Nat) (c : Cell), (dbit c.payload 4 0 = true ∧ dbit c.payload 20 0 = false ∧ dbit c.payload 36 0 = false ∧ dbit c.payload 52 0 = false) ∧ (fn = dfld c.payload 0 0 16) ∧ (fn ≤ 512) ∧ (fnDom s fn = some dom) :=
  ⟨tNear, 0, 0, 64, zCell (zHdr 0xC 0 2 3 0 0 0 0 0 0 false) (setFld 0 32 1 1), by decide, by decide, by decide, by decide⟩

set_option maxRecDepth 200000 in
theorem wit_NearPortDoorbellsAndWindows_4 : ∃ (s : State) (d : Line) (dom : Nat) (x : Ctx), (s.MgrReady) ∧ (dfld d 18 0 16 ≤ 512) ∧ (fnDom s (dfld d 18 0 16) = some dom) ∧ (nearBound s (dfld d 17 0 2) dom = true) ∧ (s.xl.ctxs.lookup (dfld d 20 0 12) = some x) ∧ (dfld d 32 0 48 ≠ 0 → dfld d 24 0 57 % 4096 = 0 ∧ dfld d 32 0 48 % 4096 = 0 ∧ x.dom = dom ∧ ctxCovers s (dfld d 20 0 12) (dfld d 24 0 57) (dfld d 32 0 48) (fun g => g.target = 1) = true) :=
  ⟨tWin, setFld 0 128 8 7, 64, tWinCtx, by decide, by decide, by decide, by decide, by decide, by decide⟩

set_option maxRecDepth 200000 in
theorem wit_NearPortDoorbellsAndWindows_5 : ∃ (s : State) (d : Line), (s.MgrReady) ∧ (512 < dfld d 18 0 16 ∨ fnDom s (dfld d 18 0 16) = none) :=
  ⟨tUp, setFld 0 144 16 7, by decide, by decide⟩

set_option maxRecDepth 200000 in
theorem wit_NearPortDoorbellsAndWindows_6 : ∃ (s : State) (n w : Nat) (x : Window) (d : Line) (l : List Nat), (s.Ready) ∧ (wfNear n = true ∧ w < 256) ∧ ((getNear s n).windows.lookup w = some x) ∧ (x.waiting = [(d, l)]) ∧ ((s.xl.accesses.any fun a => l.contains a.id) = false) :=
  ⟨{ tUp with near := [{ tNearPort with windows := [(3, { tWindow with waiting := [(0, [])] })] }] }, 0, 3, { tWindow with waiting := [(0, [])] }, 0, [], by decide, by decide, by decide, by decide, by decide⟩

set_option maxRecDepth 200000 in
theorem wit_LatticePortBringUp_1 : ∃ (s : State) (v : W64) (p : Nat), (s.BarReady) ∧ (p < 8 ∧ p < s.lports.length) :=
  ⟨{ tLat with optCfg := 3 }, 6, 0, by decide, by decide⟩

set_option maxRecDepth 200000 in
theorem wit_LatticePortBringUp_2 : ∃ (s : State) (p : Nat), (s.cyc.darken = [p]) :=
  ⟨{ tLat with cyc := { tLat.cyc with darken := [0] } }, 0, by decide⟩

set_option maxRecDepth 200000 in
theorem wit_LatticePortBringUp_3 : ∃ (s : State) (p : Nat), (s.Ready) ∧ (wfLat p = true) ∧ ((getLat s p).state = 0) ∧ (bringUpOk s p = true) :=
  ⟨{ tLat with lports := [], optCfg := 0xFF, engs := tUp.engs.map fun e => { e with temp := 25 } }, 0, by decide, by decide, by decide, by decide⟩

set_option maxRecDepth 200000 in
theorem wit_LatticePortBringUp_4 : ∃ (s : State) (p bitErrors : Nat), (s.Ready) ∧ (wfLat p = true) ∧ ((getLat s p).state = 1) :=
  ⟨{ tUp with lports := [{ LatPort.reset with state := 1 }] }, 0, 3, by decide, by decide, by decide⟩

set_option maxRecDepth 200000 in
theorem wit_LatticePortBringUp_5 : ∃ (s : State) (p : Nat), (s.Ready) ∧ (wfLat p = true) ∧ ((getLat s p).state = 2) :=
  ⟨{ tUp with lports := [{ LatPort.reset with state := 2, surveyNext := 1000 }] }, 0, by decide, by decide, by decide⟩

set_option maxRecDepth 200000 in
theorem wit_LatticePortBringUp_6 : ∃ (s : State) (p d : Nat), (s.running = true) ∧ (wfLat p = true) ∧ (latTimeout (getLat s p).state = some d) ∧ (timeoutRuns s p = true) ∧ (s.Reaches ((getLat s p).since + d)) :=
  ⟨{ tUp with lports := [{ LatPort.reset with state := 1 }], time := { tUp.time with tick := 2000 } }, 0, 80000000, by decide, by decide, by decide, by decide, by decide⟩

set_option maxRecDepth 200000 in
theorem wit_LatticePortBringUp_7 : ∃ (s : State) (p : Nat), (p < s.lports.length ∧ p < s.cals.length) :=
  ⟨{ tUp with lports := [{ LatPort.reset with state := 1 }] }, 0, by decide⟩

set_option maxRecDepth 200000 in
theorem wit_LatticePortBringUp_8 : ∃ (s : State) (p : Nat), (s.running = true) ∧ (wfLat p = true) ∧ ((getLat s p).state = 0 ∧ (getLat s p).wait = true) ∧ (s.Reaches ((getLat s p).since + 160000000)) :=
  ⟨{ tUp with lports := [{ LatPort.reset with wait := true }], time := { tUp.time with tick := 4000 } }, 0, by decide, by decide, by decide, by decide⟩

set_option maxRecDepth 200000 in
theorem wit_LatticeSurveyAndAttestation_1 : ∃ (s : State) (p : Nat) (c : Cell) (a : Gtc), (s.Ready) ∧ (wfLat p = true) ∧ ((getLat s p).state < 2 ∨ cType c ≠ 8 ∨ c.crc ≠ latCrc c.hdr c.payload) :=
  ⟨tLat, 0, tCell 1 0 0 0 0, 0, by decide, by decide, by decide⟩

set_option maxRecDepth 200000 in
theorem wit_LatticeSurveyAndAttestation_2 : ∃ (s : State) (p : Nat) (c : Cell) (a : Gtc), (s.Ready) ∧ (wfLat p = true) ∧ (p < s.lports.length) ∧ (2 ≤ (getLat s p).state ∧ (getLat s p).state ≠ 3) ∧ (cType c = 8 ∧ c.crc = latCrc c.hdr c.payload) ∧ (dfld c.payload 20 4 2 = 0) :=
  ⟨tLat, 0, latCell (latHdr 8 0 0 0 false false 0 0 0 0 false) (setFld 0 (18 * 8) 16 0), 5000, by decide, by decide, by decide, by decide, by decide, by decide⟩

set_option maxRecDepth 200000 in
theorem wit_LatticeSurveyAndAttestation_3 : ∃ (s : State) (p : Nat) (c : Cell), ((getLat s p).state = 3) ∧ (p < s.lports.length) ∧ (dfld c.payload 21 0 2 ≠ s.time.fsize ∨ dfld c.payload 22 0 10 ≠ fld s.lat.cfg 0 10) :=
  ⟨{ tLat with lports := [{ LatPort.reset with state := 3 }] }, 0, latCell (latHdr 8 0 0 0 false false 0 0 0 0 false) 0, by decide, by decide, by decide⟩

set_option maxRecDepth 200000 in
theorem wit_LatticeSurveyAndAttestation_4 : ∃ (s : State) (p farPort farCoord : Nat) (nonce : BitVec 256) (ch : ChainMsg) (re : RespMsg), (s.Ready) ∧ (wfLat p = true ∧ farPort < 256 ∧ farCoord < 1024) :=
  ⟨{ tLat with lports := [{ LatPort.reset with state := 3, surveyNext := 1000 }] }, 0, 1, 1, 5, ⟨true, 0, 0, 0, 0⟩, ⟨1, [], 0, 0, 0, none⟩, by decide, by decide⟩

set_option maxRecDepth 200000 in
theorem wit_LatticeSurveyAndAttestation_5 : ∃ (s : State) (p : Nat) (ch : ChainMsg) (re : RespMsg), ((getLat s p).state = 3 ∧ (getLat s p).attested = none) ∧ (fwAlive s = true) ∧ ((getLat s p).chain = some ch ∧ (getLat s p).resp = some re) :=
  ⟨{ tLat with lports := [{ LatPort.reset with state := 3, chain := some ⟨true, 0, 0, 0, 0⟩, resp := some ⟨1, [], 0, 0, 0, none⟩ }] }, 0, ⟨true, 0, 0, 0, 0⟩, ⟨1, [], 0, 0, 0, none⟩, by decide, by decide, by decide⟩

set_option maxRecDepth 200000 in
theorem wit_LatticeSurveyAndAttestation_6 : ∃ (s : State) (p : Nat) (ch : ChainMsg) (re : RespMsg), ((ch.verifies = false ∨ re.sigKey ≠ some ch.attKey ∨ 8 < re.entries.length ∨ fld ch.svnVersion 0 7 < fld s.sec.policy 0 7)) :=
  ⟨tLat, 0, ⟨false, 0, 0, 0, 0⟩, ⟨1, [], 0, 0, 0, none⟩, by decide⟩

set_option maxRecDepth 200000 in
theorem wit_LatticeSurveyAndAttestation_7 : ∃ (s : State) (sig : List Byte), (s.Ready) :=
  ⟨{ tUp with sec := { tUp.sec with signing := some .certificate } }, [1, 2, 3], by decide⟩

set_option maxRecDepth 200000 in
theorem wit_LatticeSurveyAndAttestation_8 : ∃ (s : State) (p fp fc : Nat) (n : BitVec 256) (sig : List Byte), (s.sec.signing = some (.link [(p, n, fp, fc)])) ∧ (fwAlive s = true) :=
  ⟨{ tUp with sec := { tUp.sec with signing := some (.link [(0, 5, 1, 1)]) } }, 0, 1, 1, 5, [1, 2, 3], by decide, by decide⟩

set_option maxRecDepth 200000 in
theorem wit_OpticalFailures_1 : ∃ (s u : State) (e : Nat) (i : Instr), (s.Ready) ∧ (wfEngine e = true) ∧ ((i = .laserLow e ∧ (getEng s e).laserLow = false ∧ u = modEng s e fun g => { g with laserLow := true }) ∨ (i = .heaterLimit e ∧ u = modEng (mark s (0x130080 + 8 * e) 11) e fun g => { g with heaterLimit := true }) ∨ (i = .oeShutdown e ∧ (getEng s e).shutdown = false ∧ u = modEng s e fun g => { g with shutdown := true })) :=
  ⟨tLat, modEng tLat 0 fun g => { g with laserLow := true }, 0, .laserLow 0, by decide, by decide, Or.inl ⟨rfl, rfl, rfl⟩⟩

set_option maxRecDepth 200000 in
theorem wit_OpticalFailures_2 : ∃ (s : State) (e : Nat), (s.Ready) ∧ (wfEngine e = true) :=
  ⟨tLat, 3, by decide, by decide⟩

set_option maxRecDepth 200000 in
theorem wit_OpticalFailures_3 : ∃ (s : State) (p lane : Nat), (s.Ready) ∧ (wfLat p = true ∧ lane < 8) :=
  ⟨tLat, 0, 3, by decide, by decide⟩

set_option maxRecDepth 200000 in
theorem wit_OpticalFailures_4 : ∃ (s : State) (p cause lane : Nat), ((getLat s p).state = 5) :=
  ⟨tLat, 0, 0, 3, by decide⟩

set_option maxRecDepth 200000 in
theorem wit_OpticalFailures_5 : ∃ (s : State) (p cause lane : Nat), ((getLat s p).state = 5) ∧ (p < s.lports.length ∧ p < s.cals.length) :=
  ⟨tLat, 0, 0, 3, by decide, by decide⟩

set_option maxRecDepth 200000 in
theorem wit_OpticalFailures_6 : ∃ (s : State) (p : Nat), (s.Ready) ∧ (wfLat p = true) ∧ (2 ≤ (getLat s p).state) :=
  ⟨tLat, 0, by decide, by decide, by decide⟩

set_option maxRecDepth 200000 in
theorem wit_OpticalFailures_7 : ∃ (s : State) (bits : List (Nat × Nat × Nat)), (s.Ready) ∧ ((bits.all fun b => b.1 < 12) = true) :=
  ⟨{ tLat with time := { tLat.time with tick := 17 } }, [(3, 1, 5)], by decide, by decide⟩

set_option maxRecDepth 200000 in
theorem wit_OpticalFailures_8 : ∃ (s : State) (i l n : Nat), (i < s.cals.length) :=
  ⟨tLat, 3, 1, 5, by decide⟩

set_option maxRecDepth 200000 in
theorem wit_EthernetReceive_1 : ∃ (s : State) (k : Nat) (f : Frame), (s.Ready) ∧ (wfMac k = true) :=
  ⟨tEth, 0, tFrame, by decide, by decide⟩

set_option maxRecDepth 200000 in
theorem wit_EthernetReceive_2 : ∃ (s : State) (k : Nat), (s.Ready) ∧ (wfMac k = true) :=
  ⟨{ tEth with macs := [{ tMac with buffer := [⟨tFrame, 9216, 0⟩] }] }, 0, by decide, by decide⟩

set_option maxRecDepth 200000 in
theorem wit_EthernetReceive_3 : ∃ (s : State) (k q : Nat), (s.Ready) ∧ (wfMac k = true) ∧ (macLive s k = true ∧ (getMac s k).linkUp = true) :=
  ⟨{ tEth with macCfg := [rwt 0x4000] }, 0, 5, by decide, by decide, by decide⟩

set_option maxRecDepth 200000 in
theorem wit_EthernetReceive_4 : ∃ (s : State) (k : Nat) (en : BitVec 8) (qs : List Nat), (s.Ready) ∧ (wfMac k = true) ∧ (macLive s k = true ∧ (getMac s k).linkUp = true) :=
  ⟨{ tEth with macCfg := [rwt 0x8000], macs := [{ tMac with pauses := [(3, ⟨9, 8⟩)] }] }, 0, 0x12, [1, 2, 3, 4, 5], by decide, by decide, by decide⟩

set_option maxRecDepth 200000 in
theorem wit_EthernetReceive_5 : ∃ (s : State) (k sent : Nat), (s.Ready) ∧ (wfMac k = true) :=
  ⟨tEth, 0, 0, by decide, by decide⟩

set_option maxRecDepth 200000 in
theorem wit_EthernetFlowControlTimers_1 : ∃ (s : State) (k p : Nat) (x : Pause), (s.running = true) ∧ (wfMac k = true ∧ wfPrio p = true) ∧ ((getMac s k).pauses.lookup p = some x) ∧ (s.Reaches x.till) :=
  ⟨{ tEth with macs := [{ tMac with pauses := [(3, ⟨9, 8⟩)] }] }, 0, 3, ⟨9, 8⟩, by decide, by decide, by decide, by decide⟩

set_option maxRecDepth 200000 in
theorem wit_EthernetFlowControlTimers_2 : ∃ (s : State) (k p : Nat) (x : Pause), ((getMac s k).pauses.lookup p = some x) :=
  ⟨{ tEth with macs := [{ tMac with pauses := [(3, ⟨9, 8⟩)] }] }, 0, 3, ⟨9, 8⟩, by decide⟩

set_option maxRecDepth 200000 in
theorem wit_EthernetFlowControlTimers_3 : ∃ (s : State) (k p g : Nat) (x : Pause), (s.running = true) ∧ (wfMac k = true ∧ wfPrio p = true) ∧ ((getMac s k).pauses.lookup p = some x) ∧ (0 < fld (macCfgOf s k) 40 8 ∧ (pauseMode s k = 1 → p = 0)) ∧ (g = x.began + fld (macCfgOf s k) 40 8 * 16000000 ∧ g ≤ x.till) ∧ (s.Reaches g) :=
  ⟨{ tEth with macs := [{ tMac with pauses := [(3, ⟨900000000, 8⟩)] }], macCfg := [rwt (setFld 0 40 8 1)], time := { tUp.time with tick := 400 } }, 0, 3, 16000008, ⟨900000000, 8⟩, by decide, by decide, by decide, by decide, by decide, by decide⟩

set_option maxRecDepth 200000 in
theorem wit_EthernetFlowControlTimers_4 : ∃ (s : State) (k p : Nat) (x : Pause), ((getMac s k).pauses.lookup p = some x) :=
  ⟨{ tEth with macs := [{ tMac with pauses := [(3, ⟨9, 8⟩)] }] }, 0, 3, ⟨9, 8⟩, by decide⟩

set_option maxRecDepth 200000 in
theorem wit_EthernetFlowControlTimers_5 : ∃ (s : State) (k p : Nat), (s.Ready) ∧ (wfMac k = true ∧ wfPrio p = true) ∧ ((getMac s k).pauses.lookup p = none ∨ fld (macCfgOf s k) 40 8 = 0) :=
  ⟨tEth, 0, 3, by decide, by decide, by decide⟩

set_option maxRecDepth 200000 in
theorem wit_EthernetFlowControlTimers_6 : ∃ (s : State) (k g : Nat), (s.running = true) ∧ (wfMac k = true) ∧ ((getMac s k).holdoff = some g) ∧ (s.Reaches g) :=
  ⟨{ tEth with macs := [{ tMac with holdoff := some 99 }] }, 0, 99, by decide, by decide, by decide, by decide⟩

set_option maxRecDepth 200000 in
theorem wit_EthernetFlowControlTimers_7 : ∃ (s : State) (k p last : Nat), (s.running = true) ∧ (wfMac k = true ∧ wfPrio p = true) ∧ ((getMac s k).xoff.lookup p = some last) ∧ (s.Reaches (last + cdiv (quantaUnits s k (sendQuanta s k)) 2)) :=
  ⟨{ tEth with macCfg := [rwt 0x4000], macs := [{ tMac with xoff := [(0, 5)], tx := some ⟨64, 0, none⟩, pfc := rwt 0 }] }, 0, 0, 5, by decide, by decide, by decide, by decide⟩

set_option maxRecDepth 200000 in
theorem wit_EthernetFlowControlTimers_8 : ∃ (s : State) (k p last : Nat) (e : Nat × Option Nat × Nat), ((getMac s k).xoff.lookup p = some last) ∧ ((flowKeys s k).find? (fun e => e.1 = p) = some e) ∧ (xonBytes s k ≤ e.2.2) :=
  ⟨{ tEth with macCfg := [rwt 0x4000], macs := [{ tMac with xoff := [(0, 5)], tx := some ⟨64, 0, none⟩, pfc := rwt 0 }] }, 0, 0, 5, (0, none, 0), by decide, by decide, by decide⟩

set_option maxRecDepth 200000 in
theorem wit_EthernetSendAndTables_1 : ∃ (s : State) (k : Nat), (s.Ready) ∧ (wfMac k = true) :=
  ⟨tUp, 0, by decide, by decide⟩

set_option maxRecDepth 200000 in
theorem wit_EthernetSendAndTables_2 : ∃ (s : State) (k : Nat), (s.cyc.starts = [k]) :=
  ⟨{ tEth with cyc := { tEth.cyc with starts := [0] } }, 0, by decide⟩

set_option maxRecDepth 200000 in
theorem wit_EthernetSendAndTables_3 : ∃ (s : State) (k : Nat), (macLive s k = false ∨ (getMac s k).tx.isSome = true) :=
  ⟨tUp, 0, by decide⟩

set_option maxRecDepth 200000 in
theorem wit_EthernetSendAndTables_4 : ∃ (s : State) (k : Nat), (macLive s k = true ∧ (getMac s k).tx = none ∧ (getMac s k).ctlq = []) ∧ (s.qps = [] ∧ (getOut s (some k)).ctl = [] ∧ (getOut s (some k)).carrelTags = []) :=
  ⟨tEth, 0, by decide, by decide⟩

set_option maxRecDepth 200000 in
theorem wit_EthernetSendAndTables_5 : ∃ (s : State) (k : Nat) (g : Gtc) (x : TxFrame), (s.Ready) ∧ (wfMac k = true) ∧ ((getMac s k).tx = some x) ∧ ((getMac s k).ctlq = []) :=
  ⟨{ tEth with macs := [{ tMac with tx := some ⟨64, 0, none⟩ }] }, 0, 0, ⟨64, 0, none⟩, by decide, by decide, by decide, by decide⟩

set_option maxRecDepth 200000 in
theorem wit_EthernetSendAndTables_6 : ∃ (s : State) (d : Line) (dom : Nat), (s.MgrReady) ∧ (dfld d 18 3 2 < 2 ∧ dfld d 22 0 16 ≤ 512) ∧ (peerHeld s (dfld d 16 0 12) = false) ∧ (fnDom s (dfld d 22 0 16) = some dom) ∧ (nearBound s (dfld d 18 0 3 / 2) dom = true) :=
  ⟨tUp, setFld 0 192 48 77, 64, by decide, by decide, by decide, by decide, by decide⟩

set_option maxRecDepth 200000 in
theorem wit_EthernetSendAndTables_7 : ∃ (s : State) (d : Line), (s.MgrReady) ∧ (2 ≤ dfld d 18 3 2 ∨ 512 < dfld d 22 0 16) :=
  ⟨tUp, setFld 0 147 2 2, by decide, by decide⟩

set_option maxRecDepth 200000 in
theorem wit_EthernetSendAndTables_8 : ∃ (s : State) (d : Line), (s.MgrReady) :=
  ⟨tUp, setFld 0 192 48 77, by decide⟩

set_option maxRecDepth 200000 in
theorem wit_EthernetSendAndTables_9 : ∃ (s : State) (off e i : Nat), (s.BarReady) ∧ (e < 8 ∧ i < 11) ∧ (off = 0xF00000 + 0x80 * e + 8 * i) :=
  ⟨{ tEth with compat := [(13, 77)] }, 0xF00090, 1, 2, by decide, by decide, by decide⟩

set_option maxRecDepth 200000 in
theorem wit_EthernetSendAndTables_10 : ∃ (s : State) (off w : Nat), (s.BarReady) ∧ (wfOffset off = true ∧ inCompat off = true) ∧ (w ∈ [1, 2, 4] ∨ (w = 8 ∧ off % 8 ≠ 0)) :=
  ⟨tEth, 0xF00004, 8, by decide, by decide, by decide⟩

set_option maxRecDepth 200000 in
theorem wit_HostLinkLossAndUp_1 : ∃ (s : State) (i : Instr), (s.Alive) ∧ (s.cxl.linkUp = true ∧ s.cxl.lost = false ∧ s.glb.fatal = false ∧ s.glb.initDone = true) ∧ (i ∈ [Instr.dlDown, .hotReset, .pf0Flr, .ideIntegrityFailure]) :=
  ⟨tUp, .hotReset, by decide, by decide, by decide⟩

set_option maxRecDepth 200000 in
theorem wit_HostLinkLossAndUp_2 : ∃ (s : State), (s.Alive) ∧ (s.cxl.linkUp = false ∨ s.cxl.lost = true) :=
  ⟨{ tUp with cxl := { tUp.cxl with lost := true } }, by decide, by decide⟩

set_option maxRecDepth 200000 in
theorem wit_HostLinkLossAndUp_3 : ∃ (s : State) (w sp : Nat) (f : Bool), (s.Alive) ∧ (wfLink w sp f = true) :=
  ⟨tUp, 16, 4, true, by decide, by decide⟩

set_option maxRecDepth 200000 in
theorem wit_HostLinkLossAndUp_5 : ∃ (s : State), (s.Powered) :=
  ⟨{ tUp with cxl := { tUp.cxl with cfg := 1 } }, by decide⟩

set_option maxRecDepth 200000 in
theorem wit_HostLinkLossAndUp_6 : ∃ (s : State) (w sp : Nat) (f : Bool), (s.Powered) ∧ (wfLink w sp f = true) :=
  ⟨{ tUp with pkg := { tUp.pkg with perst := true, inReset := true, perstReset := true } }, 16, 4, true, by decide, by decide⟩

set_option maxRecDepth 200000 in
theorem wit_HostLinkLossAndUp_7 : ∃ (s : State) (w sp : Nat) (f : Bool), (s.Ready) ∧ (wfLink w sp f = true) ∧ (s.cxl.linkUp = true) :=
  ⟨tUp, 8, 4, true, by decide, by decide, by decide⟩

set_option maxRecDepth 200000 in
theorem wit_HostLinkLossAndUp_8 : ∃ (s : State) (n : Nat) (a : Bool), (s.Ready) ∧ (s.cxl.linkUp = true) :=
  ⟨{ tUp with sec := { tUp.sec with sessions := [⟨5, .doe, true⟩] } }, 5, true, by decide, by decide⟩

set_option maxRecDepth 200000 in
theorem wit_HostLinkLossAndUp_9 : ∃ (s : State) (op : ConfigOp), (s.Alive) ∧ (configFn op = true) ∧ (s.cxl.linkUp = false) :=
  ⟨{ tUp with cxl := { tUp.cxl with linkUp := false } }, .busMaster true, by decide, by decide, by decide⟩

set_option maxRecDepth 200000 in
theorem wit_HostLinkLossAndUp_10 : ∃ (s : State) (b : Bool), (s.Alive) ∧ (s.cxl.linkUp = true ∧ s.glb.initDone = true) :=
  ⟨tUp, false, by decide, by decide⟩

set_option maxRecDepth 200000 in
theorem wit_HostReadsAndTranslations_1 : ∃ (s : State) (r : Nat), (s.Ready) ∧ (s.cxl.reads.lookup r = none) :=
  ⟨tUp, 5, by decide, by decide⟩

set_option maxRecDepth 200000 in
theorem wit_HostReadsAndTranslations_2 : ∃ (s : State) (r : Nat) (x : HostRead) (data : List Byte) (p : Bool), (s.Ready) ∧ (s.cxl.reads.lookup r = some x) :=
  ⟨{ tUp with cxl := { tUp.cxl with reads := [(5, ⟨0, 4096, 64, 3, false⟩)] }, xl := { tUp.xl with accesses := [{ tNearAcc with place := .host }] } }, 5, ⟨0, 4096, 64, 3, false⟩, [1, 2], true, by decide, by decide⟩

set_option maxRecDepth 200000 in
theorem wit_HostReadsAndTranslations_3 : ∃ (s : State) (fn pasid page target : Nat) (r w : Bool), (s.Ready) ∧ (wfFn fn = true) :=
  ⟨tUp, 0, 0, 1, 9, true, true, by decide, by decide⟩

set_option maxRecDepth 200000 in
theorem wit_HostReadsAndTranslations_4 : ∃ (s : State) (fn pasid page target : Nat) (r w : Bool) (a : Access), (s.Ready) ∧ (wfFn fn = true) ∧ (s.xl.stale.contains (fn, pasid, page) = false ∧ (s.xl.pinAsk.find? fun x => x.fn = fn && x.pasid = pasid && x.page = page) = none) ∧ (asking s fn pasid page = [a] ∧ (s.xl.faults.filter fun f => !f.resolved && f.pri = 2 && f.key = .host fn pasid page) = []) ∧ (r = true ∧ (a.write = true → w = true)) :=
  ⟨{ tUp with xl := { tUp.xl with accesses := [{ tNearAcc with place := .host, issued := false, xlatReq := true, left := 0 }] } }, 0, 0, 0, 9, true, true, { tNearAcc with place := .host, issued := false, xlatReq := true, left := 0 }, by decide, by decide, by decide, by decide, by decide⟩

set_option maxRecDepth 200000 in
theorem wit_HostReadsAndTranslations_5 : ∃ (s : State) (fn pasid page count : Nat), (s.Ready) ∧ (wfFn fn = true) :=
  ⟨{ tUp with xl := { tUp.xl with atc := [⟨0, 0, 4, 1, 9, true, true, 0⟩, ⟨0, 0, 7, 1, 9, true, true, 0⟩] } }, 0, 0, 4, 2, by decide, by decide⟩

set_option maxRecDepth 200000 in
theorem wit_HostReadsAndTranslations_6 : ∃ (s : State) (f : FaultRec) (fn pasid page : Nat), (s.Ready) ∧ ((s.xl.faults.find? fun g => g.id = f.id && !g.resolved && g.pri = 1) = some f) ∧ (f.key = .host fn pasid page) :=
  ⟨{ tUp with xl := { tUp.xl with faults := [⟨7, .host 0 0 4, 1, 0, 0, false, 1, false, false, 0, 0, 0, 0, 0, false, false, false, 0, 1⟩] } }, ⟨7, .host 0 0 4, 1, 0, 0, false, 1, false, false, 0, 0, 0, 0, 0, false, false, false, 0, 1⟩, 0, 0, 4, by decide, by decide, by decide⟩

set_option maxRecDepth 200000 in
theorem wit_CxlMemoryAndBias_1 : ∃ (s : State) (a : Nat) (p q : Bool) (d : Line) (m : BitVec 64), (288 * 2 ^ 30 ≤ a) :=
  ⟨tUp, 400000000000, false, false, 0, 0, by decide⟩

set_option maxRecDepth 200000 in
theorem wit_CxlMemoryAndBias_2 : ∃ (s : State) (a : Nat) (p : Bool), (s.Ready) ∧ (a < 288 * 2 ^ 30) ∧ ((s.cxl.linkUp && !s.cxl.lost && s.cxl.hdmBase.isSome && s.cxl.memEnable && linkAlive s) = true) ∧ (biasChanging s a = false) :=
  ⟨{ tUp with cxl := { tUp.cxl with hdmBase := some 0, memEnable := true, hdmAccess := [rwt 0x30] } }, 2 ^ 32, false, by decide, by decide, by decide, by decide⟩

set_option maxRecDepth 200000 in
theorem wit_CxlMemoryAndBias_3 : ∃ (s : State) (a : Nat) (p q : Bool) (d : Line), (s.Ready) ∧ (a < 288 * 2 ^ 30) ∧ ((s.cxl.linkUp && !s.cxl.lost && s.cxl.hdmBase.isSome && s.cxl.memEnable && linkAlive s) = true) ∧ (biasChanging s a = false) :=
  ⟨{ tUp with cxl := { tUp.cxl with hdmBase := some 0, memEnable := true, hdmAccess := [rwt 0x30] }, glb := { tUp.glb with filled := [4] } }, 2 ^ 32, false, false, 9, by decide, by decide, by decide, by decide⟩

set_option maxRecDepth 200000 in
theorem wit_CxlMemoryAndBias_5 : ∃ (s : State) (a : Nat) (p : Bool), (s.Ready) ∧ (a < 288 * 2 ^ 30) ∧ (s.glb.fatal = false) :=
  ⟨{ tUp with cxl := { tUp.cxl with hdmBase := some 0, memEnable := true, biasJob := [(0, 2 ^ 20, 1, true)] } }, 2 ^ 32, false, by decide, by decide, by decide⟩

set_option maxRecDepth 200000 in
theorem wit_CxlMemoryAndBias_6 : ∃ (s : State) (a : Nat) (p : Bool), (a < 288 * 2 ^ 30) ∧ (s.glb.fatal = true ∧ s.cxl.linkUp = true) :=
  ⟨{ tUp with glb := { tUp.glb with fatal := true } }, 2 ^ 32, false, by decide, by decide⟩

set_option maxRecDepth 200000 in
theorem wit_CxlMemoryAndBias_7 : ∃ (s : State) (a : Nat), (s.Ready) :=
  ⟨tUp, 64, by decide⟩

set_option maxRecDepth 200000 in
theorem wit_CxlMemoryAndBias_8 : ∃ (s : State) (b : Nat), (s.BarReady) :=
  ⟨tUp, 2 ^ 40, by decide⟩

set_option maxRecDepth 200000 in
theorem wit_CxlMemoryAndBias_9 : ∃ (s : State) (d : Line), (s.MgrReady) :=
  ⟨{ tUp with cxl := { tUp.cxl with hdmBase := some 0 } }, setFld (setFld 0 128 27 (2 ^ 20)) 160 27 1, by decide⟩

set_option maxRecDepth 200000 in
theorem wit_CxlMemoryAndBias_10 : ∃ (s : State) (p pg left : Nat) (d : Line) (host : Bool) (rest : List (Line × Nat × Nat × Bool)), (s.Ready) ∧ (s.cxl.biasJob = (d, pg, left, host) :: rest) :=
  ⟨{ tUp with cxl := { tUp.cxl with biasJob := [(0, 2 ^ 20, 1, true)] } }, 2 ^ 20, 2 ^ 20, 1, 0, true, [], by decide, by decide⟩

set_option maxRecDepth 200000 in
theorem wit_CxlMemoryAndBias_11 : ∃ (s : State) (n : Nat) (x : Option Line), (s.Ready) :=
  ⟨{ tUp with cxl := { tUp.cxl with cacheReqs := [(3, ⟨2 ^ 26, true, false, none, none⟩)] } }, 3, some 5, by decide⟩

set_option maxRecDepth 200000 in
theorem wit_ContextsAndSegments_1 : ∃ (s : State) (d : Line) (dom : Domain), (s.MgrReady) ∧ (dfld d 16 0 7 ≤ 64) ∧ (dfld d 18 0 16 ≤ 512 ∧ fnDom s (dfld d 18 0 16) = some (dfld d 16 0 7)) ∧ (getDom s (dfld d 16 0 7) = some dom) :=
  ⟨tUp, setFld 0 128 7 64, Domain.new tCfg, by decide, by decide, by decide, by decide⟩

set_option maxRecDepth 200000 in
theorem wit_ContextsAndSegments_2 : ∃ (s : State) (d : Line), (s.MgrReady) :=
  ⟨tUp, setFld 0 128 7 3, by decide⟩

set_option maxRecDepth 200000 in
theorem wit_ContextsAndSegments_3 : ∃ (s : State) (d : Line), (s.MgrReady) :=
  ⟨{ tUp with xl := { tUp.xl with ctxs := [(0, { tWinCtx with segs := [] })] } }, 0, by decide⟩

set_option maxRecDepth 200000 in
theorem wit_ContextsAndSegments_4 : ∃ (s : State) (d : Line) (x : Ctx) (pins : List Pin), (s.MgrReady) ∧ (s.xl.ctxs.lookup (dfld d 16 0 12) = some x) ∧ (x.segs.lookup (dfld d 18 0 4) = none) ∧ (segFields (segOf d) = true ∧ (x.segs.any fun e => e.2.base < (segOf d).base + (segOf d).len && (segOf d).base < e.2.base + e.2.len) = false ∧ segTarget s x.dom (segOf d) = true ∧ ((segOf d).target = 1 → leaving s x.dom (segOf d).tbase (segOf d).len = false)) ∧ ((segOf d).pinned = false ∨ pinRange (takeHanded s .mgrSq d) x [(dfld d 18 0 4, segOf d, (segOf d).base, (segOf d).len)] pins = .ok (takeHanded s .mgrSq d)) :=
  ⟨{ tUp with xl := { tUp.xl with ctxs := [(0, { tWinCtx with segs := [] })] } }, setFld 0 256 48 4096, { tWinCtx with segs := [] }, [], by decide, by decide, by decide, by decide, Or.inl (by decide)⟩

set_option maxRecDepth 200000 in
theorem wit_ContextsAndSegments_5 : ∃ (s : State) (d : Line) (x : Ctx) (pins : List Pin), (s.MgrReady) ∧ (s.xl.ctxs.lookup (dfld d 16 0 12) = some x) ∧ (x.segs.lookup (dfld d 18 0 4) = none) ∧ (segFields (segOf d) = true ∧ (x.segs.any fun e => e.2.base < (segOf d).base + (segOf d).len && (segOf d).base < e.2.base + e.2.len) = false ∧ segTarget s x.dom (segOf d) = true ∧ (segOf d).target = 1 ∧ leaving s x.dom (segOf d).tbase (segOf d).len = true) :=
  ⟨{ tWin with xl := { tWin.xl with ctxs := [(0, { tWinCtx with segs := [] })] }, stages := [(64, DomCfg.empty, 0, [])] }, setFld (setFld 0 152 2 1) 256 48 4096, { tWinCtx with segs := [] }, [], by decide, by decide, by decide, by decide⟩

set_option maxRecDepth 200000 in
theorem wit_ContextsAndSegments_6 : ∃ (s : State) (d : Line) (pins : List Pin), (s.MgrReady) :=
  ⟨tUp, 0, [], by decide⟩

set_option maxRecDepth 200000 in
theorem wit_ContextsAndSegments_7 : ∃ (s : State) (d : Line), (s.MgrReady) :=
  ⟨tWin, 0, by decide⟩

set_option maxRecDepth 200000 in
theorem wit_ContextsAndSegments_8 : ∃ (s : State) (c i : Nat) (x : Ctx) (g : Seg) (d : Line), (s.Ready) ∧ (s.xl.ctxs.lookup c = some x) ∧ (x.segs.lookup i = some g) ∧ (g.withdrawn = some d ∧ g.log = none ∧ g.pinned = false ∧ g.target ≠ 0) ∧ (segHolders s c g = [] ∧ (s.xl.accesses.any fun a => a.ctx = c && a.seg = i) = false ∧ nearUnanswered s g = false) :=
  ⟨{ tWin with xl := { tWin.xl with ctxs := [(0, { tWinCtx with segs := [(0, { tWinSeg with withdrawn := some 0 })] })] } }, 0, 0, { tWinCtx with segs := [(0, { tWinSeg with withdrawn := some 0 })] }, { tWinSeg with withdrawn := some 0 }, 0, by decide, by decide, by decide, by decide, by decide⟩

set_option maxRecDepth 200000 in
theorem wit_ContextsAndSegments_9 : ∃ (s : State) (c i : Nat), (s.Ready) ∧ (((s.xl.ctxs.lookup c).bind fun x => (x.segs.lookup i).bind fun g => g.withdrawn) = none) :=
  ⟨tWin, 0, 0, by decide, by decide⟩

set_option maxRecDepth 200000 in
theorem wit_FaultsAndDirtyLogs_1 : ∃ (s : State) (d : Line), (s.MgrReady) :=
  ⟨{ tUp with xl := { tUp.xl with faults := [⟨7, .host 0 0 4, 1, 0, 0, false, 1, false, false, 0, 0, 0, 0, 0, false, false, false, 0, 1⟩] } }, setFld 0 128 32 7, by decide⟩

set_option maxRecDepth 200000 in
theorem wit_FaultsAndDirtyLogs_2 : ∃ (s : State) (f id : Nat) (a : Access) (o : Gtc), (s.running = true) ∧ ((s.xl.accesses.find? fun a => a.id = id && a.result.isNone && (match a.fault with | some (g, _) => g = f | none => false)) = some a) ∧ (a.fault = some (f, o)) ∧ (s.Reaches (o + 16000000 * ((s.xl.ctxs.lookup a.ctx).map (·.timeoutMs)).getD 1)) :=
  ⟨{ tUp with xl := { tUp.xl with accesses := [{ tNearAcc with place := .host, issued := false, fault := some (7, 5) }], faults := [⟨7, .host 0 0 0, 1, 0, 0, false, 1, false, false, 0, 0, 0, 0, 0, false, false, false, 0, 1⟩] }, time := { tUp.time with tick := 400 } }, 7, 3, { tNearAcc with place := .host, issued := false, fault := some (7, 5) }, 5, by decide, by decide, by decide, by decide⟩

set_option maxRecDepth 200000 in
theorem wit_FaultsAndDirtyLogs_3 : ∃ (s : State) (f id : Nat) (a : Access), ((s.xl.accesses.find? fun a => a.id = id && a.result.isNone && (match a.fault with | some (g, _) => g = f | none => false)) = some a) :=
  ⟨{ tUp with xl := { tUp.xl with accesses := [{ tNearAcc with place := .host, issued := false, fault := some (7, 5) }] } }, 7, 3, { tNearAcc with place := .host, issued := false, fault := some (7, 5) }, by decide⟩

set_option maxRecDepth 200000 in
theorem wit_FaultsAndDirtyLogs_4 : ∃ (s : State) (f id : Nat), (s.Ready) ∧ ((s.xl.accesses.find? fun a => a.id = id && a.result.isNone && (match a.fault with | some (g, _) => g = f | none => false)) = none) :=
  ⟨tUp, 7, 3, by decide, by decide⟩

set_option maxRecDepth 200000 in
theorem wit_FaultsAndDirtyLogs_5 : ∃ (s : State) (d : Line), (s.MgrReady) ∧ (((s.xl.ctxs.lookup (dfld d 16 0 12)).bind fun x => x.segs.lookup (dfld d 18 0 4)) = none) :=
  ⟨tUp, 0, by decide, by decide⟩

set_option maxRecDepth 200000 in
theorem wit_FaultsAndDirtyLogs_6 : ∃ (s : State) (d : Line) (g : Seg), (s.MgrReady) ∧ (((s.xl.ctxs.lookup (dfld d 16 0 12)).bind fun x => x.segs.lookup (dfld d 18 0 4)) = some g) :=
  ⟨tWin, setFld 0 256 39 4096, tWinSeg, by decide, by decide⟩

set_option maxRecDepth 200000 in
theorem wit_FaultsAndDirtyLogs_7 : ∃ (s : State) (l : DirtyLog) (b0 b1 n : Nat) (d : Line), (l.stopAt = none) :=
  ⟨tWin, ⟨0, 4096, 0, 1, none, none⟩, 0, 4096, 64, 0, by decide⟩

set_option maxRecDepth 200000 in
theorem wit_CarrelCommands_1 : ∃ (s : State) (d : Line) (bs : List Byte), (s.MgrReady) ∧ (dfld d 16 0 39 % 64 = 0 ∧ domNamed s 64 (dfld d 16 0 39) 704 = true ∧ allocPoison s 64 (dfld d 16 0 39) 704 = false) ∧ (rdAlloc s 64 (dfld d 16 0 39) 704 = some bs) :=
  ⟨tSwap, 0, tExpHead.take 704, by decide, by decide, by decide⟩

set_option maxRecDepth 200000 in
theorem wit_CarrelCommands_2 : ∃ (s : State) (d : Line), (s.MgrReady) ∧ (dfld d 16 0 39 % 64 ≠ 0 ∨ domNamed s 64 (dfld d 16 0 39) 704 = false ∨ allocPoison s 64 (dfld d 16 0 39) 704 = true) :=
  ⟨tUp, 0, by decide, by decide⟩

set_option maxRecDepth 200000 in
theorem wit_CarrelCommands_3 : ∃ (s : State) (d : Line) (dom : Domain), (s.MgrReady) ∧ (getDom s (dfld d 16 0 6) = some dom) ∧ (dom.cfg.vfs = 0 ∧ dom.allocLog = none ∧ dom.destroyNext = none) ∧ (s.qps = [] ∧ s.regions = [] ∧ s.xl.ctxs = [] ∧ s.stages = [] ∧ s.col.comms = []) :=
  ⟨tSwap, 0, { Domain.new DomCfg.empty with suspended := true, quiesced := true }, by decide, by decide, by decide, by decide⟩

set_option maxRecDepth 200000 in
theorem wit_CarrelCommands_4 : ∃ (s : State) (d : Line), (s.MgrReady) ∧ (getDom s (dfld d 16 0 6) = none) :=
  ⟨tUp, 0, by decide, by decide⟩

set_option maxRecDepth 200000 in
theorem wit_CarrelCommands_5 : ∃ (s : State) (d : Line) (b : Bool) (i : Instr), (s.MgrReady) ∧ (i = (if b then .carrelSuspend d else .carrelResume d)) :=
  ⟨tSwap, 0, true, .carrelSuspend 0, by decide, by decide⟩

set_option maxRecDepth 200000 in
theorem wit_CarrelCommands_6 : ∃ (s : State) (d : Line) (dom : Domain), (s.MgrReady) ∧ (getDom s (dfld d 16 0 6) = some dom) :=
  ⟨tSwap, setFld 0 (32 * 8) 32 65536, { Domain.new DomCfg.empty with suspended := true, quiesced := true }, by decide, by decide⟩

set_option maxRecDepth 200000 in
theorem wit_CarrelCommands_7 : ∃ (s : State) (d : Line) (dom : Domain) (h body : List Byte) (x : Export) (c off : Nat), (s.MgrReady) ∧ (c = dfld d 16 0 6 ∧ off = dfld d 24 0 39) ∧ (getDom s c = some dom) ∧ (dom.suspended = true ∧ ownsObjects s c dom.cfg = false) ∧ (domNamed s 64 off 768 = true ∧ allocPoison s 64 off 768 = false) ∧ (rdAlloc s 64 off 768 = some h) ∧ (rangesFit dom.cfg (parseCarrel (h.drop 64)).2 = true ∧ bfld h 12 0 32 = 0 ∧ bfld h 0 0 8 = 1) ∧ (domNamed s 64 (off + bfld h 16 0 32) (bfld h 20 0 32) = true ∧ allocPoison s 64 (off + bfld h 16 0 32) (bfld h 20 0 32) = false) ∧ (rdAlloc s 64 (off + bfld h 16 0 32) (bfld h 20 0 32) = some body) ∧ (domNamed s 64 (off + bfld h 8 0 32) 0 = true ∧ allocPoison s 64 (off + bfld h 8 0 32) 0 = false ∧ (rdAlloc s 64 (off + bfld h 8 0 32) 0).isSome = true) ∧ (bodyOf s c dom.cfg body = x) ∧ ((crc32c body).toNat = bfld h 4 0 32) ∧ (bfld h 2 0 10 = myCoord s) :=
  ⟨tSwap, 0, { Domain.new DomCfg.empty with suspended := true, quiesced := true }, tExpHead, List.replicate 64 0, tExport, 0, 0, by decide, by decide, by decide, by decide, by decide, by decide, by decide, by decide, by decide, by decide, by decide, by decide, by decide⟩

set_option maxRecDepth 200000 in
theorem wit_CarrelCommands_8 : ∃ (s : State) (d : Line) (dom : Domain), (s.MgrReady) ∧ (getDom s (dfld d 16 0 6) = some dom) :=
  ⟨tSwap, setFld 0 256 39 4096, { Domain.new DomCfg.empty with suspended := true, quiesced := true }, by decide, by decide⟩

set_option maxRecDepth 200000 in
theorem wit_VfResetsAndShaping_1 : ∃ (s : State) (n : Nat), (s.Ready) ∧ (wfVf n = true) :=
  ⟨tUp, 3, by decide, by decide⟩

set_option maxRecDepth 200000 in
theorem wit_VfResetsAndShaping_2 : ∃ (s : State) (d : Line), (s.MgrReady) :=
  ⟨tUp, setFld 0 128 10 3, by decide⟩

set_option maxRecDepth 200000 in
theorem wit_VfResetsAndShaping_4 : ∃ (s : State) (n : Nat) (v : W64) (i : Instr), (s.BarReady) ∧ (wfVf n = true) ∧ (i = (if bitAt v 0 then .vfEnable n v else .vfDisable n v)) :=
  ⟨{ tUp with doms := [(0, Domain.new { DomCfg.empty with vfs := 4 })] }, 3, 1, .vfEnable 3 1, by decide, by decide, by decide⟩

set_option maxRecDepth 200000 in
theorem wit_VfResetsAndShaping_5 : ∃ (s : State) (n k : Nat), (s.Ready) ∧ (wfVf n = true) ∧ ((getFn s n).fence = some k ∧ (getFn s n).state = .quiescing ∧ (getFn s n).cleaned = true) ∧ (vfAnswered s n = true ∨ k * s.F + 14400000 ≤ s.now) ∧ ((getFn s n).waiters = []) :=
  ⟨{ tUp with fns := [(3, { Fn.reset 3 with state := .quiescing, fence := some 1, fenced := true, cleaned := true })] }, 3, 1, by decide, by decide, by decide, by decide, by decide⟩

set_option maxRecDepth 200000 in
theorem wit_VfResetsAndShaping_6 : ∃ (s : State) (n : Nat), (s.Ready) ∧ (wfVf n = true) ∧ ((getFn s n).fence = none ∨ (getFn s n).state ≠ .quiescing ∨ (getFn s n).cleaned = false) :=
  ⟨tUp, 3, by decide, by decide, by decide⟩

set_option maxRecDepth 200000 in
theorem wit_VfResetsAndShaping_7 : ∃ (s : State) (d : Line), (s.MgrReady) :=
  ⟨tUp, setFld 0 128 7 64, by decide⟩

set_option maxRecDepth 200000 in
theorem wit_VfResetsAndShaping_8 : ∃ (s : State) (d : Line) (q : Qp), (s.MgrReady) ∧ (getQp s (dfld d 16 0 20) = some q) :=
  ⟨tRts, setFld 0 128 20 1, tQp, by decide, by decide⟩

set_option maxRecDepth 200000 in
theorem wit_VfResetsAndShaping_9 : ∃ (s : State) (d : Line), (s.MgrReady) ∧ (getQp s (dfld d 16 0 20) = none) :=
  ⟨tUp, 0, by decide, by decide⟩

set_option maxRecDepth 200000 in
theorem wit_DumpsWindowsAndSamples_1 : ∃ (s : State) (d : Line), (s.MgrReady) :=
  ⟨tSwap, 0, by decide⟩

set_option maxRecDepth 200000 in
theorem wit_DumpsWindowsAndSamples_2 : ∃ (s : State), (s.Ready) :=
  ⟨tUp, by decide⟩

set_option maxRecDepth 200000 in
theorem wit_DumpsWindowsAndSamples_3 : ∃ (s : State) (skid : Nat), (s.Ready) :=
  ⟨{ tUp with cnt := { tUp.cnt with samples := [⟨9, 0, [⟨9, 0, 0, 0, 0, 0, 0, 0, 0⟩]⟩] } }, 0, by decide⟩

set_option maxRecDepth 200000 in
theorem wit_OwnerSvnCertificateAndFirmware_1 : ∃ (s : State) (d : Line) (bs : List Byte), (s.MgrReady) ∧ (readBlock s (dfld d 16 0 39) 7888 = some bs) :=
  ⟨tJob, 0, List.replicate 7888 0, by decide, rfl⟩

set_option maxRecDepth 200000 in
theorem wit_OwnerSvnCertificateAndFirmware_2 : ∃ (s : State) (d : Line) (b : Bool), (s.MgrReady) :=
  ⟨tUp, 0, true, by decide⟩

set_option maxRecDepth 200000 in
theorem wit_OwnerSvnCertificateAndFirmware_3 : ∃ (s : State) (d : Line), (s.MgrReady) :=
  ⟨tUp, 0, by decide⟩

set_option maxRecDepth 200000 in
theorem wit_OwnerSvnCertificateAndFirmware_4 : ∃ (s : State) (d : Line) (n : Nat) (h bs : List Byte) (b : Bool), (s.MgrReady) ∧ (readBlock s (dfld d 16 0 39) 4 = some h) ∧ (derLength h = some n) ∧ (readBlock s (dfld d 16 0 39) n = some bs) :=
  ⟨{ tJob with hbm := { tJob.hbm with cells := [(2 ^ 32, 0x30), (2 ^ 32 + 1, 0x82), (2 ^ 32 + 3, 2)] } }, 0, 6, [0x30, 0x82, 0, 2], [0x30, 0x82, 0, 2, 0, 0], true, by decide, rfl, by decide, rfl⟩

set_option maxRecDepth 200000 in
theorem wit_OwnerSvnCertificateAndFirmware_5 : ∃ (s : State) (d : Line) (img : List Byte), (s.MgrReady) ∧ (s.sec.staging = none ∧ dfld d 24 0 32 ≤ 15 * 2 ^ 20) ∧ (readBlock s (dfld d 16 0 39) (dfld d 24 0 32) = some img) :=
  ⟨tJob, setFld 0 192 32 4, [0, 0, 0, 0], by decide, by decide, rfl⟩

set_option maxRecDepth 200000 in
theorem wit_OwnerSvnCertificateAndFirmware_7 : ∃ (s : State), (s.Ready) :=
  ⟨{ tUp with sec := { tUp.sec with staging := some (none, 1, [1, 2]) } }, by decide⟩

set_option maxRecDepth 200000 in
theorem wit_OwnerSvnCertificateAndFirmware_8 : ∃ (s : State) (img : List Byte), (s.Ready) :=
  ⟨tUp, [1, 2], by decide⟩

set_option maxRecDepth 200000 in
theorem wit_OwnerSvnCertificateAndFirmware_9 : ∃ (s : State) (d : Line), (s.MgrReady) ∧ ((bootRec s).state 0 ≠ 2 ∧ (bootRec s).state 1 ≠ 2) :=
  ⟨tUp, 0, by decide, by decide⟩

set_option maxRecDepth 200000 in
theorem wit_OwnerSvnCertificateAndFirmware_10 : ∃ (s : State) (d : Line) (k : Nat), (s.MgrReady) ∧ (k ≤ 1 ∧ (bootRec s).state k = 2 ∧ (k = 1 → (bootRec s).state 0 ≠ 2)) :=
  ⟨{ tUp with sec := { tUp.sec with boot := [⟨1, 0, 1, 2⟩, ⟨0, 0, 0, 0⟩] } }, 0, 1, by decide, by decide⟩

set_option maxRecDepth 200000 in
theorem wit_SpdmRequests_1 : ∃ (s : State) (b : SpdmBus) (i : Instr) (n m k : Nat) (h a1 a2 a3 : Bool) (x : BitVec 256), (s.Ready) ∧ (spdmHeard s b = false) ∧ (i ∈ [Instr.spdmGetVersion b, .spdmGetCapabilities b, .spdmNegotiateAlgorithms b h a1 a2 a3, .spdmGetDigests b, .spdmGetCertificate b n m k, .spdmChallenge b n x, .spdmGetMeasurements b n x h, .spdmKeyExchange b n, .spdmFinish b n h, .spdmEndSession b n, .spdmHeartbeat b n]) :=
  ⟨{ tSpdm with glb := { tSpdm.glb with fwHalted := true } }, .mctp, .spdmGetDigests .mctp, 0, 0, 0, true, true, true, true, 0, by decide, by decide, by decide⟩

set_option maxRecDepth 200000 in
theorem wit_SpdmRequests_2 : ∃ (s : State) (b : SpdmBus) (i : Instr) (n m k : Nat) (h : Bool) (x : BitVec 256), (s.Ready) ∧ (spdmHeard s b = true) ∧ ((spdmAgreed s b).2.2 = false) ∧ (i ∈ [Instr.spdmGetDigests b, .spdmGetCertificate b n m k, .spdmChallenge b n x, .spdmGetMeasurements b n x h, .spdmKeyExchange b n, .spdmFinish b n h, .spdmEndSession b n, .spdmHeartbeat b n]) :=
  ⟨{ tSpdm with sec := { tSpdm.sec with spdmMctp := (true, true, false) } }, .mctp, .spdmGetDigests .mctp, 0, 0, 0, true, 0, by decide, by decide, by decide, by decide⟩

set_option maxRecDepth 200000 in
theorem wit_SpdmRequests_3 : ∃ (s : State) (b : SpdmBus) (h a1 a2 a3 : Bool), (s.Ready) ∧ (spdmHeard s b = true) :=
  ⟨tSpdm, .mctp, true, true, true, true, by decide, by decide⟩

set_option maxRecDepth 200000 in
theorem wit_SpdmRequests_4 : ∃ (s : State) (b : SpdmBus) (n o l id : Nat) (x : BitVec 256) (ok : Bool), (s.Ready) ∧ (spdmHeard s b = true) ∧ ((spdmAgreed s b).2.2 = true) :=
  ⟨tSpdm, .mctp, 0, 0, 1, 5, 3, true, by decide, by decide, by decide⟩

set_option maxRecDepth 200000 in
theorem wit_SpdmRequests_6 : ∃ (s : State) (b : SpdmBus) (id : Nat) (x : Session), (s.Ready) ∧ (spdmHeard s b = true) ∧ ((spdmAgreed s b).2.2 = true) ∧ (getSession s b id = some x) :=
  ⟨{ tSpdm with sec := { tSpdm.sec with sessions := [⟨3, .mctp, false⟩] } }, .mctp, 3, ⟨3, .mctp, false⟩, by decide, by decide, by decide, by decide⟩

set_option maxRecDepth 200000 in
theorem wit_SpdmRequests_7 : ∃ (s : State) (l : List SpdmReq), (s.Ready) ∧ (l = (match s.sec.signing with | some (.spdm r) => (if r.code = 0 then [] else [r]) | _ => []) ++ s.sec.spdmQ) :=
  ⟨{ tSpdm with sec := { tSpdm.sec with spdmQ := [⟨.mctp, 3, [], 0⟩] } }, [⟨.mctp, 3, [], 0⟩], by decide, by decide⟩

set_option maxRecDepth 200000 in
theorem wit_CodexCommands_1 : ∃ (s : State) (g : Gtc), (s.codex.resumed = true) ∧ (codexWhen s = some g) :=
  ⟨{ tUp with codex := { tUp.codex with resumed := true, freeAt := 7, queue := [⟨5, 0x30, 0x52, 255, false, false, 0, 0, 0⟩] } }, 7, by decide, by decide⟩

set_option maxRecDepth 200000 in
theorem wit_CodexCommands_4 : ∃ (s : State), (s.Ready) ∧ (s.codex.resumed = false ∨ (s.codex.queue = [] ∧ s.codex.handed = [])) :=
  ⟨tUp, by decide, by decide⟩

set_option maxRecDepth 200000 in
theorem wit_CodexCommands_5 : ∃ (s : State), (s.Ready) :=
  ⟨tUp, by decide⟩

set_option maxRecDepth 200000 in
theorem wit_CodexCommands_6 : ∃ (s : State) (d : Line), (s.MgrReady) :=
  ⟨tUp, 0, by decide⟩

set_option maxRecDepth 200000 in
theorem wit_CodexCommands_7 : ∃ (s : State) (d : Line), (s.MgrReady) ∧ (readBlock s (dfld d 16 0 39) 7888 = none) :=
  ⟨tUp, 0, by decide, by decide⟩

set_option maxRecDepth 200000 in
theorem wit_CodexCommands_8 : ∃ (s : State) (d : Line) (bs : List Byte), (s.MgrReady) ∧ (readBlock s (dfld d 16 0 39) 7888 = some bs) :=
  ⟨tJob, 0, List.replicate 7888 0, by decide, rfl⟩

set_option maxRecDepth 200000 in
theorem wit_CodexCommands_9 : ∃ (s : State) (f n : Nat), (s.Ready) :=
  ⟨tUp, 0, 4, by decide⟩

set_option maxRecDepth 200000 in
theorem wit_RegisterAccess_1 : ∃ (s : State) (fn off w : Nat) (v : W64), (s.Alive) ∧ (wfFn fn = true ∧ wfOffset off = true ∧ w ∈ [1, 2, 4, 8]) ∧ (barUp s = false ∨ s.glb.initDone = false) :=
  ⟨{ tUp with cxl := { tUp.cxl with linkUp := false } }, 0, 0x100020, 8, 1, by decide, by decide, by decide⟩

set_option maxRecDepth 200000 in
theorem wit_RegisterAccess_2 : ∃ (s : State) (off w : Nat) (v : W64), (s.Alive) ∧ (barUp s = true ∧ s.glb.initDone = true ∧ s.glb.fatal = false) ∧ (wfOffset off = true ∧ inBlocks off = true ∧ w ∈ [1, 2, 4, 8]) ∧ (w ≠ 8 ∨ off % 8 ≠ 0) :=
  ⟨tUp, 0x100020, 4, 1, by decide, by decide, by decide, by decide⟩

set_option maxRecDepth 200000 in
theorem wit_RegisterAccess_3 : ∃ (s : State) (v : W64), (s.Alive) ∧ (barUp s = true ∧ s.glb.initDone = true ∧ s.glb.fatal = false) :=
  ⟨tUp, 0xFFFF, by decide, by decide⟩

set_option maxRecDepth 200000 in
theorem wit_RegisterAccess_5 : ∃ (s : State) (off : Nat), (s.Alive) :=
  ⟨tUp, 0x100000, by decide⟩

set_option maxRecDepth 200000 in
theorem wit_RegisterAccess_6 : ∃ (s : State) (off : Nat), (inBlocks off = true) :=
  ⟨tUp, 0x110010, by decide⟩

set_option maxRecDepth 200000 in
theorem wit_RegisterAccess_7 : ∃ (s : State) (off : Nat) (v : W64) (pec : Bool), (s.Alive) :=
  ⟨tUp, 0x110000, 5, true, by decide⟩

set_option maxRecDepth 200000 in
theorem wit_RegisterAccess_8 : ∃ (s : State) (v : W64), (s.cyc.mgmt = [(0x100020, v)]) :=
  ⟨{ tUp with cyc := { tUp.cyc with mgmt := [(0x100020, 3)] } }, 3, by decide⟩

set_option maxRecDepth 200000 in
theorem wit_RegisterAccess_9 : ∃ (s t : State) (off : Nat), (t = { s with keys := s.keys.map fun e => (e.1, { e.2 with key := 0 }) }) :=
  ⟨tUp, { tUp with keys := tUp.keys.map fun e => (e.1, { e.2 with key := 0 }) }, 0x1E0000, by decide⟩


/-! ## Operands that name no unit are refused (one per check of WellFormed.lean) -/

theorem test_refuses_function : exec (.doorbellProducer 513 0 0) State.reset = .refused .illFormed := rfl
theorem test_refuses_doorbell : exec (.doorbellConsumer 0 65536 0) State.reset = .refused .illFormed := rfl
theorem test_refuses_index : exec (.doorbellConsumerArm 0 0 (2 ^ 32)) State.reset = .refused .illFormed := rfl
theorem test_refuses_vf : exec (.vfFlr 0) State.reset = .refused .illFormed := rfl
theorem test_refuses_lattice_port : exec (.stepAnnounce 8 1 1) State.reset = .refused .illFormed := rfl
theorem test_refuses_plane : exec (.absorptionAgeing 2) State.reset = .refused .illFormed := rfl
theorem test_refuses_near_port : exec (.nptEnableWrite 4 0) State.reset = .refused .illFormed := rfl
theorem test_refuses_optical_engine : exec (.laserLow 16) State.reset = .refused .illFormed := rfl
theorem test_refuses_mac : exec (.pauseFrame 16 0) State.reset = .refused .illFormed := rfl
theorem test_refuses_priority : exec (.pauseTimerExpiry 0 8) State.reset = .refused .illFormed := rfl
theorem test_refuses_qp : exec (.recv 0 0) State.reset = .refused .illFormed := rfl
theorem test_refuses_stack : exec (.hbmStackFailure 6) State.reset = .refused .illFormed := rfl
theorem test_refuses_engine_bit : exec (.engineCheckFailure 56) State.reset = .refused .illFormed := rfl
theorem test_refuses_source : exec (.controlStateUncorrectable 4096) State.reset = .refused .illFormed := rfl
theorem test_refuses_offset : exec (.registerWrite 0 0x2000000 8 0) State.reset = .refused .illFormed := rfl
theorem test_refuses_link : exec (.dlUp 3 4 true) State.reset = .refused .illFormed := rfl
theorem test_faults_granule : exec (.granuleZeroFillDone 288) State.reset = .fault .noSuchMemory := rfl
theorem test_faults_line : exec (.bridgeWordError true (some (288 * 2 ^ 24))) State.reset = .fault .noSuchMemory := rfl

/-! ## The worked examples of the spec -/

/-- The tick of R12's example: GTC 1,228,800 is tick 25 (01, example). -/
theorem test_tick_25 : ({ State.reset with time := { State.reset.time with gtc := 1228800, tick := 25 } } : State).folio = 25 := by decide
/-- One pair of survey stamps (02, example): θ is 40 units and δ 480, here in sixteenths. -/
theorem test_survey_offset : meanOf [pairOf State.reset 0 1000000 1000520 1003000 1003440] = some (640, 7680) := by decide
/-- A link of 30 ns has LAG 92 (06, example). -/
theorem test_lag_92 : lagFor 7680 = 92 := by decide
/-- Stream index 1000 of a ring of 256 entries is slot 232 (03, example). -/
theorem test_slot_232 : ({ (Ring.none_ 0) with cDev := 1000, log2 := 8 } : Ring).slotAddr = 64 * 232 := by decide
/-- Index 1000 of a CQ of 1024 carries PHASE 1 and the next pass 0 (03, example). -/
theorem test_phase : phaseOf 1000 10 = 1 ∧ phaseOf 2024 10 = 0 := by decide
set_option maxRecDepth 200000 in
/-- With E 4090, sequence 5 is pending and 2100 delivered (04, example). -/
theorem test_classify : classify { tQp with e := 4090 } 5 = .pending ∧ classify { tQp with e := 4090 } 2100 = .delivered := by decide
/-- A SEND of 10,000,000 bytes is 156,253 cells (04, example), a WRITE of 262,144 bytes 4097 (06, example). -/
theorem test_message_cells : messageCells 10000000 = 156253 ∧ messageCells 262144 = 4097 := by decide
/-- The header bytes of the DATA cell of 05's example. -/
theorem test_lattice_header :
    bytesOf (setFld (latHdr 2 0 1 0xB4 false false 0x3C3 0x1234 0x7FF 0x100 false) 8 4 3) =
      [0x42, 0x03, 0xB4, 0x30, 0x3C, 0x8D, 0x04, 0xFC, 0x1F, 0x40, 0x00, 0x00] := by decide
/-- From (3, 30) to (20, 5) in 32 × 32 the ports X- and Y+ are productive and the route is 22 hops (05, example). -/
theorem test_productive : prodDim 32 3 20 = (false, true) ∧ prodDim 32 30 5 = (true, false) ∧ distDim 32 3 20 + distDim 32 30 5 = 22 := by decide
/-- At half the dimension both directions are productive (05, example). -/
theorem test_productive_half : prodDim 8 0 4 = (true, true) := by decide
set_option maxRecDepth 200000 in
/-- 100 of 400 cells marked take R from 8192 to 8128; 400 of 400 later take 8192 to 7876 (05, example). -/
theorem test_congestion :
    (rateOnAck State.reset { tQp with rateR := 8192, alpha := 0, decreased := false } 100 400).rateR = 8128 ∧
    (rateOnAck State.reset { tQp with rateR := 8192, alpha := 1024, decreased := false } 400 400).rateR = 7876 := by decide
/-- BASE 2000 with a cycle of 16 accepted in folio 2003 starts at 2016 (06, example). -/
theorem test_start_tick : startTick 2000 16 2003 = 2016 := by decide
/-- An I4.B32 image of 1000 elements is 544 bytes, and 544 bytes are 32 blocks (07, example). -/
theorem test_image_length : (fmtOf 0).map (fun f => (f.lenImage 1000, f.countOf 544)) = some (544, some 1024) := by decide
/-- The I8.B32 block of 07's example in I4.B32: E8 125 and elements 4, -1, 2, 2. -/
theorem test_convert : (fmtOf 0).map (fun f => convBlock f [some (127, -7), some (-37, -7), some (80, -7), some (48, -7)]) =
    some ⟨125, [4, -1, 2, 2], false, false⟩ := by decide
/-- The sum of 07's example: anchor 85, S = -2,370,821,943,328, rounded to E8 120 and element -69. -/
theorem test_reduction : (fmtOf 5).map (fun f => (anchor f 121 2, [(100, 118), (-50, 121), (3, 121), (127, 90)].foldl (fun (n : Int) (x : Int × Nat) => n + contribution x.1 x.2 85) 0,
    convBlock f [some (-2370821943328, -42)])) = some (85, -2370821943328, ⟨120, [-69], false, false⟩) := by decide
set_option maxRecDepth 200000 in
/-- The third increment releases the pair of 08's example, the second does not. -/
theorem test_trigger :
    ((1 + 2 ^ 32 - 1) % 2 ^ 32 < 2 ^ 31) ∧
    (trigCycle (trigAdd { tRts with trig := [(40, 0xFFFFFFFE)] } 40 3)).trig = [(40, 1)] := by decide
/-- A member of a GRID of 4 × 2 with 2 slots owns pieces of 8192 elements (08, example). -/
theorem test_piece : pieceLen { tComm with xc := 4, yc := 2, slots := 2 } = 8192 := by decide
/-- The FMT cycles of 09's example: carrel 9 takes 4000, carrel 3 20,184 and carrel 12 26,912. -/
theorem test_engine_shares : share 3 51096 [(3, 3, 51096), (9, 1, 4000), (12, 4, 30000)] = [(9, 4000), (3, 20184), (12, 26912)] := by decide
/-- Table 9.4: the pieces of J1 to J10. -/
theorem test_engine_places : placeJobs 6387 [0, 1, 2, 3, 4, 5, 6, 7] 0 0
      [(1, 6387), (2, 6387), (3, 6387), (4, 1023), (5, 4000), (6, 6387), (7, 6387), (8, 6387), (9, 6387), (10, 1364)] =
    [(1, [(0, 0, 6387)]), (2, [(1, 0, 6387)]), (3, [(2, 0, 6387)]), (4, [(3, 0, 1023)]), (5, [(3, 1023, 5023)]),
     (6, [(4, 0, 5023), (3, 5023, 6387)]), (7, [(5, 0, 5023), (4, 5023, 6387)]), (8, [(6, 0, 5023), (5, 5023, 6387)]),
     (9, [(7, 0, 5023), (6, 5023, 6387)]), (10, [(7, 5023, 6387)])] := by decide
/-- The header bytes of 11's example: a masked WRITE with tag 0x2A5 and 5 RSP credits. -/
theorem test_zuquin_header : bytesOf (zHdr 10 0 0 1 5 0x2A5 0x123456780040 1 8 63 false) =
    [0x0A, 0x54, 0xA5, 0x12, 0x00, 0x9E, 0x15, 0x8D, 0x04, 0x40, 0x20, 0x3F] := by decide
/-- A CLASS 1 READ of 64 lines over 20 ns is late 13,696 units after it left (11, example). -/
theorem test_read_bound : ({ tNearReq with cls := 1, lines := 64, issued := 1000 } : NearReq).bound 320 = 1000 + 13696 := by decide
/-- The frame capacity of 13's example is capped at 112 cells. -/
theorem test_cmax : cmax 9216 true true = 112 ∧ (9216 - 18 - 4 - 40 - 8 - 4) / 80 = 114 := by decide
/-- Offsets of a granule list with a hole (16, example). -/
theorem test_granules : allocPhys { tCfg with granules := [40, 41, 0xFFFF, 90] } 0xC0001000 = some (90 * 2 ^ 30 + 0x1000) ∧
    allocPhys { tCfg with granules := [40, 41, 0xFFFF, 90] } 0x80000200 = none := by decide
/-- The costs of 17's example. -/
theorem test_wfq_cost : wfqCost 1 3 = 5592405 ∧ wfqCost 1 1 = 16777216 := by decide
set_option maxRecDepth 200000 in
/-- KEY_LOAD_CTL of 22's example reads back without GO, at the example's address. -/
theorem test_key_load_readback :
    (match exec (.registerWrite 0 0x1E0000 8 0x100090D05DC) tUp with | .next t => some (blockReg t 0x1E 0) | _ => none) = some 0x090D05DC := by decide
/-- GLB_STATUS of 23's example over the management bus: five bits set and 284 granules ready. -/
theorem test_glb_status : mgmtValue { tUp with glb := { tUp.glb with ready := 284 } } 0x100008 = 0x11C001F := by decide
set_option maxRecDepth 200000 in
/-- CAR_VF[37] lies at the address of 22's example and reads the function's state. -/
theorem test_car_vf_address : blockReg { tUp with fns := [(37, { (Fn.reset 37) with state := .enabled, enable := true })] } 0x1A 0x1120 &&& 7 = 3 := by decide

/-! ## Known answers of the standards the spec names -/

set_option maxRecDepth 200000 in
/-- The check value of CRC-32C, set 0x0 of R292, over "123456789" (the CRC catalogue's). -/
theorem test_crc32c : (fixedSet 0).map (fun c => crcResult c (crcRun c c.init [0x31, 0x32, 0x33, 0x34, 0x35, 0x36, 0x37, 0x38, 0x39])) = some 0xE3069283 := by decide
set_option maxRecDepth 200000 in
/-- CRC-24/OPENPGP, set 0xB, over the same bytes. -/
theorem test_crc24 : (fixedSet 0xB).map (fun c => crcResult c (crcRun c c.init [0x31, 0x32, 0x33, 0x34, 0x35, 0x36, 0x37, 0x38, 0x39])) = some 0x21CF02 := by decide
set_option maxRecDepth 200000 in
/-- AES S-box of 0x53 (FIPS 197). -/
theorem test_sbox : sbox 0x53 = 0xED := by decide

/-! ## A step and the queue -/

theorem test_step_takes_the_front :
    (match step { State.reset with pending := [.zuquinIdle 0 (zCell 0 0), .thermalTrip] } with | .next t => some t.pending | _ => none) = some [.thermalTrip] := by decide
theorem test_idle_cycle : (match step tUp with | .next t => some t.now | _ => none) = some 12 := by decide
end

section
/-! PROOFS. Register accesses: what a write of a register over PF0's BAR and over the management bus does to the state,
what a register reads as, and that no register shows the bytes of a key (R4, R15, R518, R522, R523, R525, R534, R535). -/

namespace Sys2Proof.Machine

/-! ## The W1C bits a write may still clear (R525) -/

/-- Taking bits that `p` holds out of a word leaves its other bits. -/
theorem bitAt_foldl_clear (p : Nat → Bool) (bs : List Nat) (v : W64) (i : Nat) :
    bitAt (bs.foldl (fun v b => if p b then v &&& ~~~(1#64 <<< b) else v) v) i = (bitAt v i && !(bs.contains i && p i)) := by
  induction bs generalizing v with
  | nil => simp
  | cons b bs ih =>
    have clear : bitAt (v &&& ~~~(1#64 <<< b)) i = (bitAt v i && !decide (i = b)) := by
      by_cases hi : i < 64
      · by_cases hb : i < b
        · simp [bitAt, hi, hb, Nat.ne_of_lt hb]
        · have : i - b = 0 ↔ i = b := by omega
          simp [bitAt, hi, hb, this]
      · simp [bitAt, BitVec.getLsbD_of_ge v i (Nat.le_of_not_lt hi)]
    rw [List.foldl_cons, ih]
    by_cases hib : i = b
    · subst hib
      cases hp : p i <;> simp [clear]
    · cases hp : p b <;> simp [clear, hib]

theorem bitAt_unmarked (s : State) (reg : Nat) (v : W64) (i : Nat) :
    bitAt (unmarked s reg v) i = (bitAt v i && !((w1cBits reg).contains i && s.cyc.sticky.contains (reg, i))) :=
  bitAt_foldl_clear (fun b => s.cyc.sticky.contains (reg, b)) (w1cBits reg) v i

/-- A register without W1C bits takes the word as it is written. -/
theorem unmarked_of_no_w1c (s : State) (reg : Nat) (v : W64) (h : w1cBits reg = []) : unmarked s reg v = v := by
  simp [unmarked, h]

/-! ## A write of a block register, register by register (R4, R15, R523) -/

theorem blockWrite_glbErrCfg (s : State) (v : W64) :
    blockWrite s 0x10 0x20 v = modGlb s fun g => { g with errCfg := v &&& 0xFF01 } := by
  show glbWrite s 0x20 (unmarked s 0x100020 v) = _
  rw [unmarked_of_no_w1c s _ v (by decide)]
  rfl

theorem blockWrite_calCfg (s : State) (v : W64) :
    blockWrite s 0x12 0 v = { s with calCfg := s.calCfg.write (v &&& 0x7FFFFFFFF) } := by
  show calWrite s 0 (unmarked s 0x120000 v) = _
  rw [unmarked_of_no_w1c s _ v (by decide)]
  rfl

theorem blockWrite_latCcCfg (s : State) (v : W64) :
    blockWrite s 0x14 0x10 v = modLat s fun l => { l with ccCfg := l.ccCfg.write (v &&& 0x1FFFFFFFFFFFF) } := by
  show latRegWrite s 0x10 (unmarked s 0x140010 v) = _
  rw [unmarked_of_no_w1c s _ v (by decide)]
  rfl

theorem blockWrite_cxlStatus (s : State) (v : W64) :
    blockWrite s 0x18 8 v = modCxl s fun c => { c with
      lossSeen := c.lossSeen && !bitAt (unmarked s 0x180008 v) 2, retrainSeen := c.retrainSeen && !bitAt (unmarked s 0x180008 v) 3,
      ideFail := c.ideFail && !bitAt (unmarked s 0x180008 v) 4 } := rfl

theorem blockWrite_secPolicy (s : State) (v : W64) :
    blockWrite s 0x20 8 v = { s with sec := { s.sec with policy := v &&& 0x1FF } } := by
  show modSec s (fun x => { x with policy := unmarked s 0x200008 v &&& 0x1FF }) = _
  rw [unmarked_of_no_w1c s _ v (by decide)]
  rfl

/-- SEC has no register at 0x10: the write is ignored (R522). -/
theorem blockWrite_secUnnamed (s : State) (v : W64) : blockWrite s 0x20 0x10 v = s := rfl

/-! ## Accesses that leave HBM and the queue alone -/

/-- `t` has the HBM and the queue of `s`, and no more to write or wipe than `s`: what `commit` settles is as it was. -/
abbrev State.StoreKept (s t : State) : Prop := t.wlog = s.wlog ∧ t.wipe = s.wipe ∧ t.hbm = s.hbm ∧ t.pending = s.pending

theorem writeAct_storeKept (s t : State) (f : State → State) (h : s.Alive) (ht : f s = t) (hk : s.StoreKept t) :
    writeAct s f = .next t := by
  obtain ⟨hw, hp, hm, hq⟩ := hk
  obtain ⟨noWrite, noWipe⟩ := h.2
  rw [writeAct_alive s f h, ht, commit_plain s t (hw.trans noWrite) (hp.trans noWipe) hm hq]

theorem hostAct_storeKept (s t : State) (f : State → State) (h : s.Alive) (ht : f s = t) (hk : s.StoreKept t)
    (hc : t.time = s.time) : hostAct s f = .next t := by
  obtain ⟨hw, hp, hm, hq⟩ := hk
  obtain ⟨noWrite, noWipe⟩ := h.2
  rw [hostAct_alive s f h, ht,
    commitNow_plain s t (hw.trans noWrite) (hp.trans noWipe) hm hq ⟨by rw [hc], by rw [hc], by rw [hc], by rw [hc]⟩]

/-! ## REGISTER_WRITE over a BAR (R507, R518, R522, R523) -/

/-- PF0 writes reach the block: its BAR is up, INIT_DONE stands and it is not fatal (R390, R507, R518). -/
abbrev State.Pf0Writes (s : State) : Prop := barUp s = true ∧ s.glb.initDone = true ∧ s.glb.fatal = false

/-- A write over a BAR, its operands well formed, leaves what `barWrite` makes of the state. -/
theorem exec_registerWrite_eq (s t : State) (fn off w : Nat) (v : W64) (h : s.Alive) (hf : wfFn fn = true)
    (ho : wfOffset off = true) (hw : w ∈ [1, 2, 4, 8]) (ht : barWrite s fn off w v = t) (hk : s.StoreKept t) :
    exec (.registerWrite fn off w v) s = .next t := by
  have width : (w = 1 || w = 2 || w = 4 || w = 8) = true := by simpa [or_assoc] using hw
  show execRegisterWrite fn off w v s = _
  rw [execRegisterWrite, hf, ho, width, Bool.and_self, Bool.and_self, need_true]
  exact writeAct_storeKept s t _ h ht hk

theorem barWrite_unreachable (s : State) (fn off w : Nat) (v : W64) (h : barUp s = false ∨ s.glb.initDone = false) :
    barWrite s fn off w v = s := by
  rcases h with h | h <;> simp [barWrite, h]

theorem barWrite_pf0 (s : State) (off w : Nat) (v : W64) (h : s.Pf0Writes) : barWrite s 0 off w v = bar0Write s off w v := by
  obtain ⟨up, done, sound⟩ := h
  simp [barWrite, up, done, sound]

/-- The blocks lie behind PF0's doorbells and MSI-X table, below 32 MiB (Table 22.1). -/
theorem inBlocks_range {off : Nat} (h : inBlocks off = true) : 0x100000 ≤ off ∧ off < 0x220000 := by
  simpa [inBlocks] using h

theorem bar0Write_narrow (s : State) (off w : Nat) (v : W64) (h : inBlocks off = true) (hn : w ≠ 8 ∨ off % 8 ≠ 0) :
    bar0Write s off w v = narrowSeen s off := by
  have range := inBlocks_range h
  have bell : ¬ off < 0x80000 := by omega
  have msix : ¬ off < 0x88000 := by omega
  simp [bar0Write, bell, msix, h, hn]

theorem bar0Write_block (s : State) (off : Nat) (v : W64) (h : inBlocks off = true) (ha : off % 8 = 0) :
    bar0Write s off 8 v = blockWrite s (off / 0x10000) (off % 0x10000) v := by
  have range := inBlocks_range h
  have bell : ¬ off < 0x80000 := by omega
  have msix : ¬ off < 0x88000 := by omega
  simp [bar0Write, bell, msix, h, ha]

/-- An aligned 8-byte write of a block register through PF0 acts on that register. -/
theorem exec_registerWrite_block (s t : State) (off : Nat) (v : W64) (h : s.Alive) (hb : s.Pf0Writes) (hi : inBlocks off = true)
    (ha : off % 8 = 0) (ht : blockWrite s (off / 0x10000) (off % 0x10000) v = t) (hk : s.StoreKept t) :
    exec (.registerWrite 0 off 8 v) s = .next t := by
  have ho : wfOffset off = true := by
    have range := inBlocks_range hi
    simp only [wfOffset, decide_eq_true_eq]
    omega
  have hr : barWrite s 0 off 8 v = t := by rw [barWrite_pf0 s off 8 v hb, bar0Write_block s off v hi ha, ht]
  exact exec_registerWrite_eq s t 0 off 8 v h (by decide) ho (by decide) hr hk

/-! ## The management bus (R535, R553) -/

theorem mgmtBad_iff (off : Nat) : mgmtBad off = true ↔ off % 8 ≠ 0 ∨ 2 ^ 25 ≤ off := by simp [mgmtBad]

theorem readEffect_eq_or (s : State) (off : Nat) :
    readEffect s off = s ∨ readEffect s off = modCodex (mark s 0x210000 46) fun c => { c with readMiss := true } := by
  unfold readEffect
  split
  · exact .inr rfl
  · exact .inl rfl

/-- A read over the management bus touches neither HBM, nor the queue, nor the clock. -/
theorem mgmtRead_frame (s : State) (off : Nat) : s.StoreKept (mgmtRead s off) ∧ (mgmtRead s off).time = s.time := by
  unfold mgmtRead
  split
  · exact ⟨⟨rfl, rfl, rfl, rfl⟩, rfl⟩
  · rcases readEffect_eq_or s off with e | e <;> rw [e] <;> exact ⟨⟨rfl, rfl, rfl, rfl⟩, rfl⟩

theorem exec_mgmtRegRead_eq (s : State) (off : Nat) (h : s.Alive) : exec (.mgmtRegRead off) s = .next (mgmtRead s off) :=
  hostAct_storeKept s _ (fun s => mgmtRead s off) h rfl (mgmtRead_frame s off).1 (mgmtRead_frame s off).2

theorem mgmtRead_eq (s : State) (off : Nat) :
    mgmtRead s off = if off % 8 ≠ 0 ∨ 2 ^ 25 ≤ off then emit (narrowSeen s off) (.mgmtData 0)
      else emit (readEffect s off) (.mgmtData (mgmtValue s off)) := by
  simp only [mgmtRead, mgmtBad_iff]

/-- GLB answers whatever the block's state. -/
theorem mgmtValue_glb (s : State) (off : Nat) (h : inBlocks off = true) (hb : off / 65536 = 0x10) :
    mgmtValue s off = glbReg s (off % 65536) := by
  simp [mgmtValue, h, hb]

/-- A block other than GLB and CDX answers its register, or 0 in the fatal state and before INIT_DONE (R507, R518). -/
theorem mgmtValue_other (s : State) (off : Nat) (h : inBlocks off = true) (hg : off / 65536 ≠ 0x10) (hc : off / 65536 ≠ 0x21) :
    mgmtValue s off = if s.glb.fatal || !s.glb.initDone then 0 else blockReg s (off / 65536) (off % 65536) := by
  simp [mgmtValue, h, hg, hc]

/-- A write over the management bus leaves what `mgmtWrite` makes of the state. -/
theorem exec_mgmtRegWrite_eq (s t : State) (off : Nat) (v : W64) (pec : Bool) (h : s.Alive) (ht : mgmtWrite s off v pec = t)
    (hk : s.StoreKept t) : exec (.mgmtRegWrite off v pec) s = .next t :=
  writeAct_storeKept s t (fun s => mgmtWrite s off v pec) h ht hk

theorem mgmtWrite_bad_pec (s : State) (off : Nat) (v : W64) (h : s.pkg.mgmtMode = false) : mgmtWrite s off v false = s := by
  simp [mgmtWrite, h]

theorem mgmtWrite_not_writable (s : State) (off : Nat) (v : W64) (ha : off % 8 = 0) (hr : off < 2 ^ 25)
    (hn : off ∉ [0x100020, 0x100028, 0x100030, 0x210000, 0x210010]) : mgmtWrite s off v true = mgmtIgnoredWrite s off := by
  have aligned : mgmtBad off = false := by
    rw [Bool.eq_false_iff, Ne, mgmtBad_iff]
    omega
  have unwritable : mgmtWritable off = false := by simpa [mgmtWritable] using hn
  simp [mgmtWrite, aligned, unwritable]

/-- GLB_ERR_CFG and GLB_STATUS wait for the end of the cycle, behind the BAR0 writes of it (R535). -/
theorem mgmtWrite_waits (s : State) (off : Nat) (v : W64) (h : off ∈ [0x100020, 0x100030]) :
    mgmtWrite s off v true = modCyc s fun c => { c with mgmt := c.mgmt ++ [(off, v)] } := by
  have named : off = 0x100020 ∨ off = 0x100030 := by simpa using h
  rcases named with rfl | rfl <;> rfl

theorem mgmtCycle_singleton (s : State) (off : Nat) (v : W64) (h : s.cyc.mgmt = [(off, v)]) :
    mgmtCycle s = blockWrite (modCyc s fun c => { c with mgmt := [] }) (off / 0x10000) (off % 0x10000) v := by
  simp only [mgmtCycle, h, List.foldl_cons, List.foldl_nil]

/-! ## No register shows a key (R534) -/

/-- The state whose key slots hold zero bytes instead of their keys, and all else as before. -/
def State.withoutKeyBytes (s : State) : State := { s with keys := s.keys.map fun e => (e.1, { e.2 with key := 0 }) }

theorem lookup_map_value {α β : Type} (t : Tbl α) (f : α → β) (k : Nat) :
    List.lookup k (t.map fun e => (e.1, f e.2)) = (List.lookup k t).map f := by
  induction t with
  | nil => rfl
  | cons e t ih =>
    rw [List.map_cons, List.lookup_cons, List.lookup_cons, ih]
    cases k == e.1 <;> rfl

/-- KEY_SLOT_INFO is made of a slot's kind, owner and check value (Table 10.1). -/
theorem slotInfo_withoutKeyBytes (s : State) (slot : Nat) : slotInfo s.withoutKeyBytes slot = slotInfo s slot := by
  have held : s.withoutKeyBytes.keys.lookup slot = (s.keys.lookup slot).map fun k => { k with key := 0 } :=
    lookup_map_value (β := KeySlot) s.keys (fun k => { k with key := 0 }) slot
  have pool : slotCarrel s.withoutKeyBytes slot = slotCarrel s slot := rfl
  simp only [slotInfo, held, pool]
  cases s.keys.lookup slot <;> rfl

theorem keyReg_withoutKeyBytes (s : State) (o : Nat) : keyReg s.withoutKeyBytes o = keyReg s o := by
  have load : s.withoutKeyBytes.keyLoad = s.keyLoad := rfl
  simp only [keyReg, load, slotInfo_withoutKeyBytes]

/-- KEY is the only block that looks at the key slots. -/
theorem blockReg_withoutKeyBytes (s : State) (b o : Nat) : blockReg s.withoutKeyBytes b o = blockReg s b o := by
  unfold blockReg
  split -- 0x1E is the fifteenth block
  case h_15 => exact keyReg_withoutKeyBytes s o
  all_goals rfl

theorem mgmtValue_withoutKeyBytes (s : State) (off : Nat) : mgmtValue s.withoutKeyBytes off = mgmtValue s off := by
  have glb : glbReg s.withoutKeyBytes (off % 0x10000) = glbReg s (off % 0x10000) := rfl
  have cdx : cdxReg s.withoutKeyBytes (off % 0x10000) = cdxReg s (off % 0x10000) := rfl
  have state : s.withoutKeyBytes.glb = s.glb ∧ s.withoutKeyBytes.codex = s.codex := ⟨rfl, rfl⟩
  simp only [mgmtValue, glb, cdx, state, blockReg_withoutKeyBytes]

/-- Settles O60: each access is one of the cases above, and a register reads the same with the key bytes taken out. -/
theorem registerAccess : Obligations.RegisterAccess := by
  unfold Obligations.RegisterAccess
  refine ⟨?unreachable, ?narrow, ?block, ?w1c, ?read, ?value, ?write, ?cycle, ?keys⟩
  case unreachable =>
    intro s fn off w v h ⟨hf, ho, hw⟩ hb
    exact exec_registerWrite_eq s s fn off w v h hf ho hw (barWrite_unreachable s fn off w v hb) ⟨rfl, rfl, rfl, rfl⟩
  case narrow =>
    intro s off w v h hb ⟨ho, hi, hw⟩ hn
    have ht : barWrite s 0 off w v = narrowSeen s off := (barWrite_pf0 s off w v hb).trans (bar0Write_narrow s off w v hi hn)
    exact exec_registerWrite_eq s _ 0 off w v h (by decide) ho hw ht ⟨rfl, rfl, rfl, rfl⟩
  case block =>
    intro s v h hb
    refine ⟨?_, ?_, ?_, ?_, ?_, ?_⟩
    · exact exec_registerWrite_block s _ 0x100020 v h hb (by decide) (by decide) (blockWrite_glbErrCfg s v) ⟨rfl, rfl, rfl, rfl⟩
    · exact exec_registerWrite_block s _ 0x120000 v h hb (by decide) (by decide) (blockWrite_calCfg s v) ⟨rfl, rfl, rfl, rfl⟩
    · exact exec_registerWrite_block s _ 0x140010 v h hb (by decide) (by decide) (blockWrite_latCcCfg s v) ⟨rfl, rfl, rfl, rfl⟩
    · exact exec_registerWrite_block s _ 0x180008 v h hb (by decide) (by decide) (blockWrite_cxlStatus s v) ⟨rfl, rfl, rfl, rfl⟩
    · exact exec_registerWrite_block s _ 0x200008 v h hb (by decide) (by decide) (blockWrite_secPolicy s v) ⟨rfl, rfl, rfl, rfl⟩
    · exact exec_registerWrite_block s _ 0x200010 v h hb (by decide) (by decide) (blockWrite_secUnnamed s v) ⟨rfl, rfl, rfl, rfl⟩
  case w1c =>
    intro s v
    have bits : w1cBits 0x180008 = [2, 3, 4] := by decide
    simp [bitAt_unmarked, bits]
  case read =>
    intro s off h
    rw [exec_mgmtRegRead_eq s off h, mgmtRead_eq]
    rfl
  case value =>
    intro s off hi
    refine ⟨mgmtValue_glb s off hi, fun hs hg hc => ?_, fun hf hd hg hc => ?_⟩
    · rw [mgmtValue_other s off hi hg hc]
      rcases hs with hs | hs <;> simp [hs]
    · simp [mgmtValue_other s off hi hg hc, hf, hd]
  case write =>
    intro s off v pec h
    refine ⟨?_, ?_, ?_⟩
    · rintro rfl hm
      exact exec_mgmtRegWrite_eq s s off v false h (mgmtWrite_bad_pec s off v hm) ⟨rfl, rfl, rfl, rfl⟩
    · rintro rfl ha hr hn
      exact exec_mgmtRegWrite_eq s _ off v true h (mgmtWrite_not_writable s off v ha hr hn) ⟨rfl, rfl, rfl, rfl⟩
    · rintro rfl ho
      exact exec_mgmtRegWrite_eq s _ off v true h (mgmtWrite_waits s off v ho) ⟨rfl, rfl, rfl, rfl⟩
  case cycle =>
    intro s v h
    rw [mgmtCycle_singleton s _ v h]
    exact blockWrite_glbErrCfg _ v
  case keys =>
    rintro s t off rfl
    exact ⟨mgmtValue_withoutKeyBytes s off, rfl⟩

end Sys2Proof.Machine
end

section
/-! PROOFS. What a step takes off the queue, what passes while the queue is empty, and that every command that can arrive has a
next state with the same queue, safe where the state was (R9, R31, R36, R513). -/

namespace Sys2Proof.Machine

/-! ## The queue (log 1, 3) -/

/-- Settles O1: `step` looks at the front of the queue alone. -/
theorem frontOfTheQueueRuns : Obligations.FrontOfTheQueueRuns := by
  unfold Obligations.FrontOfTheQueueRuns
  intro s c rest front
  simp only [step, front]

theorem step_idle (s : State) (empty : s.pending = []) : step s = .next (idle s) := by
  simp only [step, empty]

/-- Between commands the passing of time has nothing to commit. -/
theorem commit_pass (s : State) (n : Nat) (h : s.quiet) : commit s (s.pass n) = s.pass n :=
  commit_plain s (s.pass n) h.1 h.2 rfl rfl

/-- Settles O2: an idle step is one cycle; with no close due and nothing left to its end the cycle only moves the clock. -/
theorem anEmptyQueueLetsOneCyclePass : Obligations.AnEmptyQueueLetsOneCyclePass := by
  unfold Obligations.AnEmptyQueueLetsOneCyclePass
  have oneCycle : ∀ s : State, s.pending = [] → step s =
      .next (if s.running = true ∧ (s.pass 1).now < s.nextTickAt then commit s ((cycleEnd (closeDue s)).pass 1) else s) := by
    intro s empty
    rw [step_idle s empty, idle]
    simp only [Bool.and_eq_true, decide_eq_true_eq]
    rfl
  refine ⟨oneCycle, ?plain⟩
  case plain =>
    intro s empty ready ends due
    obtain ⟨⟨running, settled⟩, quiet⟩ := ready
    refine ⟨?_, rfl, rfl, rfl, rfl, rfl, rfl, rfl, rfl, rfl⟩
    rw [oneCycle s empty, if_pos ⟨running, due⟩, closeDue_settled s settled, ends, commit_pass s 1 quiet]

/-! ## What a command answers -/

/-- A next state with the queue as it was, safe where the state was. -/
def Completes (s : State) (o : Host.Outcome State Fault Refusal) : Prop :=
  ∃ t, o = .next t ∧ t.pending = s.pending ∧ (s.Safe → t.Safe)

/-- The command cannot arrive: ill formed, or for memory that does not exist. -/
def Stops (o : Host.Outcome State Fault Refusal) : Prop := o = .refused .illFormed ∨ o = .fault .noSuchMemory

/-- A command whose operands fit completes, and any other stops. -/
def Answers (s : State) (fits : Bool) (o : Host.Outcome State Fault Refusal) : Prop :=
  if fits then Completes s o else Stops o

theorem completes_same (s : State) : Completes s (.next s) := ⟨s, rfl, rfl, id⟩
theorem completes_commit (s t : State) : Completes s (.next (commit s t)) := ⟨_, rfl, rfl, commit_safe s t⟩
theorem completes_commitNow (s t : State) : Completes s (.next (commitNow s t)) := ⟨_, rfl, rfl, commitNow_safe s t⟩

/-- A choice between states completes where both do. -/
theorem completes_ite {s t u : State} (c : Prop) [Decidable c] (h : Completes s (.next t)) (k : Completes s (.next u)) :
    Completes s (.next (if c then t else u)) := by
  split
  · exact h
  · exact k

/-! ### The wrappers of the meanings -/

theorem act_completes (s : State) (f : State → State) : Completes s (act s f) :=
  completes_ite _ (completes_commitNow s _) (completes_same s)

theorem hostAct_completes (s : State) (f : State → State) : Completes s (hostAct s f) :=
  completes_ite _ (completes_commitNow s _) (completes_same s)

theorem actTime_completes (s : State) (f : State → State) : Completes s (actTime s f) :=
  completes_ite _ (completes_commit s _) (completes_same s)

theorem writeAct_completes (s : State) (f : State → State) : Completes s (writeAct s f) :=
  completes_ite _ (completes_commit s _) (completes_same s)

theorem powered_completes (s : State) (f : State → State) : Completes s (powered s f) :=
  completes_ite _ (completes_commit s _) (completes_same s)

theorem fatalCmd_completes (s : State) (cause : Nat) (src : Source) : Completes s (fatalCmd s cause src) :=
  completes_ite _ (completes_commitNow s _) (completes_same s)

theorem barAct_completes (s : State) (f : State → State) : Completes s (barAct s f) := act_completes s _
theorem bellAct_completes (s : State) (f : State → State) : Completes s (bellAct s f) := act_completes s _
theorem mgrCmd_completes (s : State) (d : Line) (f : State → State) : Completes s (mgrCmd s d f) := act_completes s _
theorem closeCmd_completes (s : State) (w : Timed) : Completes s (closeCmd s w) := actTime_completes s _

/-! ### Operands -/

/-- A command with no operand that could fail to fit. -/
theorem answers_always {s : State} {o : Host.Outcome State Fault Refusal} (h : Completes s o) : Answers s true o := h

theorem answers_need {s : State} {o : Host.Outcome State Fault Refusal} (fits : Bool) (h : Completes s o) :
    Answers s fits (need fits o) := by
  cases fits
  · exact .inl rfl
  · exact h

/-- A command for an HBM line or granule. -/
theorem answers_memory {s : State} {o : Host.Outcome State Fault Refusal} (fits : Bool) (h : Completes s o) :
    Answers s fits (if fits then o else .fault .noSuchMemory) := by
  cases fits
  · exact .inr rfl
  · exact h

/-- A command for an HBM address. -/
theorem answers_address {s : State} {o : Host.Outcome State Fault Refusal} (addr : Nat) (h : Completes s o) :
    Answers s (decide (addr < hbmSize)) (if hbmSize ≤ addr then .fault .noSuchMemory else o) := by
  by_cases past : hbmSize ≤ addr
  · rw [if_pos past, decide_eq_false (Nat.not_lt.2 past)]
    exact .inr rfl
  · rw [if_neg past, decide_eq_true (Nat.lt_of_not_le past)]
    exact h

/-! ### The rows that no wrapper carries -/

theorem execPowerOn_completes (s : State) : Completes s (execPowerOn s) :=
  completes_ite _ (completes_same s) (completes_commit s _)

theorem execCodexWrite_completes (s : State) : Completes s (execCodexWrite s) :=
  completes_ite _ (completes_same s) (completes_ite _ (completes_commit s _) (completes_commit s _))

theorem execBridgeWordError_answers (corrected : Bool) (line : Option Nat) (s : State) :
    Answers s (line.all wfLine) (execBridgeWordError corrected line s) := by
  have fits : execBridgeWordError corrected line s = if line.all wfLine then
      act s fun s => if corrected then aerCorrected (bump s (devCnt 4) 1) else bridgeBad s line
    else .fault .noSuchMemory := by
    cases line <;> rfl
  rw [fits]
  exact answers_memory _ (act_completes s _)

theorem execCxlMemRead_answers (addr : Nat) (peer : Bool) (s : State) :
    Answers s (decide (addr < hbmSize)) (execCxlMemRead addr peer s) := by
  refine answers_address addr ?_
  split
  · exact ⟨_, rfl, rfl, id⟩
  · exact act_completes s _

/-- The effect of a work descriptor's row. -/
theorem workRow_answers (op qp : Nat) (d : Line) (s : State) :
    Answers s (wfQp qp && decide (dOpcode d = op)) (workRow op qp d s) := answers_need _ (act_completes s _)

/-! ### Every row, by the wrapper that carries it -/

theorem exec_answers (c : Instr) (s : State) : Answers s (commandFits c) (exec c s) := by
  cases c <;> dsimp only [exec, commandFits]
  case powerOn => exact answers_always (execPowerOn_completes s)
  case codexWrite => exact answers_always (execCodexWrite_completes s)
  case bridgeWordError corrected line => exact execBridgeWordError_answers corrected line s
  case cxlMemRead addr peer => exact execCxlMemRead_answers addr peer s
  case cxlMemWrite addr _ _ _ _ => exact answers_address addr (act_completes s _)
  case granuleZeroFillDone | scrubRead => exact answers_memory _ (act_completes s _)
  case fallingSupply | devResetNAssert | devResetNRelease | glbCtlDeviceReset | refclkLoss | thermalWarning | perstAssert | mgmtAlertResponse =>
    exact answers_always (powered_completes s _)
  case perstRelease => exact answers_need _ (powered_completes s _)
  case thermalTrip | bridgeLoss | gtcCopyMismatch => exact answers_always (fatalCmd_completes s _ _)
  case hbmStackFailure | controlStateUncorrectable => exact answers_need _ (fatalCmd_completes s _ _)
  case dlDown | hotReset | pf0Flr | ideIntegrityFailure | mgmtRegRead => exact answers_always (hostAct_completes s _)
  case dlUp | configWrite => exact answers_need _ (hostAct_completes s _)
  case mgmtRegWrite => exact answers_always (writeAct_completes s _)
  case registerWrite => exact answers_need _ (writeAct_completes s _)
  case timFolioSizeWrite | latCfgWrite | optLEnableWrite | hdmDecoderCommit | mgrRingEnable | mgrRingDisable | journalClear =>
    exact answers_always (barAct_completes s _)
  case ctlRingEnable | ctlRingDisable | vfEnable | vfDisable | keyLoadDataWrite | keyGoLoad | keyGoZeroise | nptEnableWrite | nptModeWrite
      | nptResetReq | compatCounterRead =>
    exact answers_need _ (barAct_completes s _)
  case doorbellProducer | doorbellConsumer | doorbellConsumerArm => exact answers_need _ (bellAct_completes s _)
  case tickMonitorExpiry | folioSizeChange => exact answers_always (actTime_completes s _)
  case folioTick | rnrDelayExpiry | stashLifetimeExpiry => exact answers_need _ (actTime_completes s _)
  case descriptorRefetch | doorbellAheadWindowClose | interruptModerationClose | rootFailover | ppsOutPulse | ppsOutPulseEnd | epochOldRetire
      | promiseCheckTick | slotWaitExpiry | suspensionNoticeExpiry | bwWindowClose | faultWaiterTimeout =>
    exact answers_always (closeCmd_completes s _)
  case retxTimerExpiry | absorptionAgeing | nptStateTimeout | nptRetryTimer | linkResetTimeout | latStateTimeout | latRetryTimer
      | pauseTimerExpiry | pauseWatchdogExpiry | holdoffExpiry | xoffRefresh =>
    exact answers_need _ (closeCmd_completes s _)
  case gtcStep | qpCreate | qpModify | qpDestroy | qpPeerMove | regionRegister | regionInvalidate | latTableLoad | latEpochSwitch | schSetLoad
      | schSetActivate | schSetUnload | schFlowBind | counterReset | commCreate | commDestroy | engineJob | engineUnfence | chkSetDefine
      | nptWindowSet | ethPeerSet | ethFilterSet | biasSet | ctxCreate | ctxDestroy | segSet | segInvalidate | faultResume | dirtyLog
      | carrelStage | carrelDestroy | carrelSuspend | carrelResume | vfReset | carrelExport | carrelImport | allocDirty | schedCarrel | qpShape
      | cntCarrelDump | secOwnerBind | secSvnCommit | secCertInstall | fwStage | fwActivate | codexRead | codexClear =>
    exact answers_always (mgrCmd_completes s _ _)
  case nop | send | write | writeTrig | read | rawSend | allreduceSum | allreduceMax | reduceScatter | allgather | broadcast | barrier =>
    exact workRow_answers _ _ _ s
  case dieBridgeTrained | hbmStacksTrained | firmwareStart | bootWatchdogExpiry | fwWatchdogExpiry | firmwareRestartDone | refAcquire | refLoss
      | refReturn | ppsInEdge | descriptorFetchResult | ringDestroyDone | regionInvalidateDone | latticeInjection | collectiveStageStart
      | sharedSlotGrant | sampleCapture | engineJobComplete | movReadReturn | signatureDone | ideKmKeyProg | completionTimeout
      | hostReadCompletion | hostSnoop | biasPageChange | cxlCacheResponse | prgResponse | segInvalidateDone | fwStageDone | pldmFwUpdate
      | spdmGetVersion | spdmGetCapabilities | spdmNegotiateAlgorithms | spdmGetDigests | spdmGetCertificate | spdmChallenge
      | spdmGetMeasurements | spdmKeyExchange | spdmFinish | spdmEndSession | spdmHeartbeat | spdmResponseNotReady | codexCheckpoint
      | mctpCodexRead =>
    exact answers_always (act_completes s _)
  -- every other row names a unit or a kind of cell or descriptor, and acts while the block runs
  all_goals exact answers_need _ (act_completes s _)

/-- Settles O5: every row answers by its wrapper, and a wrapper leaves the queue and keeps a safe state. -/
theorem commandsLeaveTheQueue : Obligations.CommandsLeaveTheQueue := by
  unfold Obligations.CommandsLeaveTheQueue
  refine ⟨?fits, ?misfits, ?queue⟩
  case fits =>
    intro s c h
    simpa only [Answers, h, if_true, Completes] using exec_answers c s
  case misfits =>
    intro s c h
    simpa [Answers, h, Stops] using exec_answers c s
  case queue =>
    intro s t c h
    have answer := exec_answers c s
    unfold Answers at answer
    split at answer
    · obtain ⟨u, next, queue, -⟩ := answer
      rw [h] at next
      injection next with same
      exact same ▸ queue
    · rcases answer with stop | stop <;> simp [h] at stop

end Sys2Proof.Machine
end

section
/-! PROOFS. A restart of firmware: what its start and its end leave of the state (R22 to R24, R56, R283, R490, R534). -/

namespace Sys2Proof.Machine

/-! ## Records handed to the codex (R496) -/

theorem mem_codexInsert {x r : CodexRec} (l : List CodexRec) : x ∈ codexInsert r l ↔ x = r ∨ x ∈ l := by
  induction l with
  | nil => simp [codexInsert]
  | cons y l ih =>
    unfold codexInsert
    split
    · simp
    · simp only [List.mem_cons, ih]
      exact or_left_comm

/-! ## The start of a restart (R22, R24) -/

/-- The holdover of a restart moves the reference's flags and records, and takes no record back (R56). -/
theorem restartHold_cases (s : State) : ∃ codex cyc hold held lost,
    restartHold s = { s with codex := codex, cyc := cyc, time := { s.time with holdover := hold, restartHold := held, refLost := lost } } ∧
    (∀ r ∈ s.codex.handed, r ∈ codex.handed) ∧
    (s.time.holdover = false → hold = (s.time.isRoot && decide (refSelect s = 2))) := by
  unfold restartHold
  split
  next begins =>
    refine ⟨_, _, _, _, _, rfl, fun r handed => (mem_codexInsert _).2 (.inr handed), fun _ => ?_⟩
    simp only [Bool.and_eq_true] at begins
    rw [begins.1.1, begins.1.2, Bool.and_self]
    rfl
  next stays =>
    refine ⟨_, _, _, _, _, rfl, fun _ handed => handed, fun free => ?_⟩
    simpa [free] using stays

/-- The third restart of the 10 s window (R24). -/
abbrev State.haltsNow (s : State) : Prop := 3 ≤ (restartWindow s.fw.restarts s.now).length

/-- A watchdog's restart is recorded and counted, and the key staging buffer cleared (R22, R24, R283). -/
def watchdogNoted (s : State) : State :=
  clearStaging { bump (codexHand s 0x10 0x090 0xFF (codexCause 0 0)) (devCnt 10) 1 with
    fw := { s.fw with restarting := some 0, restarts := restartWindow s.fw.restarts s.now } }

/-- An update in progress is aborted, its command to be re-read (Table 1.11, R490). -/
def updateAborted (s : State) : State :=
  match s.sec.staging with
  | some (cmd, slot, _) =>
    let s := bootWrite (modSec s fun x => { x with staging := none }) fun b => b.set slot 3
    { s with fw := { s.fw with redo := s.fw.redo ++ cmd.toList } }
  | none => s

/-- What firmware held for SPDM and the codex is dropped (Table 1.11, R485, R499). -/
def heldDropped (s : State) : State :=
  modCodex (modSec s fun x => { x with
    spdmQ := [], ckptQ := none
    signing := match x.signing with | some (.spdm r) => some (.spdm { r with code := 0 }) | j => j }) fun c => { c with ckPending := none }

/-- Firmware is halted and not restarted (R24). -/
def firmwareHalted (s : State) : State :=
  codexHand (modGlb { s with fw := { s.fw with restarting := none } } fun g => { g with fwHalted := true }) 0x11 0x090 0xFF 0

/-- The steps of a restart that the watchdog begins. -/
theorem beginRestart_steps (s : State) : beginRestart s 0 =
    if s.haltsNow then firmwareHalted (heldDropped (updateAborted (restartHold (watchdogNoted s))))
    else heldDropped (updateAborted (restartHold (watchdogNoted s))) := by
  have counted : ((decide ((0 : Nat) ≠ 1) && decide s.haltsNow) = true) = s.haltsNow := by simp
  rw [← ite_cond_congr counted]
  rfl

theorem updateAborted_none (s : State) (noUpdate : s.sec.staging = none) : updateAborted s = s := by
  simp only [updateAborted, noUpdate]

/-- A watchdog's restart with no update staged, where firmware is not halted. -/
theorem heldDropped_watchdog (s : State) (noUpdate : s.sec.staging = none) : ∃ codex cyc cnt sec hold held lost,
    heldDropped (updateAborted (restartHold (watchdogNoted s))) = { s with
      codex := codex, cyc := cyc, cnt := cnt, sec := sec
      keyLoad := { s.keyLoad with data := List.replicate 8 0, mask := 0 }
      fw := { s.fw with restarting := some 0, restarts := restartWindow s.fw.restarts s.now }
      time := { s.time with holdover := hold, restartHold := held, refLost := lost } } ∧
    (∃ r ∈ codex.handed, r.code = 0x10 ∧ r.stamp = s.now ∧ r.source = 0x090) ∧
    (s.time.holdover = false → hold = (s.time.isRoot && decide (refSelect s = 2))) := by
  obtain ⟨codex, cyc, hold, held, lost, heldOver, keeps, follows⟩ := restartHold_cases (watchdogNoted s)
  have recorded := keeps _ ((mem_codexInsert s.codex.handed).2 (.inl rfl))
  have staging : (restartHold (watchdogNoted s)).sec.staging = none := by rw [heldOver]; exact noUpdate
  rw [updateAborted_none _ staging, heldOver]
  exact ⟨_, _, _, _, hold, held, lost, rfl, ⟨_, recorded, rfl, rfl, rfl⟩, follows⟩

/-- What a watchdog's restart with no update staged leaves; the third of the window halts firmware (R22, R24). -/
theorem beginRestart_watchdog (s : State) (noUpdate : s.sec.staging = none) : ∃ codex cyc cnt sec hold held lost,
    beginRestart s 0 = { s with
      codex := codex, cyc := cyc, cnt := cnt, sec := sec
      keyLoad := { s.keyLoad with data := List.replicate 8 0, mask := 0 }
      fw := { s.fw with restarting := if s.haltsNow then none else some 0, restarts := restartWindow s.fw.restarts s.now }
      glb := if s.haltsNow then { s.glb with fwHalted := true } else s.glb
      time := { s.time with holdover := hold, restartHold := held, refLost := lost } } ∧
    (∃ r ∈ codex.handed, r.code = 0x10 ∧ r.stamp = s.now ∧ r.source = 0x090) ∧
    (s.time.holdover = false → hold = (s.time.isRoot && decide (refSelect s = 2))) := by
  obtain ⟨codex, cyc, cnt, sec, hold, held, lost, dropped, ⟨r, recorded, isRestart⟩, follows⟩ := heldDropped_watchdog s noUpdate
  rw [beginRestart_steps, dropped]
  split
  next => exact ⟨_, _, _, _, hold, held, lost, rfl, ⟨r, (mem_codexInsert _).2 (.inr recorded), isRestart⟩, follows⟩
  next => exact ⟨_, _, _, _, hold, held, lost, rfl, ⟨r, recorded, isRestart⟩, follows⟩

/-! ## The end of a restart (R22, R56, R488) -/

/-- What link admission may move: the security block, the lattice ports, the codex and the free values drawn. -/
def Admission (s t : State) : Prop :=
  ∃ sec lports codex draws, t = { s with sec := sec, lports := lports, codex := codex, draws := draws }

theorem Admission.refl (s : State) : Admission s s := ⟨_, _, _, _, rfl⟩

theorem Admission.trans {s t u : State} (h : Admission s t) (k : Admission t u) : Admission s u := by
  obtain ⟨_, _, _, _, rfl⟩ := h
  obtain ⟨_, _, _, _, rfl⟩ := k
  exact ⟨_, _, _, _, rfl⟩

theorem Admission.foldl {α : Type} (f : State → α → State) (h : ∀ s a, Admission s (f s a)) (l : List α) (s : State) :
    Admission s (l.foldl f s) := by
  induction l generalizing s with
  | nil => exact .refl s
  | cons a l ih => exact (h s a).trans (ih _)

theorem modSec_admission (s : State) (f : Sec → Sec) : Admission s (modSec s f) := ⟨_, _, _, _, rfl⟩
theorem modPort_admission (s : State) (p : Nat) (f : LatPort → LatPort) : Admission s (modPort s p f) := ⟨_, _, _, _, rfl⟩
theorem attestSend_admission (s : State) (p msg : Nat) (body : List Byte) : Admission s (attestSend s p msg body) := ⟨_, _, _, _, rfl⟩

theorem sigPump_admission (s : State) : Admission s (sigPump s) := by
  unfold sigPump
  split
  · exact .refl s
  split
  · exact modSec_admission s _
  split
  · exact modSec_admission s _
  split
  · exact modSec_admission s _
  split
  · exact modSec_admission s _
  · exact .refl s

theorem attestStart_admission (s : State) (p : Nat) : Admission s (attestStart s p) := by
  unfold attestStart
  split
  · exact .refl s
  · exact ⟨_, _, _, _, rfl⟩

theorem linkAdmit_admission (s : State) (p : Nat) : Admission s (linkAdmit s p) := by
  unfold linkAdmit
  dsimp only
  split
  · exact modPort_admission s p _
  · exact .refl s

theorem attestVerify_admission (s : State) (p : Nat) : Admission s (attestVerify s p) := by
  unfold attestVerify
  dsimp only
  split
  · split
    · exact .refl s
    split
    · exact (modPort_admission s p _).trans (linkAdmit_admission _ p)
    · exact ⟨_, _, _, _, rfl⟩
  · exact .refl s

theorem attestResume_admission (s : State) : Admission s (attestResume s) := by
  have answered : Admission s (s.sec.heldResp.foldl (fun s m => attestSend s m.1 3 m.2) (modSec s fun x => { x with heldResp := [] })) := by
    refine (modSec_admission s fun x => { x with heldResp := [] }).trans ?_
    refine Admission.foldl _ (fun s m => ?_) _ _
    exact attestSend_admission s m.1 3 m.2
  have ports : ∀ s p, Admission s (linkAdmit (attestVerify (attestStart s p) p) p) := fun s p =>
    ((attestStart_admission s p).trans (attestVerify_admission _ p)).trans (linkAdmit_admission _ p)
  unfold attestResume
  refine Admission.trans ?_ (sigPump_admission _)
  refine answered.trans ?_
  exact Admission.foldl _ ports _ _

/-- The holdover of a restart ends with it, one of another cause does not (R56). -/
theorem restartRelease_eq (s : State) : restartRelease s = modTime s fun t => { t with
    holdover := t.holdover && !t.restartHold, restartHold := false } := by
  unfold restartRelease
  split
  next held => simp [modTime, held]
  next free =>
    have none : s.time.restartHold = false := by simpa only [Bool.not_eq_true] using free
    have same : (s.time.holdover && !s.time.restartHold) = s.time.holdover := by rw [none, Bool.not_false, Bool.and_true]
    simp only [modTime, same, ← none]

/-- A restart's end: the commands firmware had not completed go back to the front of those handed over (R22). -/
theorem restartEnd_some (s : State) (c : Nat) (h : s.fw.restarting = some c) : Admission
    { s with
      fw := { s.fw with restarting := none, redo := [] }
      mgrSq := { s.mgrSq with handed := (s.fw.redo.filter fun d => ¬ s.mgrSq.handed.contains d) ++ s.mgrSq.handed }
      time := { s.time with holdover := s.time.holdover && !s.time.restartHold, restartHold := false } } (restartEnd s) := by
  unfold restartEnd
  rw [h]
  dsimp only
  rw [restartRelease_eq]
  exact attestResume_admission _

/-- Settles O14: the restart's start and end each move only what their rules name. -/
theorem firmwareRestartKeepsTheDataPath : Obligations.FirmwareRestartKeepsTheDataPath := by
  unfold Obligations.FirmwareRestartKeepsTheDataPath
  have watchdog : ∀ s : State, s.Ready → fwAlive s = true → s.sec.staging = none → exec .fwWatchdogExpiry s = .next (beginRestart s 0) := by
    intro s ready runs noUpdate
    obtain ⟨_, _, _, _, _, _, _, begun, -, -⟩ := beginRestart_watchdog s noUpdate
    have effect : (if fwAlive s then beginRestart s 0 else s) = beginRestart s 0 := if_pos runs
    have plain := act_plain s (fun s => if fwAlive s then beginRestart s 0 else s) ready
    simp only [effect] at plain
    exact plain (by rw [begun]) (by rw [begun]) (by rw [begun]) (by rw [begun]) (by rw [begun]; exact ⟨rfl, rfl, rfl, rfl⟩)
  refine ⟨?begins, ?halts, ?ends⟩
  case begins =>
    intro s ready runs noUpdate fewer
    obtain ⟨_, _, _, _, _, _, _, begun, recorded, follows⟩ := beginRestart_watchdog s noUpdate
    rw [watchdog s ready runs noUpdate, begun]
    have goesOn : ¬ s.haltsNow := Nat.not_le.2 fewer
    simp only [if_neg goesOn]
    exact ⟨_, rfl, rfl, rfl, rfl, rfl, rfl, recorded, follows, rfl, rfl, rfl, rfl, rfl, rfl, rfl, rfl, rfl, rfl, rfl⟩
  case halts =>
    intro s ready runs noUpdate (third : s.haltsNow)
    obtain ⟨_, _, _, _, _, _, _, begun, -, -⟩ := beginRestart_watchdog s noUpdate
    rw [watchdog s ready runs noUpdate, begun]
    simp only [if_pos third]
    exact ⟨_, rfl, rfl, rfl, rfl, rfl, rfl, rfl, rfl, rfl, rfl, rfl, rfl⟩
  case ends =>
    intro s c ready restarting
    obtain ⟨_, _, _, _, ended⟩ := restartEnd_some s c restarting
    refine ⟨restartEnd s, ?_, ?_⟩
    · exact act_plain s restartEnd ready (by rw [ended]) (by rw [ended]) (by rw [ended]) (by rw [ended]) (by rw [ended]; exact ⟨rfl, rfl, rfl, rfl⟩)
    · rw [ended]
      exact ⟨rfl, rfl, rfl, rfl, rfl, rfl, rfl, rfl, rfl, rfl⟩

end Sys2Proof.Machine
end

section
/-! PROOFS. The causes of the fatal state: each leaves what R518 lists under its own cause and source, and the tick monitor's comes 24
units after the tick was due (R25, R517, R518, R548, R551). -/

namespace Sys2Proof.Machine

/-! ## The fatal state (R517, R518) -/

theorem goFatal_fatal (s : State) (cause : Nat) (src : Source) : (goFatal s cause src).glb.fatal = true := by
  unfold goFatal
  split
  next already =>
    split
    · exact already
    · exact already
  next => rfl

/-- A fatal cause on `u`, committed: the block is fatal, and where the cause is the first one it leaves its number, source and stamp,
FATAL_N and ERR_FATAL, whatever waits to be written (R518). -/
theorem commit_goFatal (s u : State) (cause : Nat) (src : Source) :
    (commit s (goFatal u cause src)).glb.fatal = true ∧
    (u.glb.fatal = false → (commit s (goFatal u cause src)).glb.fatalCause = cause ∧ (commit s (goFatal u cause src)).glb.fatalSource = src ∧
      (commit s (goFatal u cause src)).glb.fatalStamp = u.now ∧ (commit s (goFatal u cause src)).glb.fwHalted = true ∧
      (commit s (goFatal u cause src)).pkg.fatalN = true ∧ .aer 2 ∈ (commit s (goFatal u cause src)).outbox) := by
  refine ⟨goFatal_fatal u cause src, fun first => ?_⟩
  unfold goFatal
  rw [if_neg (by rw [first]; decide)]
  exact ⟨rfl, rfl, rfl, rfl, rfl, List.mem_append_right _ (List.mem_singleton.2 rfl)⟩

/-- The loss of the reference clock is fatal, and the clock is not valid from then on (R551). -/
theorem execRefclkLoss_ready (s : State) (h : s.FatalReady) :
    execRefclkLoss s = .next { s.wentFatal 3 0x080 with pkg := { (s.wentFatal 3 0x080).pkg with refclk := false } } := by
  obtain ⟨rails, inReset, testMode, notFatal, quiet, calm, noEvents, noJournal⟩ := h
  rw [execRefclkLoss, powered_up s _ ⟨⟨rails, calm⟩, quiet⟩]
  simp only [inReset, testMode, Bool.or_self, Bool.false_eq_true, if_false, goFatal_eq s 3 0x080 notFatal noEvents noJournal]
  exact congrArg _ (commit_plain s _ quiet.1 quiet.2 rfl rfl)

/-- Settles O12: a cause that is detected at once goes by `fatalCmd`, the tick monitor's after the run to its moment. -/
theorem fatalSources : Obligations.FatalSources := by
  unfold Obligations.FatalSources
  refine ⟨?stack, ?noStack, ?bridge, ?gtc, ?control, ?thermal, ?clock, ?tick⟩
  case stack =>
    intro s stack h named
    show need (wfStack stack) (fatalCmd s 1 0x3FF) = _
    rw [named, need_true, fatalCmd_ready s 1 0x3FF h]
  case noStack =>
    intro s stack named
    show need (wfStack stack) (fatalCmd s 1 0x3FF) = _
    rw [named, need_false]
  case bridge => exact fun s h => fatalCmd_ready s 2 0x3FF h
  case gtc => exact fun s h => fatalCmd_ready s 4 0x080 h
  case control =>
    intro s src h named
    show need (wfSource src) (fatalCmd s 5 src) = _
    rw [named, need_true, fatalCmd_ready s 5 src h]
  case thermal => exact fun s h => fatalCmd_ready s 6 0x3FF h
  case clock => exact fun s h => execRefclkLoss_ready s h
  case tick =>
    intro s ready
    have next := actTime_running s (fun s => goFatal (closeDue (s.goTo (s.nextTickAt + 24))) 7 0x080) ready.1.1
    exact ⟨_, _, next, rfl, commit_goFatal s _ 7 0x080⟩

end Sys2Proof.Machine
end

section
/-! PROOFS. An RNR NAK of a live queue pair (R18, R99, R124, R130), and a queue pair that the table lists twice. -/

namespace Sys2Proof.Machine

section
variable {s t : State} {via : Via} {cell : Cell} {q : Qp} {n seq : Nat}

/-- On a running block, an effect that only queues and counts is all a command leaves. -/
theorem commitNow_keeps (ready : s.Ready) (keeps : Keeps s t) : commitNow s t = t := by
  obtain ⟨-, wlog, wipe, hbm, pending, time⟩ := keeps
  exact commitNow_plain s t (wlog.trans ready.2.1) (wipe.trans ready.2.2) hbm pending (by rw [time]; exact ⟨rfl, rfl, rfl, rfl⟩)

/-- A good NAK cell of no stream, for a QP whose context is on die. -/
theorem exec_nakCell (ready : s.Ready) (kind : cType cell = 4) (lets : s.lets cell) (noStream : streamOf s cell = none)
    (cached : uncached s (cQp cell) = false) :
    exec (.nakCell via cell) s = .next (commitNow s (nakCore (takeEjected s via cell) via cell)) := by
  have core : cellCore (takeEjected s via cell) via cell = nakCore (takeEjected s via cell) via cell := by simp only [cellCore, kind]
  show execNakCell via cell s = _
  rw [execNakCell, decide_eq_true kind, need_true, act_running s _ ready.1, noStream]
  dsimp only
  rw [qpCell_lets s via cell false lets cached, core]

theorem nakCore_target (target : nakTarget s via cell = some n) (known : 1 ≤ dfld cell.payload 0 0 8 ∧ dfld cell.payload 0 0 8 ≤ 8) :
    nakCore s via cell = settle (applyNak s n (dfld cell.payload 0 0 8) (dfld cell.payload 2 0 12)) := by
  have code : (dfld cell.payload 0 0 8 = 0 || dfld cell.payload 0 0 8 > 8) = false := by
    simp only [Bool.or_eq_false_iff, decide_eq_false_iff_not]
    omega
  simp only [nakCore, target, code, Bool.false_eq_true, if_false]

/-- The first RNR NAK of a round opens it; it takes a retry of each entry of the QP that counts its retries (R130). -/
theorem applyNak_rnr (found : getQp s n = some q) (sent : (q.tx.any fun t => t.seq = seq && !t.acked) = true)
    (noRound : q.round = none) (left : 0 < q.rnrLeft) : applyNak s n 1 seq = modQp s n fun q => { q with
      rnrLeft := if q.rnrMax = 7 then q.rnrLeft else q.rnrLeft - 1
      round := some (seq, s.folio + q.rnrDelay), roundSeq := some seq } := by
  have remains : ¬ (decide (q.rnrMax ≠ 7) && decide (q.rnrLeft = 0)) = true := by simp; omega
  simp only [applyNak, found, rnrNak, sent, noRound, Bool.not_true, Bool.false_eq_true, if_false, if_neg remains]

end

/-! ## A table that lists QP 1 twice -/

/-- A sender with one segment unacknowledged, that counts its RNR retries. -/
def countingQp : Qp :=
  { Qp.new 0 with
    state := .rts, peerQp := 1, hadPeer := true, rnrMax := 2, rnrLeft := 2
    tx := [{ seq := 0, op := none, readSeq := 0, head := 0, data := [], cells := 0, have_ := 0, sealing := false, next := 1, sc := none,
             prio := 0, acked := false, again := [], resent := [], sentIn := [] }] }

/-- The block with that sender as QP 1, and behind it a second entry under the same number, which does not count its retries. -/
def listedTwice : State := { State.reset with qps := [(1, countingQp), (1, { countingQp with rnrMax := 7 })] }

/-- An RNR NAK for the segment, from QP 1 of the adapter itself: CODE 1 in byte 0 of the payload, SEQ 0 (R124). -/
def rnrNakCell : Cell := latCell (latHdr 4 0 0 0 false false 0 1 0 0 false) 1

theorem rnrNakCell_payload : dfld rnrNakCell.payload 0 0 8 = 1 ∧ dfld rnrNakCell.payload 2 0 12 = 0 := by
  simp [dfld, fld, rnrNakCell, latCell]

theorem rnrNakCell_target : nakTarget (takeEjected listedTwice .lattice rnrNakCell) .lattice rnrNakCell = some 1 := by
  simp only [nakTarget, rnrNakCell_payload.1]
  decide

/-- Refutes O26, in its clause of the RNR NAK: the clause takes a retry of every entry the table holds under the QP's number, and asks
only of the first that RNR_RETRY is not 7. The model takes none of an entry whose RNR_RETRY is 7, as R130 counts none there. On
`listedTwice` the second entry keeps its 2 retries, where the clause leaves it 1. Only a table that holds a number twice tells the two apart. -/
theorem not_transportCellArrivals : ¬ Obligations.TransportCellArrivals := by
  unfold Obligations.TransportCellArrivals
  rintro ⟨-, -, -, -, -, -, -, -, rnr, -, -⟩
  have ready : listedTwice.Ready := by decide
  have lets : listedTwice.lets rnrNakCell := ⟨rfl, .inr (by decide)⟩
  have noStream : streamOf listedTwice rnrNakCell = none := by decide
  have cached : uncached listedTwice (cQp rnrNakCell) = false := by decide
  obtain ⟨code, seq⟩ := rnrNakCell_payload
  have sent : (countingQp.tx.any fun t => t.seq = dfld rnrNakCell.payload 2 0 12 && !t.acked) = true := by rw [seq]; decide
  have claimed := rnr listedTwice .lattice rnrNakCell 1 countingQp ready rfl (by decide) lets noStream cached rnrNakCell_target rfl code sent rfl
    (by decide) (by decide)
  have actual : exec (.nakCell .lattice rnrNakCell) listedTwice = .next (modQp (takeEjected listedTwice .lattice rnrNakCell) 1 fun q => { q with
      rnrLeft := if q.rnrMax = 7 then q.rnrLeft else q.rnrLeft - 1
      round := some (0, 0 + q.rnrDelay), roundSeq := some 0 }) := by
    rw [exec_nakCell ready (by decide) lets noStream cached, nakCore_target rnrNakCell_target (by rw [code]; decide), code, seq,
      applyNak_rnr (q := countingQp) rfl (by decide) rfl (by decide), settle_none _ rfl]
    exact congrArg _ (commitNow_keeps ready ⟨rfl, rfl, rfl, rfl, rfl, rfl⟩)
  rw [actual] at claimed
  injection claimed with same
  have retries := congrArg (fun t => t.qps.map fun e => e.2.rnrLeft) same
  exact absurd retries (by decide)

end Sys2Proof.Machine
end

section
/-! PROOFS. The state reset leaves, TIM_CFG and the folio size, the 1PPS output, and the failover of a silent root (R27, R33, R40, R43,
R57). -/

namespace Sys2Proof.Machine

/-! ## Reset (Tables 21.8 and 22.5) -/

/-- Settles O4: each register and table is read off `State.reset`. -/
theorem resetLeavesASafeState : Obligations.ResetLeavesASafeState := by
  unfold Obligations.ResetLeavesASafeState
  have safe : State.reset.Safe := ⟨rfl, rfl, rfl⟩
  have registers : glbReg State.reset 0 = 0x00001E9800017264 ∧ glbReg State.reset 8 = 0 ∧ glbReg State.reset 0x10 = 0 ∧
      glbReg State.reset 0x20 = 0x1000 := by decide
  obtain ⟨id, status, gtc, errCfg⟩ := registers
  exact ⟨safe, rfl, rfl, id, status, gtc, errCfg, rfl, rfl, rfl, rfl, rfl, rfl, rfl, rfl, rfl⟩

/-! ## Effects that leave the store and the clock alone -/

/-- The clock of `t` stands where that of `s` does. -/
abbrev State.ClockKept (s t : State) : Prop :=
  t.time.gtc = s.time.gtc ∧ t.time.gtcMem = s.time.gtcMem ∧ t.time.frac = s.time.frac ∧ t.time.tick = s.time.tick

/-- `t` has the HBM, the queue and the clock of `s`: a command that leaves it leaves exactly it. -/
abbrev State.OnlyState (s t : State) : Prop := s.StoreKept t ∧ s.ClockKept t

section
variable {s t : State} {f : State → State}

theorem commitNow_only (quiet : s.quiet) (only : s.OnlyState t) : commitNow s t = t := by
  obtain ⟨⟨wlog, wipe, hbm, pending⟩, clock⟩ := only
  exact commitNow_plain s t (wlog.trans quiet.1) (wipe.trans quiet.2) hbm pending clock

theorem act_only (ready : s.Ready) (effect : f s = t) (only : s.OnlyState t) : act s f = .next t := by
  rw [act_running s f ready.1, effect, commitNow_only ready.2 only]

theorem barAct_only (ready : s.BarReady) (effect : f s = t) (only : s.OnlyState t) : barAct s f = .next t := by
  rw [barAct_ready s f ready, effect, commitNow_only ready.1.2 only]

theorem commit_self (quiet : s.quiet) : commit s s = s := commit_plain s s quiet.1 quiet.2 rfl rfl

end

/-! ## TIM_CFG and the folio size (R33) -/

section
variable {s : State} {v : W64} {c : Nat} {g : Gtc}

theorem timWrite_sameSize (same : fld v 0 2 = fld s.time.cfg 0 2) : timWrite s v = modTime s fun t => { t with cfg := v &&& 0x7FFF03 } :=
  if_pos same

theorem timWrite_refused (other : fld v 0 2 ≠ fld s.time.cfg 0 2) (bad : fld v 0 2 = 3 ∨ allDark s = false ∨ anyRing s = true) :
    timWrite s v = modTime (mark s 0x110008 4) fun t => { t with cfgReject := true } := by
  have refused : (decide (fld v 0 2 = 3) || !allDark s || anyRing s) = true := by simpa [or_assoc] using bad
  simp only [timWrite, if_neg other, refused, if_true]

theorem timWrite_accepted (other : fld v 0 2 ≠ fld s.time.cfg 0 2) (named : fld v 0 2 ≠ 3) (dark : allDark s = true)
    (noRing : anyRing s = false) : timWrite s v = modTime s fun t => { t with
      cfg := v &&& 0x7FFF03, fsNext := some (fld v 0 2, (s.now / 98304 + 1) * 98304) } := by
  simp [timWrite, other, named, dark, noRing]

/-- A write of TIM_CFG that moves neither store nor clock leaves what `timWrite` makes of the state. -/
theorem exec_timFolioSizeWrite_eq {t : State} (ready : s.BarReady) (effect : timWrite s v = t) (only : s.OnlyState t) :
    exec (.timFolioSizeWrite v) s = .next t :=
  barAct_only (f := fun s => timWrite s v) ready effect only

theorem sizeChange_some (due : s.time.fsNext = some (c, g)) : sizeChange s = modTime s fun t => { t with
    fsize := c, fsNext := none, tick := if g ≤ s.now then s.now / folioLen c else g / folioLen c - 1 } := by
  simp only [sizeChange, due]

/-- The multiple has passed, as after a step: the size is in force at once. -/
theorem execFolioSizeChange_passed (ready : s.Ready) (due : s.time.fsNext = some (c, g)) (passed : g ≤ s.now) :
    execFolioSizeChange s = .next (modTime s fun t => { t with fsize := c, fsNext := none, tick := s.now / folioLen c }) := by
  rw [execFolioSizeChange, actTime_running s _ ready.1.1]
  simp only [due, if_pos passed, sizeChange_some due]
  exact congrArg _ (commit_plain s _ ready.2.1 ready.2.2 rfl rfl)

/-- The multiple is the next tick's, or lies before it: the size changes in the folio's last cycle. -/
theorem execFolioSizeChange_coming (running : s.running = true) (due : s.time.fsNext = some (c, g)) (coming : s.now < g)
    (inFolio : g ≤ s.nextTickAt) : execFolioSizeChange s = .next (commit s (sizeChange (s.goTo s.lastCycle))) := by
  rw [execFolioSizeChange, actTime_running s _ running]
  simp only [due, if_neg (Nat.not_le.2 coming), if_pos inFolio]

/-! ## The 1PPS output (R57) -/

theorem cyclesTo_passed (passed : g ≤ s.now) : cyclesTo s.time g = 0 := by
  have noUnits : g * 65536 - (s.time.gtc * 65536 + s.time.frac) = 0 :=
    Nat.sub_eq_zero_of_le (Nat.le_add_right_of_le (Nat.mul_le_mul_right 65536 passed))
  rw [cyclesTo, noUnits, cdiv, Nat.zero_add, Nat.div_eq_zero_iff]
  omega

theorem reaches_of_passed (h : g ≤ s.now ∨ cyclesTo s.time g < cyclesTo s.time s.nextTickAt) : s.Reaches g :=
  h.imp_left cyclesTo_passed

theorem ppsRiseAt_enabled (enabled : bitAt s.time.cfg 19 = true) : ppsRiseAt s = some
    (if s.now < s.now / 16000000000 * 16000000000 + 13 ∧ s.pkg.ppsHigh ≠ some (s.now / 16000000000 * 16000000000 + 160000)
      then s.now / 16000000000 * 16000000000 else s.now / 16000000000 * 16000000000 + 16000000000) := by
  simp only [ppsRiseAt, enabled, Bool.not_true, Bool.false_eq_true, if_false, Bool.and_eq_true, decide_eq_true_eq]
  split <;> rfl

end

/-- Settles O16: TIM_CFG's write by its three cases, the size change by the multiple's place, the output's edges as closes of windows. -/
theorem folioSizeAndPps : Obligations.FolioSizeAndPps := by
  unfold Obligations.FolioSizeAndPps
  refine ⟨?keeps, ?refuses, ?accepts, ?passed, ?coming, ?rises, ?riseAt, ?falls⟩
  case keeps =>
    intro s v ready same
    exact exec_timFolioSizeWrite_eq ready (timWrite_sameSize same) ⟨⟨rfl, rfl, rfl, rfl⟩, rfl, rfl, rfl, rfl⟩
  case refuses =>
    intro s v ready other bad
    exact exec_timFolioSizeWrite_eq ready (timWrite_refused other bad) ⟨⟨rfl, rfl, rfl, rfl⟩, rfl, rfl, rfl, rfl⟩
  case accepts =>
    intro s v ready other named dark noRing
    exact exec_timFolioSizeWrite_eq ready (timWrite_accepted other named dark noRing) ⟨⟨rfl, rfl, rfl, rfl⟩, rfl, rfl, rfl, rfl⟩
  case passed => exact fun s c g ready due passed => execFolioSizeChange_passed ready due passed
  case coming =>
    intro s c g running due coming inFolio stillDue stillComing
    have changed := sizeChange_some stillDue
    rw [if_neg (Nat.not_le.2 stillComing)] at changed
    exact (execFolioSizeChange_coming running due coming inFolio).trans (by rw [changed]; rfl)
  case rises =>
    intro s g running riseAt reached
    have window : closeAt s .ppsRise = some (.at g) := by simp only [closeAt, riseAt, Option.map_some]
    exact closeCmd_at s .ppsRise g running window (reaches_of_passed reached)
  case riseAt => exact fun s enabled => ppsRiseAt_enabled enabled
  case falls =>
    intro s g running high reached
    have window : closeAt s .ppsFall = some (.at g) := by simp only [closeAt, high, Option.map_some]
    exact closeCmd_at s .ppsFall g running window (reaches_of_passed reached)

/-! ## A root that fell silent (R40, R43) -/

theorem closeAt_rootSilent {s : State} (follows : s.time.isRoot = false) (known : s.time.rootPri ≠ 255) :
    closeAt s .rootSilent = some (.tick (s.time.rootHeard + 2)) := by
  simp [closeAt, follows, known]

/-- The failover waits for two folios of silence. -/
theorem closeRow_rootSilent_early {s : State} (early : s.folio < s.time.rootHeard + 2) : closeRow s .rootSilent = s := by
  by_cases noRoot : (s.time.isRoot || decide (s.time.rootPri = 255)) = true
  · simp only [closeRow, closeAt, noRoot, if_true]
  · have window : closeAt s .rootSilent = some (.tick (s.time.rootHeard + 2)) := if_neg noRoot
    simp only [closeRow, window, if_neg (Nat.not_le.2 early)]

theorem rootFailover_silent {s u : State} (follows : s.time.isRoot = false) (known : s.time.rootPri ≠ 255)
    (silent : s.time.rootHeard + 2 ≤ s.folio) (dropped : u = { s with
      lports := s.lports.map (fun x => { x with far := x.far.map fun f => if f.rootIdx = s.time.rootIdx then { f with rootPri := 255 } else f })
      time := { s.time with rootHeard := s.time.tick } }) :
    rootFailover s = if bestRoot u = some (rootPriority u, myCoord u) then timeTree u else u := by
  have acts : (s.time.isRoot || decide (s.time.rootPri = 255) || decide (s.folio < s.time.rootHeard + 2)) = false := by
    simp only [follows, known, Nat.not_lt.2 silent, decide_false, Bool.or_self]
  rw [rootFailover, acts, dropped]
  rfl

/-- Settles O18: the silence is a window that closes at a tick, and its close drops the root and chooses afresh. -/
theorem rootFailoverChoosesAfresh : Obligations.RootFailoverChoosesAfresh := by
  unfold Obligations.RootFailoverChoosesAfresh
  refine ⟨?silent, ?early⟩
  case silent =>
    intro s u running follows known silent dropped
    rw [← rootFailover_silent follows known silent dropped]
    exact closeCmd_tick s .rootSilent _ running (closeAt_rootSilent follows known) silent
  case early =>
    intro s ready _ early
    show closeCmd s .rootSilent = _
    rw [closeCmd, actTime_running s _ ready.1.1, closeRow_rootSilent_early early, commit_self ready.2]

end Sys2Proof.Machine
end

section
/-! PROOFS. The root's reference: acquisition, loss, return, the edges of its 1PPS input, and a commanded step of the GTC (R29, R50, R53 to
R55). -/

namespace Sys2Proof.Machine

/-! ## The rows of the reference, on a state that keeps store and clock -/

section
variable {s t : State}

theorem exec_refAcquire_eq {sec : Nat} (ready : s.Ready) (effect : refAcquire s sec = t) (only : s.OnlyState t) :
    exec (.refAcquire sec) s = .next t :=
  act_only (f := fun s => refAcquire s sec) ready effect only

theorem exec_refLoss_eq {cause : RefLossCause} (ready : s.Ready) (effect : refLoss s cause = t) (only : s.OnlyState t) :
    exec (.refLoss cause) s = .next t :=
  act_only (f := fun s => refLoss s cause) ready effect only

theorem exec_refReturn_eq {sec : Nat} (ready : s.Ready) (effect : refReturn s sec = t) (only : s.OnlyState t) :
    exec (.refReturn sec) s = .next t :=
  act_only (f := fun s => refReturn s sec) ready effect only

theorem exec_ppsInEdge_eq (ready : s.Ready) (effect : ppsEdge s = t) (only : s.OnlyState t) : exec .ppsInEdge s = .next t :=
  act_only ready effect only

end

/-! ## Acquisition (R29, R53, R55) -/

section
variable {s : State} {sec : Nat} {g : Gtc}

/-- REF_LOST and the record of a refused or lost reference (R29, R54). -/
theorem refRecord_eq (s : State) (cause : Nat) : refRecord s cause = { mark s 0x110008 3 with
    time := { s.time with refLost := true }, codex := (codexHand s 0x22 0x80 0xFF (codexCause cause 0)).codex } := rfl

/-- The reference is acquired with the lead `r` over the GTC, in 2^-16 units. -/
def State.acquires (s : State) (r : Int) : State :=
  modTime s fun t => { t with acquired := true, holdover := false, restartHold := false, refOffset := some r }

@[simp] theorem acquires_noneActive (s : State) (r : Int) : noneActive (s.acquires r) = noneActive s := rfl
@[simp] theorem acquires_anyRing (s : State) (r : Int) : anyRing (s.acquires r) = anyRing s := rfl
@[simp] theorem acquires_F (s : State) (r : Int) : (s.acquires r).F = s.F := rfl

theorem acquires_eq (s : State) (r : Int) :
    (modTime s fun t => { t with acquired := true, holdover := false, restartHold := false, refOffset := some r }) = s.acquires r := rfl

/-- No root, a reference acquired before or an invalid one: the row has no cause. -/
theorem refAcquire_absent (h : s.time.isRoot = false ∨ s.time.acquired = true ∨ refValid s = false) : refAcquire s sec = s := by
  have absent : (!s.time.isRoot || s.time.acquired || !refValid s) = true := by simpa [or_assoc] using h
  exact if_pos absent

section
variable (root : s.time.isRoot = true) (fresh : s.time.acquired = false) (valid : refValid s = true)
include root fresh valid

/-- A root that is not traceable takes the phase of the reference's seconds. -/
theorem refAcquire_phase (untraceable : s.time.traceable = false) : refAcquire s sec = s.acquires (phaseOffset s) := by
  simp [refAcquire, root, fresh, valid, untraceable, acquires_eq]

theorem refAcquire_refused (traceable : s.time.traceable = true) (refused : refGtc s sec = none) :
    refAcquire s sec = refRecord s 3 := by
  simp [refAcquire, root, fresh, valid, traceable, refused]

/-- Nothing yet depends on the GTC: it is loaded at the next tick. -/
theorem refAcquire_loads (traceable : s.time.traceable = true) (second : refGtc s sec = some g) (dark : noneActive s = true)
    (noRing : anyRing s = false) :
    refAcquire s sec = modTime (s.acquires (((g : Int) - s.now) * 65536)) fun t => { t with loadDue := true } := by
  simp [refAcquire, root, fresh, valid, traceable, second, dark, noRing, acquires_eq]

/-- The GTC is in use and the lead is below one folio: it is slewed. -/
theorem refAcquire_slews (traceable : s.time.traceable = true) (second : refGtc s sec = some g)
    (inUse : noneActive s = false ∨ anyRing s = true) (small : (g : Int) - s.now < s.F) :
    refAcquire s sec = s.acquires (((g : Int) - s.now) * 65536) := by
  have noLoad : (noneActive s && !anyRing s) = false := by
    rcases inUse with h | h <;> simp [h]
  have noStep : ¬ (g : Int) - s.now ≥ s.F := Int.not_le.2 small
  simp only [refAcquire, root, fresh, valid, traceable, second, acquires_eq, acquires_noneActive, acquires_anyRing, acquires_F, noLoad, noStep,
    Bool.not_true, Bool.or_self, Bool.false_eq_true, if_false]

end
end

/-! ## Loss and return (R54) -/

section
variable {s : State} {cause : RefLossCause} {sec n : Nat} {g : Gtc}

/-- An input pin's loss shows in the time unit alone. -/
theorem inputLost_only (s : State) (cause : RefLossCause) : s.OnlyState (inputLost s cause) := by
  cases cause <;> exact ⟨⟨rfl, rfl, rfl, rfl⟩, rfl, rfl, rfl, rfl⟩

/-- A loss does not say who leads, nor whether the root is in holdover already. -/
theorem inputLost_holdover (s : State) (cause : RefLossCause) : (inputLost s cause).time.isRoot = s.time.isRoot ∧
    (inputLost s cause).time.holdover = s.time.holdover ∧ (inputLost s cause).time.restartHold = s.time.restartHold := by
  cases cause <;> exact ⟨rfl, rfl, rfl⟩

theorem inputLost_time (s : State) (cause : RefLossCause) : inputLost s cause = { s with time := (inputLost s cause).time } := by
  cases cause <;> rfl

/-- A record carries the GTC and nothing else of the state. -/
theorem codexHand_codex {s u : State} (codex : u.codex = s.codex) (now : u.now = s.now) (code : Nat) (src : Source) (carrel : Nat)
    (data : BitVec 624) (fw : Bool) : (codexHand u code src carrel data fw).codex = (codexHand s code src carrel data fw).codex := by
  simp only [codexHand, modCodex, codex, now]

/-- Holdover from a state that differs in its time unit, the GTC aside. -/
theorem holdover_eq (t : TimeUnit) (clock : t.gtc = s.time.gtc) (n : Nat) : holdover { s with time := t } n = { mark s 0x110008 3 with
    time := { t with holdover := true, restartHold := false, refOffset := none, refStep := false, loadDue := false, refLost := true }
    codex := (codexHand s 0x22 0x80 0xFF (codexCause n 0)).codex } := by
  rw [← codexHand_codex (s := s) (u := { s with time := t }) rfl clock]
  rfl

theorem refLoss_holdover (selected : lossCause s cause = some n) (root : s.time.isRoot = true)
    (enters : s.time.holdover = false ∨ s.time.restartHold = true) :
    refLoss s cause = holdover { s with time := (inputLost s cause).time } n := by
  obtain ⟨sameRoot, sameHold, sameRestart⟩ := inputLost_holdover s cause
  have acts : (s.time.isRoot && (!s.time.holdover || s.time.restartHold)) = true := by simpa [root] using enters
  simp only [refLoss, selected, sameRoot, sameHold, sameRestart, acts, if_true, ← inputLost_time]

theorem refLoss_ignored (h : lossCause s cause = none ∨ s.time.isRoot = false ∨ (s.time.holdover = true ∧ s.time.restartHold = false)) :
    refLoss s cause = inputLost s cause := by
  obtain ⟨sameRoot, sameHold, sameRestart⟩ := inputLost_holdover s cause
  unfold refLoss
  cases selected : lossCause s cause with
  | none => rfl
  | some n =>
    have stays : (s.time.isRoot && (!s.time.holdover || s.time.restartHold)) = false := by
      rcases h with unselected | noRoot | ⟨held, noRestart⟩
      · simp [selected] at unselected
      · simp [noRoot]
      · simp [held, noRestart]
    simp only [sameRoot, sameHold, sameRestart, stays, Bool.false_eq_true, if_false]

/-- The reference is back: the new lead is slewed away, never stepped. -/
theorem refReturn_slews (root : s.time.isRoot = true) (held : s.time.holdover = true) (noRestart : s.time.restartHold = false)
    (selected : refSelect s ≠ 0) (traceable : s.time.traceable = true) (second : refGtc s sec = some g) :
    refReturn s sec = modTime s fun t => { t with
      tenMhz := true, holdover := false, acquired := true, refOffset := some (((g : Int) - s.now) * 65536) } := by
  have sameSelect : refSelect (modTime s fun t => { t with tenMhz := true }) = refSelect s := rfl
  have sameSecond : refGtc (modTime s fun t => { t with tenMhz := true }) sec = refGtc s sec := rfl
  have acts : (!s.time.isRoot || !s.time.holdover || s.time.restartHold || decide (refSelect s = 0)) = false := by
    simp [root, held, noRestart, selected]
  simp only [refReturn, modTime_time, sameSelect, sameSecond, acts, traceable, second, Bool.not_true, Bool.false_eq_true, if_false]
  rfl

end

/-! ## The edges of the 1PPS input (R53, R55) -/

/-- The stamps of the last two edges, the present one among them. -/
def State.sawEdge (s : State) : State := { s with time := { s.time with ppsEdges := (s.now :: s.time.ppsEdges).take 2 } }

theorem ppsEdge_unfollowed {s : State} (h : s.time.isRoot = false ∨ s.time.acquired = false) : ppsEdge s = s.sawEdge := by
  rcases h with h | h <;> simp [ppsEdge, modTime, State.sawEdge, h]

theorem ppsEdge_followed {s : State} (root : s.time.isRoot = true) (acquired : s.time.acquired = true) (inHold : s.time.holdover = false)
    (noLoad : s.time.loadDue = false) (pps : refSelect s = 1) : ppsEdge s =
      if refValid s.sawEdge then modTime s.sawEdge fun t => { t with refOffset := some (phaseOffset s.sawEdge) } else s.sawEdge := by
  have edge : (modTime s fun t => { t with ppsEdges := (s.now :: t.ppsEdges).take 2 }) = s.sawEdge := rfl
  have follows : (s.sawEdge.time.isRoot && s.sawEdge.time.acquired && !s.sawEdge.time.holdover && !s.sawEdge.time.loadDue &&
      decide (refSelect s.sawEdge = 1)) = true := by
    have sameSelect : refSelect s.sawEdge = refSelect s := rfl
    simp [State.sawEdge, root, acquired, inHold, noLoad] at sameSelect ⊢
    exact sameSelect.trans pps
  unfold ppsEdge
  simp only [edge, follows, Bool.true_and]

/-! ## A commanded and an announced step (R50) -/

/-- Link payloads wait at the ports: a flood leaves the time unit as it was. -/
theorem floodLink_time (s : State) (except : Option Nat) (p : Line) : (floodLink s except p).time = s.time := by
  unfold floodLink
  generalize List.range 8 = ports
  induction ports generalizing s with
  | nil => rfl
  | cons q ports ih =>
    rw [List.foldl_cons, ih]
    split <;> rfl

section
variable {s : State} {except : Option Nat} {id : Nat × Nat × Nat} {p : Line} {f : State → State}

theorem linkOnce_new (new : id ∉ s.lat.seen) :
    linkOnce s except id p f = floodLink (f (modLat s fun l => { l with seen := id :: l.seen })) except p := by
  simp [linkOnce, new]

theorem linkOnce_seen (seen : id ∈ s.lat.seen) : linkOnce s except id p f = s := by
  simp [linkOnce, seen]

/-- The step a root announces for the first time is pending at the root itself. -/
theorem announceStep_step {ks n cause : Nat} (new : (3, n, ks) ∉ s.lat.seen) :
    (announceStep s ks n cause).time.step = some (ks, n, cause) := by
  rw [announceStep, linkOnce_new new, floodLink_time]
  rfl

/-- GTC_STEP within its bounds on a root that may step. -/
theorem gtcStep_accepted {d : Line} (root : s.time.isRoot = true) (free : setBusy s = false) (noStep : s.time.step = none)
    (nonzero : 0 < dfld d 24 0 21) (bounded : dfld d 24 0 21 ≤ 2 ^ 20) (ahead : s.folio + 8 ≤ dfld d 16 0 64) :
    gtcStep s d = mgrOk (announceStep s (dfld d 16 0 64) (dfld d 24 0 21) 1) d := by
  have allowed : (!s.time.isRoot || setBusy s || s.time.step.isSome) = false := by simp [root, free, noStep]
  have bounds : (decide (dfld d 24 0 21 = 0) || decide (dfld d 24 0 21 > 2 ^ 20) || decide (dfld d 16 0 64 < s.folio + 8)) = false := by
    simp only [Nat.pos_iff_ne_zero.1 nonzero, Nat.not_lt.2 bounded, Nat.not_lt.2 ahead, decide_false, Bool.or_self]
  simp only [gtcStep, allowed, bounds, Bool.false_eq_true, if_false]

/-- A step announced in time, where none is pending, becomes pending and goes on to the other ports. -/
theorem stepHeard_new {port n ks : Nat} (noStep : s.time.step = none) (ahead : s.folio < ks) (new : (3, n, ks) ∉ s.lat.seen) :
    stepHeard s port n ks = floodLink { s with
      time := { s.time with step := some (ks, n, 1) }
      lat := { s.lat with seen := (3, n, ks) :: s.lat.seen } } (some port) (stepPayload n ks) := by
  have late : ¬ ks ≤ s.folio := Nat.not_le.2 ahead
  have sameFolio : (modLat s fun l => { l with seen := (3, n, ks) :: l.seen }).folio = s.folio := rfl
  rw [stepHeard, linkOnce_new new]
  simp only [modLat_time, noStep, sameFolio, late, Option.isSome_none, decide_false, Bool.or_self, Bool.false_eq_true, if_false]
  rfl

theorem exec_stepAnnounce {port n ks : Nat} (ready : s.Ready) (named : wfLat port = true) :
    exec (.stepAnnounce port n ks) s = .next (commitNow s (stepHeard s port n ks)) := by
  show need (wfLat port) (act s fun s => stepHeard s port n ks) = _
  rw [named, need_true, act_running s _ ready.1]

end

/-- Settles O17: each row by the case its state is in; a step's announcement is the first with its number and tick, or is dropped. -/
theorem timeReference : Obligations.TimeReference := by
  unfold Obligations.TimeReference
  refine ⟨?loads, ?slews, ?refused, ?phase, ?absent, ?holdover, ?unselected, ?returns, ?edge, ?followed, ?commanded, ?announced, ?again⟩
  case loads =>
    intro s sec g ready root traceable fresh valid second dark noRing
    exact exec_refAcquire_eq ready (refAcquire_loads root fresh valid traceable second dark noRing) ⟨⟨rfl, rfl, rfl, rfl⟩, rfl, rfl, rfl, rfl⟩
  case slews =>
    intro s sec g ready root traceable fresh valid second inUse small
    exact exec_refAcquire_eq ready (refAcquire_slews root fresh valid traceable second inUse small) ⟨⟨rfl, rfl, rfl, rfl⟩, rfl, rfl, rfl, rfl⟩
  case refused =>
    intro s sec ready root traceable fresh valid refused
    have recorded := (refAcquire_refused root fresh valid traceable refused).trans (refRecord_eq s 3)
    exact exec_refAcquire_eq ready recorded ⟨⟨rfl, rfl, rfl, rfl⟩, rfl, rfl, rfl, rfl⟩
  case phase =>
    intro s sec ready root untraceable fresh valid
    exact exec_refAcquire_eq ready (refAcquire_phase root fresh valid untraceable) ⟨⟨rfl, rfl, rfl, rfl⟩, rfl, rfl, rfl, rfl⟩
  case absent =>
    intro s sec ready h
    exact exec_refAcquire_eq ready (refAcquire_absent h) ⟨⟨rfl, rfl, rfl, rfl⟩, rfl, rfl, rfl, rfl⟩
  case holdover =>
    intro s cause n ready selected root enters
    have entered := (refLoss_holdover selected root enters).trans (holdover_eq _ (inputLost_only s cause).2.1 n)
    exact exec_refLoss_eq ready entered ⟨⟨rfl, rfl, rfl, rfl⟩, (inputLost_only s cause).2⟩
  case unselected =>
    intro s cause ready h
    exact exec_refLoss_eq ready (refLoss_ignored h) (inputLost_only s cause)
  case returns =>
    intro s sec g ready root held noRestart selected traceable second
    exact exec_refReturn_eq ready (refReturn_slews root held noRestart selected traceable second) ⟨⟨rfl, rfl, rfl, rfl⟩, rfl, rfl, rfl, rfl⟩
  case edge =>
    intro s ready h
    exact exec_ppsInEdge_eq ready (ppsEdge_unfollowed h) ⟨⟨rfl, rfl, rfl, rfl⟩, rfl, rfl, rfl, rfl⟩
  case followed =>
    rintro s _ ready rfl root acquired inHold noLoad pps
    refine exec_ppsInEdge_eq ready (ppsEdge_followed root acquired inHold noLoad pps) ?_
    split <;> exact ⟨⟨rfl, rfl, rfl, rfl⟩, rfl, rfl, rfl, rfl⟩
  case commanded =>
    intro s d ready root free noStep nonzero bounded ahead new
    refine ⟨?_, announceStep_step (s := takeHanded s .mgrSq d) new⟩
    show mgrCmd s d (fun s => gtcStep s d) = _
    rw [mgrCmd_ready s d _ ready, gtcStep_accepted (s := takeHanded s .mgrSq d) root free noStep nonzero bounded ahead]
  case announced =>
    intro s port n ks ready named noStep ahead new
    rw [exec_stepAnnounce ready named, stepHeard_new noStep ahead new]
  case again =>
    intro s port n ks ready named seen
    rw [exec_stepAnnounce ready named, stepHeard, linkOnce_seen seen, commitNow_only ready.2 ⟨⟨rfl, rfl, rfl, rfl⟩, rfl, rfl, rfl, rfl⟩]

end Sys2Proof.Machine
end

section
/-! PROOFS. The codex: its writer, its checkpoint, its readout and the clearing of the first-fault region (R38, R495, R496, R499, R501 to R503,
R513). -/

namespace Sys2Proof.Machine

/-! ## The writer (R497) -/

section
variable {s : State} {g : Gtc} {r : CodexRec} {rest : List CodexRec}

theorem rails_of_running (running : s.running = true) : s.pkg.rails = true := by
  simp only [State.running, Bool.and_eq_true] at running
  exact running.1.1.1.1

theorem closeAt_codexWrite (resumed : s.codex.resumed = true) : closeAt s .codexWrite = (codexWhen s).map .at := if_pos resumed

/-- On a running block the writer's next record is a window that time closes. -/
theorem execCodexWrite_running (running : s.running = true) (resumed : s.codex.resumed = true) :
    execCodexWrite s = .next (commit s (closeRow s .codexWrite)) := by
  simp [execCodexWrite, rails_of_running running, resumed, running]

/-- Where no clock runs the writer goes on while it has power. -/
theorem execCodexWrite_stopped (stopped : s.running = false) (rails : s.pkg.rails = true) (resumed : s.codex.resumed = true) :
    execCodexWrite s = .next (commit s (codexNext s)) := by
  simp [execCodexWrite, rails, resumed, stopped]

theorem closeRow_codexWrite (resumed : s.codex.resumed = true) (due : codexWhen s = some g) (reached : s.Reaches g) :
    closeRow s .codexWrite = codexNext (s.goTo g) := by
  have window : closeAt s .codexWrite = some (.at g) := by rw [closeAt_codexWrite resumed, due, Option.map_some]
  have comes : (decide (cyclesTo s.time g = 0) || decide (cyclesTo s.time g < cyclesTo s.time s.nextTickAt)) = true := by
    simpa using reached
  simp only [closeRow, window, atTime, comes, if_true]
  rfl

theorem codexWhen_none (released : s.codex.queue = []) (handed : s.codex.handed = []) : codexWhen s = none := by
  simp only [codexWhen, released, handed]

theorem codexWhen_released (released : s.codex.queue = r :: rest) : codexWhen s = some s.codex.freeAt := by
  simp only [codexWhen, released]

theorem codexWhen_handed (released : s.codex.queue = []) (handed : s.codex.handed = r :: rest) :
    codexWhen s = some (max s.codex.freeAt (r.stamp + 32000)) := by
  simp only [codexWhen, released, handed]

/-- A writer without power, or with nothing released or handed over, writes nothing. -/
theorem execCodexWrite_idle (ready : s.Ready)
    (h : s.codex.resumed = false ∨ (s.codex.queue = [] ∧ s.codex.handed = [])) : execCodexWrite s = .next s := by
  cases resumed : s.codex.resumed with
  | false => simp [execCodexWrite, resumed]
  | true =>
    obtain ⟨released, handed⟩ := h.resolve_left (by simp [resumed])
    have noWindow : closeAt s .codexWrite = none := by
      rw [closeAt_codexWrite resumed, codexWhen_none released handed, Option.map_none]
    rw [execCodexWrite_running ready.1.1 resumed, closeRow, noWindow, commit_self ready.2]

theorem codexNext_cons (released : s.codex.queue = r :: rest) : codexNext s =
    codexPut (modCodex (if s.codex.lost ≠ 0 ∧ rest.length < 1024 then mark s 0x210000 45 else s) fun c =>
      overflowPump { c with queue := rest, freeAt := s.now + 2400 }) r := by
  simp only [codexNext, released, Bool.and_eq_true, decide_eq_true_eq]
  split <;> rfl

/-! ## One record (R495, R496) -/

/-- The region a record goes to: the first-fault region by its code, while there is room (R496). -/
def goesFirst (s : State) (r : CodexRec) : Bool := firstFaultCodes.contains r.code && decide (s.codex.first.length < 4096)

/-- The record as it is written: its region, SEQUENCE, and the chain over the last one and its bytes (R495). -/
def written (s : State) (r : CodexRec) : CodexRec := { r with
  ff := goesFirst s r, seq := s.codex.nextSeq
  chain := shaBits (bytesOf s.codex.lastChain ++ codexBytes { r with ff := goesFirst s r, seq := s.codex.nextSeq }) }

theorem codexPut_codex (s : State) (r : CodexRec) : (codexPut s r).codex = { s.codex with
    first := if goesFirst s r then s.codex.first ++ [written s r] else s.codex.first
    ring := if goesFirst s r then s.codex.ring else (written s r :: s.codex.ring).take 520192
    ringPos := if goesFirst s r then s.codex.ringPos else if s.codex.ringPos + 1 = 524288 then 4096 else s.codex.ringPos + 1
    nextSeq := (s.codex.nextSeq + 1) % 2 ^ 32, lastChain := (written s r).chain } := rfl

end

/-! ## Checkpoints (R499) -/

section
variable {s : State} {r : CodexRec}

theorem checkpoint_notDue (h : fwAlive s = false ∨ checkpointDue s = false) : checkpoint s = s := by
  have waits : (!fwAlive s || !checkpointDue s) = true := by simpa using h
  unfold checkpoint
  dsimp only
  split
  · rfl
  · exact if_pos waits

theorem checkpoint_due (latest : codexFind s.codex (sub32 s.codex.nextSeq 1) = some r) (runs : fwAlive s = true) (due : checkpointDue s = true) :
    checkpoint s = sigPump (modSec (modCodex s fun c => { c with ckPending := some (sub32 s.codex.nextSeq 1) }) fun x =>
      { x with ckptQ := some (.checkpoint (sub32 s.codex.nextSeq 1) r.stamp r.chain) }) := by
  simp only [checkpoint, latest, runs, due, Bool.not_true, Bool.or_self, Bool.false_eq_true, if_false]

end

/-! ## Readout and clearing (R501 to R503) -/

section
variable {s : State} {d : Line}

/-- A signature over an earlier count or sequence: the clear is stale (log 66). -/
def staleClear (s : State) (key sig : List Byte) : Bool :=
  (List.range (s.codex.clearCount + 1)).any fun n => (List.range s.codex.nextSeq).any fun q => Config.slhDsaVerify key (clearMsg n q) sig

/-! Taking a command off the manager ring leaves what its checks look at. -/

theorem takeHanded_codex (s : State) (d : Line) : (takeHanded s .mgrSq d).codex = s.codex := rfl
theorem clearKeyOk_takeHanded (s : State) (d : Line) (key : List Byte) : clearKeyOk (takeHanded s .mgrSq d) key = clearKeyOk s key := rfl
theorem staleClear_takeHanded (s : State) (d : Line) (key sig : List Byte) :
    staleClear (takeHanded s .mgrSq d) key sig = staleClear s key sig := rfl
theorem domNamed_takeHanded (s : State) (d : Line) (dom off len : Nat) :
    domNamed (takeHanded s .mgrSq d) dom off len = domNamed s dom off len := rfl
theorem readBlock_takeHanded (s : State) (d : Line) (off len : Nat) :
    readBlock (takeHanded s .mgrSq d) off len = readBlock s off len := rfl

/-- CODEX_READ of a range by the checks of R501. -/
theorem codexRead_eq (s : State) (d : Line) : codexRead s d =
    if dfld d 16 0 39 % 64 ≠ 0 ∨ (dfld d 28 0 32 ≠ 0 ∧ domNamed s 64 (dfld d 16 0 39) (128 * dfld d 28 0 32) = false) then mgrFail s d 3
    else mgrOk (wrAlloc s 64 (dfld d 16 0 39) ((codexRange s.codex (dfld d 24 0 32) (dfld d 28 0 32)).flatMap codexLine)) d
      (codexRange s.codex (dfld d 24 0 32) (dfld d 28 0 32)).length := by
  simp only [codexRead, Bool.or_eq_true, Bool.and_eq_true, decide_eq_true_eq, Bool.not_eq_true']

theorem codexClear_unreadable (block : readBlock s (dfld d 16 0 39) 7888 = none) : codexClear s d = mgrFail s d 3 := by
  simp only [codexClear, block]

theorem codexClear_readable {bs : List Byte} (block : readBlock s (dfld d 16 0 39) 7888 = some bs) : codexClear s d =
    if clearKeyOk s (bs.take 32) = false then mgrFail s d 3
    else if Config.slhDsaVerify (bs.take 32) (clearMsg s.codex.clearCount (newestFf s.codex)) (bs.drop 32) = true then
      mgrOk (codexHand (modCodex s fun c => { c with first := [], clearCount := (c.clearCount + 1) % 2 ^ 32 }) 0x06 0x090 0xFF
        (layout 624 [(0, 32, s.codex.clearCount), (32, 32, newestFf s.codex)]) true) d
    else if staleClear s (bs.take 32) (bs.drop 32) = true then mgrFail s d 2
    else mgrFail s d 3 := by
  simp only [codexClear, block, Bool.not_eq_true']
  rfl

end

/-- Settles O59: the writer's row by what its queues hold, the commands by their checks. -/
theorem codexCommands : Obligations.CodexCommands := by
  unfold Obligations.CodexCommands
  refine ⟨?write, ?next, ?put, ?idle, ?checkpoint, ?read, ?unreadable, ?clear, ?mctp⟩
  case write =>
    intro s g resumed due
    refine ⟨fun running reached => ?_, fun stopped rails => execCodexWrite_stopped stopped rails resumed⟩
    rw [← closeRow_codexWrite resumed due reached]
    exact execCodexWrite_running running resumed
  case next =>
    exact fun s r rest => ⟨fun released => ⟨codexWhen_released released, codexNext_cons released⟩, codexWhen_handed⟩
  case put =>
    intro s r
    rw [codexPut_codex]
    refine ⟨rfl, fun (first : goesFirst s r = true) => ⟨written s r, ?_⟩, fun (ring : goesFirst s r = false) => ⟨written s r, ?_⟩⟩
    · simp only [first, if_true, written, and_self]
    · simp only [ring, Bool.false_eq_true, if_false, written, and_self]
  case idle => exact fun s ready h => execCodexWrite_idle ready h
  case checkpoint =>
    intro s ready
    refine ⟨fun h => act_only ready (checkpoint_notDue h) ⟨⟨rfl, rfl, rfl, rfl⟩, rfl, rfl, rfl, rfl⟩, fun r latest runs due => ?_⟩
    show act s checkpoint = _
    rw [act_running s _ ready.1, checkpoint_due latest runs due]
  case read =>
    intro s d ready
    show mgrCmd s d (fun s => codexRead s d) = _
    rw [mgrCmd_ready s d _ ready, codexRead_eq, domNamed_takeHanded, takeHanded_codex]
  case unreadable =>
    intro s d ready block
    show mgrCmd s d (fun s => codexClear s d) = _
    rw [mgrCmd_ready s d _ ready, codexClear_unreadable ((readBlock_takeHanded s d _ _).trans block)]
  case clear =>
    intro s d bs ready block
    show mgrCmd s d (fun s => codexClear s d) = _
    rw [mgrCmd_ready s d _ ready, codexClear_readable ((readBlock_takeHanded s d _ _).trans block), clearKeyOk_takeHanded,
      staleClear_takeHanded, takeHanded_codex]
    rfl
  case mctp =>
    intro s f n ready
    refine act_only ready (f := fun s => if fwAlive s then mctpEmit s (.mctpCodex (codexRange s.codex (f % 2 ^ 32) n)) else s) rfl ?_
    split <;> exact ⟨⟨rfl, rfl, rfl, rfl⟩, rfl, rfl, rfl, rfl⟩

end Sys2Proof.Machine
end

section
/-! PROOFS. A step from a safe state ends in a safe one (R85, R275, R513). -/

namespace Sys2Proof.Machine

theorem exec_safe {s t : State} {c : Instr} (safe : s.Safe) (next : exec c s = .next t) : t.Safe := by
  obtain ⟨fits, misfits, -⟩ := commandsLeaveTheQueue
  cases fit : commandFits c with
  | true =>
    obtain ⟨u, same, -, keeps⟩ := fits s c fit
    rw [next] at same
    injection same with same
    exact same ▸ keeps safe
  | false =>
    rcases misfits s c fit with stop | stop <;> rw [next] at stop <;> nomatch stop

/-- A cycle with no command commits what it leaves, or changes nothing. -/
theorem idle_safe {s : State} (safe : s.Safe) : (idle s).Safe := by
  unfold idle
  split
  · exact commit_safe s _ safe
  · exact safe

/-- Settles O3: a step is one command on the state with the rest of the queue, or one cycle, and both commit their writes. -/
theorem stepKeepsASafeState : Obligations.StepKeepsASafeState := by
  unfold Obligations.StepKeepsASafeState
  intro s t safe next
  cases queue : s.pending with
  | nil =>
    rw [step_idle s queue] at next
    injection next with same
    exact same ▸ idle_safe safe
  | cons c rest =>
    rw [frontOfTheQueueRuns s c rest queue] at next
    exact exec_safe (s := { s with pending := rest }) safe next

end Sys2Proof.Machine
end

section
/-! PROOFS. Reading a ring after an update, what such an update leaves alone, and the LAP a fetched descriptor is taken by (R67). -/

namespace Sys2Proof.Machine

/-! ## Reading a ring after an update -/

@[simp] theorem getFn_modFn_same (s : State) (n : Nat) (f : Fn → Fn) : getFn (modFn s n f) n = f (getFn s n) :=
  tget_tput_same _ _ _ _

theorem getFn_modFn_other (s : State) {n m : Nat} (f : Fn → Fn) (h : m ≠ n) : getFn (modFn s n f) m = getFn s m :=
  tget_tput_other _ _ _ _ _ h

@[simp] theorem getQp_modQp_same (s : State) (n : Nat) (f : Qp → Qp) : getQp (modQp s n f) n = (getQp s n).map f :=
  lookup_tupd_same _ _ _

@[simp] theorem getRing_modRing_same (s : State) (ref : RingRef) (f : Ring → Ring) :
    getRing (modRing s ref f) ref = (getRing s ref).map f := by
  cases ref with
  | sq qp | rq qp =>
    simp only [getRing, modRing, getQp_modQp_same]
    cases getQp s qp <;> rfl
  | ctlSq fn => simp only [getRing, modRing, getFn_modFn_same, Option.map_some]
  | mgrSq | ctlCq _ | mgrCq | cq _ _ | eq _ => rfl

/-- An update of a ring leaves the function it belongs to. -/
theorem refFn_modRing (s : State) (ring : RingRef) (f : Ring → Ring) : refFn (modRing s ring f) ring = refFn s ring := by
  cases ring with
  | sq qp | rq qp =>
    simp only [refFn, modRing, getQp_modQp_same]
    cases getQp s qp <;> rfl
  | ctlSq _ | mgrSq | ctlCq _ | mgrCq | cq _ _ | eq _ => rfl

/-- An update of a completion ring fences no function. -/
theorem fenced_modCq (s : State) (ring : RingRef) (f : CqRing → CqRing) (n : Nat) : (getFn (modCq s ring f) n).fenced = (getFn s n).fenced := by
  have fenced : ∀ (m : Nat) (g : Fn → Fn), (∀ x, (g x).fenced = x.fenced) → (getFn (modFn s m g) n).fenced = (getFn s n).fenced := by
    intro m g keeps
    by_cases same : n = m
    · rw [same, getFn_modFn_same, keeps]
    · rw [getFn_modFn_other s g same]
  cases ring with
  | ctlCq m | eq m => exact fenced m _ fun _ => rfl
  | ctlSq _ | mgrSq | mgrCq | sq _ | rq _ | cq _ _ => rfl

/-! ## Updates of rings leave store and clock alone -/

theorem State.OnlyState.trans {s t u : State} (h : s.OnlyState t) (k : t.OnlyState u) : s.OnlyState u := by
  obtain ⟨⟨hw, hp, hm, hq⟩, hg, hgm, hf, ht⟩ := h
  obtain ⟨⟨kw, kp, km, kq⟩, kg, kgm, kf, kt⟩ := k
  exact ⟨⟨kw.trans hw, kp.trans hp, km.trans hm, kq.trans hq⟩, kg.trans hg, kgm.trans hgm, kf.trans hf, kt.trans ht⟩

theorem modRing_only (s : State) (ref : RingRef) (f : Ring → Ring) : s.OnlyState (modRing s ref f) := by
  cases ref <;> exact ⟨⟨rfl, rfl, rfl, rfl⟩, rfl, rfl, rfl, rfl⟩

theorem modCq_only (s : State) (ref : RingRef) (f : CqRing → CqRing) : s.OnlyState (modCq s ref f) := by
  cases ref <;> exact ⟨⟨rfl, rfl, rfl, rfl⟩, rfl, rfl, rfl, rfl⟩

theorem dropFetches_only (s : State) (ref : RingRef) : s.OnlyState (dropFetches s ref) := ⟨⟨rfl, rfl, rfl, rfl⟩, rfl, rfl, rfl, rfl⟩

theorem takeHanded_only (s : State) (ref : RingRef) (d : Line) : s.OnlyState (takeHanded s ref d) := modRing_only s ref _

theorem modQp_only (s : State) (qp : Nat) (f : Qp → Qp) : s.OnlyState (modQp s qp f) := ⟨⟨rfl, rfl, rfl, rfl⟩, rfl, rfl, rfl, rfl⟩

/-! ## Descriptors and their LAP (R67) -/

/-- A slot whose LAP is not that of C_dev only opens the window of R74, or leaves it open. -/
theorem fetchResult_mismatch {s : State} {ref : RingRef} {r : Ring} {d : Line} {poison : Bool}
    (other : poison = true ∨ dLap d ≠ ((r.cDev >>> r.log2) + 1) % 65536) : fetchResult s ref r d poison = modRing s ref fun r => { r with
      window := if r.window.isSome then r.window else some s.now
      refetches := if r.window.isSome then r.refetches else 0, lastPoison := poison, lapFound := dLap d } := by
  have refused : ¬ (!poison && decide (dLap d = ((r.cDev >>> r.log2) + 1) % 65536)) = true := by
    rcases other with h | h <;> simp [h]
  exact if_neg refused

theorem and_mask16 (x : Nat) : x &&& 0xFFFF = x % 65536 := Nat.and_two_pow_sub_one_eq_mod x 16

/-- Settles O8: a mismatch changes the window alone, and a LAP is one more than that of the previous pass. -/
theorem aDescriptorIsTakenOnlyByItsLap : Obligations.ADescriptorIsTakenOnlyByItsLap := by
  unfold Obligations.ADescriptorIsTakenOnlyByItsLap
  refine ⟨?mismatch, ?laps⟩
  case mismatch =>
    intro s ref r d poison ring other
    rw [and_mask16] at other
    rw [fetchResult_mismatch (.inr other), getRing_modRing_same, ring]
    rfl
  case laps =>
    intro i n
    rw [and_mask16, and_mask16]
    refine ⟨by omega, fun first => ?_⟩
    rw [Nat.shiftRight_eq_div_pow, Nat.div_eq_of_lt first]
    decide

end Sys2Proof.Machine
end

section
/-! PROOFS. A producer doorbell where a waiting write carries the number the next access takes (R69, R74). -/

namespace Sys2Proof.Machine

/-- Doorbell writes reach a block whose BAR is open (R69, R390, R507). -/
theorem bellAct_ready {s : State} (f : State → State) (ready : s.BarReady) : bellAct s f = .next (commitNow s (f s)) := by
  obtain ⟨⟨runs, -⟩, up, done⟩ := ready
  rw [bellAct, act_running s _ runs]
  simp only [up, done, Bool.true_or, Bool.and_self, if_true]

theorem exec_doorbellProducer {s : State} {fn num index : Nat} (ready : s.BarReady) (fits : (wfFn fn && wfBell num && wfIndex index) = true) :
    exec (.doorbellProducer fn num index) s = .next (commitNow s (doorbell s fn num 0 index)) := by
  show execDoorbellProducer fn num index s = _
  rw [execDoorbellProducer, fits, need_true, bellAct_ready _ ready]

/-- A write of the byte 1 to HBM address 0, under access number 0, that has not been issued. -/
def waitingWrite : Access :=
  { id := 0, who := .send 1 0, source := 0, ctx := 0, seg := 0, va := 0, len := 1, write := true, data := [1], poison := false, place := .hbm,
    addr := 0, fn := 0, pasid := none, xlatReq := false, fault := none, issued := false, left := 0, folio := 0, hostLines := [], dropped := false,
    result := none }

/-- The block after INIT_DONE with the host link up and PF0's control ring enabled in host memory. The write waits under number 0, and
0 is the number the next access takes. -/
def numberGivenTwice : State := { State.reset with
  glb := { Glb.reset with initDone := true }
  cxl := { Cxl.reset with linkUp := true, memSpace := true, busMaster := true }
  fns := [(0, { Fn.reset 0 with ctlSq := { Ring.none_ 0 with enabled := true } })]
  xl := { Xl.reset with accesses := [waitingWrite] } }

/-- The read of the ring's slot takes number 0, and the first access of that number, the write, is the one that goes on. -/
theorem doorbell_numberGivenTwice_wlog : (doorbell numberGivenTwice 0 0 0 1).wlog = [(0, 1)] := by decide

/-- Refutes O20, in its clause of the producer doorbell: the fetch the doorbell starts is looked up by its access number, and the clause
asks nothing of the numbers of the accesses in progress. On `numberGivenTwice` a write of HBM waits under the number the fetch takes, so
that write is carried out and HBM changes. Only a state that gives a number a second time tells; an access of the model's own takes a
number above those before it. -/
theorem not_doorbells : ¬ Obligations.Doorbells := by
  unfold Obligations.Doorbells
  rintro ⟨producer, -⟩
  have ready : numberGivenTwice.BarReady := by decide
  have fits : (wfFn 0 && wfBell 0 && wfIndex 1) = true := by decide
  obtain ⟨t, claimed, -, sameHbm, -⟩ := producer numberGivenTwice 0 0 1 (.ctlSq 0) { Ring.none_ 0 with enabled := true } ready fits
    (.inl rfl) rfl rfl rfl (by decide) (by decide)
  rw [exec_doorbellProducer ready fits] at claimed
  injection claimed with same
  have stored : t.hbm.cells = [(0, 1)] := by
    rw [← same, commitNow_cells]
    simp only [commit, doorbell_numberGivenTwice_wlog]
    rfl
  rw [sameHbm] at stored
  nomatch stored

end Sys2Proof.Machine
end

section
/-! PROOFS. The result of a slot's read, the re-fetch, and the close of the window of a mismatch (R67, R74 to R76). -/

namespace Sys2Proof.Machine

/-! ## The bytes of a word (R2) -/

theorem natOf_append (bs cs : List Byte) : natOf (bs ++ cs) = natOf bs + 256 ^ bs.length * natOf cs := by
  induction bs with
  | nil => simp [natOf]
  | cons b bs ih =>
    have rest : natOf (b :: (bs ++ cs)) = b.toNat + 256 * natOf (bs ++ cs) := rfl
    have first : natOf (b :: bs) = b.toNat + 256 * natOf bs := rfl
    rw [List.cons_append, rest, first, ih, List.length_cons, Nat.pow_succ, Nat.mul_comm (256 ^ bs.length) 256, Nat.mul_assoc 256, Nat.mul_add,
      Nat.add_assoc]

/-- The lowest `k` bytes of a word spell its lowest `8 k` bits. -/
theorem natOf_lowBytes {n : Nat} (x : BitVec n) (k : Nat) :
    natOf ((List.range k).map fun i => x.extractLsb' (8 * i) 8) = x.toNat % 2 ^ (8 * k) := by
  induction k with
  | zero => simp [natOf, Nat.mod_one]
  | succ k ih =>
    have byte : natOf [x.extractLsb' (8 * k) 8] = x.toNat / 2 ^ (8 * k) % 256 := by
      simp [natOf, BitVec.extractLsb'_toNat, Nat.shiftRight_eq_div_pow]
    have width : (2 : Nat) ^ (8 * (k + 1)) = 2 ^ (8 * k) * 256 := by rw [Nat.mul_succ, Nat.pow_add]
    rw [List.range_succ, List.map_append, List.map_singleton, natOf_append, ih, byte, List.length_map, List.length_range, width, Nat.mod_mul,
      Nat.pow_mul]

/-- The bytes of a descriptor spell it. -/
theorem ofBytes_bytesOf (d : Line) : ofBytes 512 (bytesOf d) = d := by
  have whole : natOf (bytesOf d) = d.toNat := (natOf_lowBytes d 64).trans d.toNat_mod_cancel
  rw [ofBytes, whole, BitVec.ofNat_toNat, BitVec.setWidth_eq]

/-! ## The result of a read (R74) -/

section
variable {s w : State} {ring : RingRef} {r : Ring} {a : Access} {d : Line} {poison : Bool}

/-- The read is taken off the accesses, and off the host reads where it was one. -/
def readTaken (s : State) (a : Access) : State :=
  dropAccess (if a.place = .host then bwBytes (modCxl s fun c => { c with reads := c.reads.filter fun x => x.2.access ≠ a.id }) 28 false 64 else s)
    a.id

theorem takeFetch_some (next : fetchNext s ring = some a) :
    takeFetch s ring d poison = fetchEnd (readTaken s a) ring a 0 (bytesOf (fetchedData s a d poison).1) (fetchedData s a d poison).2 := by
  simp only [takeFetch, next, readTaken]

theorem takeFetch_none (next : fetchNext s ring = none) : takeFetch s ring d poison = s := by
  simp only [takeFetch, next]

/-- A result to be discarded is. -/
theorem fetchEnd_dropped {st : Nat} {data : List Byte} (dropped : a.dropped = true) : fetchEnd s ring a st data poison = s := by
  unfold fetchEnd
  cases getRing s ring <;> simp [dropped]

/-- The result of a read counts on an enabled ring that may fetch. -/
theorem fetchEnd_counts (counts : a.dropped = false) (found : getRing s ring = some r) (enabled : r.enabled = true)
    (may : canFetch s ring r = true) : fetchEnd s ring a 0 (bytesOf d) poison = fetchResult s ring r d poison := by
  have same : { r with enabled := true } = r := by rw [← enabled]
  simp only [fetchEnd, found, counts, enabled, same, may, ofBytes_bytesOf, Bool.not_true, Bool.false_and, Bool.or_false, Bool.false_eq_true, if_false,
    if_true]

theorem exec_descriptorFetchResult (ready : s.Ready) :
    exec (.descriptorFetchResult ring d poison) s = .next (commitNow s (settle (takeFetch s ring d poison))) :=
  act_running s (fun s => settle (takeFetch s ring d poison)) ready.1

/-- The window of a mismatch closes, and what is still outstanding is to be discarded. -/
def slotMet (s : State) (ring : RingRef) : State :=
  modRing (dropFetches s ring) ring fun r => { r with window := none, refetches := 0, lastPoison := false }

/-- C_dev moves on by one. -/
def slotPassed (s : State) (ring : RingRef) : State := modRing s ring fun r => { r with cDev := (r.cDev + 1) % 2 ^ 32 }

/-- The QP a descriptor ring belongs to is in ERROR. -/
def inError (s : State) : RingRef → Bool
  | .sq qp => ((getQp s qp).map fun q => decide (q.state = .error)).getD false
  | .rq qp => ((getQp s qp).map fun q => decide (q.state = .error)).getD false
  | _ => false

theorem inError_eq_false (sound : ∀ qp, ring = .sq qp ∨ ring = .rq qp → (getQp s qp).map (·.state) ≠ some .error) :
    inError s ring = false := by
  cases ring with
  | sq qp | rq qp =>
    have sound := sound qp (by simp)
    cases found : getQp s qp with
    | none => simp [inError, found]
    | some q => simpa [inError, found] using sound
  | ctlSq _ | mgrSq | ctlCq _ | mgrCq | cq _ _ | eq _ => rfl

/-- A slot of the LAP of C_dev is taken, unless it is the first of a pair that must wait. -/
theorem fetchResult_match (lap : dLap d = ((r.cDev >>> r.log2) + 1) % 65536) : fetchResult s ring r d false =
    if !inError (slotMet s ring) ring && pairWaits (slotMet s ring) r d then slotMet s ring
    else startFetch (if inError (slotMet s ring) ring then flushFetched (slotPassed (slotMet s ring) ring) ring r d
      else if opcodeOk (slotPassed (slotMet s ring) ring) ring (pairOpen r) d then
        modRing (slotPassed (slotMet s ring) ring) ring fun r => { r with handed := r.handed ++ [d] }
      else invalidDescriptor (slotPassed (slotMet s ring) ring) ring d false) ring := by
  have accepted : (!false && decide (dLap d = ((r.cDev >>> r.log2) + 1) % 65536)) = true := by simp [lap]
  exact if_pos accepted

/-- One with a valid opcode, of a QP not in ERROR, is handed over. -/
theorem fetchResult_taken (lap : dLap d = ((r.cDev >>> r.log2) + 1) % 65536) (free : pairWaits (slotMet s ring) r d = false)
    (sound : inError (slotMet s ring) ring = false) (valid : opcodeOk (slotPassed (slotMet s ring) ring) ring (pairOpen r) d = true) :
    fetchResult s ring r d false =
      startFetch (modRing (slotPassed (slotMet s ring) ring) ring fun r => { r with handed := r.handed ++ [d] }) ring := by
  simp only [fetchResult_match lap, free, sound, valid, Bool.and_false, Bool.false_eq_true, if_true, if_false]

end

/-! ## The re-fetch and the close of the window (R74) -/

section
variable {s : State} {ring : RingRef} {r : Ring} {o : Gtc}

theorem closeAt_refetch (found : getRing s ring = some r) (opened : r.window = some o) (left : r.refetches < 8) :
    closeAt s (.refetch ring) = some (.at (o + 3840 * (r.refetches + 1))) := by
  simp only [closeAt, found, opened, Option.bind_some, if_pos left]

theorem closeAt_ahead (found : getRing s ring = some r) (opened : r.window = some o) : closeAt s (.ahead ring) = some (.at (o + 32000)) := by
  simp only [closeAt, found, opened, Option.bind_some, Option.map_some]

theorem closed_ahead (found : getRing s ring = some r) : closed s (.ahead ring) = aheadClose s ring r := by
  simp only [closed, found]

/-- A window that found no poison stops the ring and posts DOORBELL_AHEAD. -/
theorem aheadClose_clean {u : State} (clean : r.lastPoison = false)
    (stopped : u = modRing (slotMet s ring) ring fun r => { r with stopped := true }) :
    aheadClose s ring r = postEvent u (refFn u ring) 0x01 (fnSource (refFn u ring)) (carrelField ((fnDom u (refFn u ring)).getD 64))
      (refObject ring) (evData [(20, 32, r.cDev), (24, 16, ((r.cDev >>> r.log2) + 1) % 65536), (26, 16, r.lapFound), (28, 8, r.refetches)]) := by
  have fn : refFn u ring = refFn (slotMet s ring) ring := by rw [stopped, refFn_modRing]
  rw [fn, stopped]
  simp only [aheadClose, clean, Bool.false_eq_true, if_false]
  rfl

end

/-- Settles O21: a result by what it answers and the slot it brings, the re-fetch and the window's end as closes of windows. -/
theorem descriptorFetch : Obligations.DescriptorFetch := by
  unfold Obligations.DescriptorFetch
  refine ⟨?taken, ?mismatch, ?dropped, ?unread, ?refetch, ?refetchSlot, ?ahead⟩
  case taken =>
    intro s ring d poison r a w v u ready next counts took found enabled may clean lap met free sound passed valid
    have took : readTaken s a = w := took.symm
    have met : slotMet w ring = v := met.symm
    have passed : slotPassed (slotMet w ring) ring = u := by rw [met]; exact passed.symm
    rw [exec_descriptorFetchResult ready, takeFetch_some next, took, fetchEnd_counts counts found enabled may, clean,
      fetchResult_taken lap (by rwa [met]) (by rw [met]; exact inError_eq_false sound) (by rwa [passed]), passed]
  case mismatch =>
    intro s ring d poison r a w ready next counts took found enabled may other
    have took : readTaken s a = w := took.symm
    rw [exec_descriptorFetchResult ready, takeFetch_some next, took, fetchEnd_counts counts found enabled may, fetchResult_mismatch other]
  case dropped =>
    intro s ring d poison a ready next dropped
    rw [exec_descriptorFetchResult ready, takeFetch_some next, fetchEnd_dropped dropped]
    rfl
  case unread =>
    intro s ring d poison ready next
    rw [exec_descriptorFetchResult ready, takeFetch_none next]
  case refetch =>
    intro s ring r o running found opened left reached
    exact closeCmd_at s (.refetch ring) _ running (closeAt_refetch found opened left) reached
  case refetchSlot =>
    intro s ring r found
    simp only [refetchSlot, found]
  case ahead =>
    intro s ring r o q u running found opened reached closing clean stopped
    rw [← aheadClose_clean clean stopped, ← closed_ahead closing]
    exact closeCmd_at s (.ahead ring) _ running (closeAt_ahead found opened) reached

end Sys2Proof.Machine
end

section
/-! PROOFS. Creation, destruction and rebinding of rings (R64, R82, R83, R96). -/

namespace Sys2Proof.Machine

section
variable {s : State} {fn : Nat} {d : Line} {ref : RingRef}

/-! ## RING_CREATE (R82, R83) -/

theorem exec_ringCreate_accepted (ready : s.Ready) (fits : wfFn fn = true) (accepted : createReason (takeHanded s (.ctlSq fn) d) fn d = 0) :
    exec (.ringCreate fn d) s = .next (commitNow s (ctlDone (createRing (takeHanded s (.ctlSq fn) d) fn d) fn d 0 0)) := by
  show execRingCreate fn d s = _
  rw [execRingCreate, fits, need_true, act_running s _ ready.1]
  simp only [if_pos accepted]

theorem exec_ringCreate_refused (ready : s.Ready) (fits : wfFn fn = true) (refused : createReason (takeHanded s (.ctlSq fn) d) fn d ≠ 0) :
    exec (.ringCreate fn d) s =
      .next (commitNow s (ctlDone (takeHanded s (.ctlSq fn) d) fn d 0xC (createReason (takeHanded s (.ctlSq fn) d) fn d))) := by
  show execRingCreate fn d s = _
  rw [execRingCreate, fits, need_true, act_running s _ ready.1]
  simp only [if_neg refused]

theorem reason_passed {c : Prop} [Decidable c] {reason rest : Nat} (accepted : (if c then reason + 1 else rest) = 0) : ¬ c ∧ rest = 0 := by
  split at accepted
  case isTrue => exact absurd accepted (Nat.succ_ne_zero reason)
  case isFalse fits => exact ⟨fits, accepted⟩

/-- An accepted send queue lies in a segment, and its QP is there. -/
theorem createReason_sendQueue (accepted : createReason s fn d = 0) (send : rcKind d = 0) :
    (ringSeg s fn (rcBase d) (kindEntry (rcKind d) * 2 ^ rcLog2 d)).isSome = true ∧ (getQp s (rcObject d)).isSome = true := by
  unfold createReason at accepted
  obtain ⟨-, afterOpcode⟩ := reason_passed accepted
  obtain ⟨-, afterFields⟩ := reason_passed afterOpcode
  obtain ⟨covered, afterMemory⟩ := reason_passed afterFields
  obtain ⟨-, afterBell⟩ := reason_passed afterMemory
  obtain ⟨unused, -⟩ := reason_passed afterBell
  constructor
  · cases lies : ringSeg s fn (rcBase d) (kindEntry (rcKind d) * 2 ^ rcLog2 d) with
    | none => simp [lies] at covered
    | some seg => rfl
  · have names : rcRef fn d = some (.sq (rcObject d)) := by simp only [rcRef, send]
    cases there : getQp s (rcObject d) with
    | none => simp [names, there] at unused
    | some q => rfl

/-- The ring of an accepted send queue. -/
theorem getRing_createRing (lies : (ringSeg s fn (rcBase d) (kindEntry (rcKind d) * 2 ^ rcLog2 d)).isSome = true) 
    (there : (getQp s (rcObject d)).isSome = true) (send : rcKind d = 0) :
    (getRing (createRing s fn d) (.sq (rcObject d))).map (fun r => (r.fn, r.log2, r.bell, r.bind, r.enabled, r.pDev, r.cDev, r.handed)) =
      some (fn, rcLog2 d, rcBell d, rcBind d, true, 0, 0, []) := by
  obtain ⟨seg, lies⟩ := Option.isSome_iff_exists.1 lies
  obtain ⟨q, there⟩ := Option.isSome_iff_exists.1 there
  have names : rcRef fn d = some (.sq (rcObject d)) := by simp only [rcRef, send]
  simp only [createRing, lies, names, getRing, getQp_modQp_same, there, Option.map_some, Option.bind_some]
  rfl

/-! ## RING_DESTROY and RING_REBIND (R82, R96) -/

theorem exec_ringDestroy_present (ready : s.Ready) (fits : wfFn fn = true) (names : rcRef fn d = some ref)
    (there : refPresent (takeHanded s (.ctlSq fn) d) fn ref = true)
    (free : (rcKind d = 2 && cqBound (takeHanded s (.ctlSq fn) d) fn (rcObject d)) = false) :
    exec (.ringDestroy fn d) s = .next (modCq (modRing (dropFetches (takeHanded s (.ctlSq fn) d) ref) ref fun r =>
      { r with enabled := false, window := none, destroy := r.destroy ++ [d] }) ref fun q => { q with destroy := q.destroy ++ [d] }) := by
  show execRingDestroy fn d s = _
  rw [execRingDestroy, fits, need_true]
  refine act_only ready ?_ ((((takeHanded_only s _ d).trans (dropFetches_only _ ref)).trans (modRing_only _ ref _)).trans (modCq_only _ ref _))
  simp only [names, there, free, Bool.not_true, Bool.false_eq_true, if_false]

theorem exec_ringDestroyDone_quiet (ready : s.Ready) (waits : destroyCmd s ref ≠ []) (quiet : ringQuiet s ref = true) :
    exec (.ringDestroyDone ref) s =
      .next (commitNow s ((destroyCmd s ref).foldl (fun u d => ctlDone u (refFn s ref) d 0 0) (removeRing s ref))) := by
  show execRingDestroyDone ref s = _
  rw [execRingDestroyDone, act_running s _ ready.1]
  simp only [waits, quiet, decide_false, Bool.not_true, Bool.or_self, Bool.false_eq_true, if_false]

theorem exec_ringRebind_up (ready : s.Ready) (fits : wfFn fn = true) (names : rcRef fn d = some ref)
    (there : refPresent (takeHanded s (.ctlSq fn) d) fn ref = true) (up : fnUp s fn = true) :
    exec (.ringRebind fn d) s = .next (commitNow s (startFetch (ctlDone
      (modCq (modRing (takeHanded s (.ctlSq fn) d) ref fun r => { r with linkStop := false }) ref fun q => { q with journalled := false })
      fn d 0 0) ref)) := by
  have stillUp : fnUp (takeHanded s (.ctlSq fn) d) fn = true := up
  show execRingRebind fn d s = _
  rw [execRingRebind, fits, need_true, act_running s _ ready.1]
  simp only [names, there, stillUp, Bool.not_true, Bool.and_false, Bool.false_eq_true, if_false]

end

/-- Settles O22: each command by its checks; an accepted send queue lies in a segment and its QP is there. -/
theorem controlRingCommands : Obligations.ControlRingCommands := by
  unfold Obligations.ControlRingCommands
  refine ⟨?create, ?refuse, ?destroy, ?done, ?rebind⟩
  case create =>
    intro s fn d ready fits accepted
    refine ⟨exec_ringCreate_accepted ready fits accepted, fun send => ?_⟩
    obtain ⟨lies, there⟩ := createReason_sendQueue accepted send
    exact getRing_createRing lies there send
  case refuse => exact fun s fn d ready fits refused => exec_ringCreate_refused ready fits refused
  case destroy => exact fun s fn d ref ready fits names there free => exec_ringDestroy_present ready fits names there free
  case done => exact fun s ref ready waits quiet => exec_ringDestroyDone_quiet ready waits quiet
  case rebind => exact fun s fn d ref ready fits names there up => exec_ringRebind_up ready fits names there up

end Sys2Proof.Machine
end

section
/-! PROOFS. The ring locator registers, the journal's CLEAR, and the interrupts that moderation holds back (R65, R92, R93, R530). -/

namespace Sys2Proof.Machine

/-! ## Ring locators (R65, R530) -/

/-- A ring whose indices meet has nothing to fetch. -/
theorem startFetch_met {s : State} {ref : RingRef} {r : Ring} (found : getRing s ref = some r) (met : r.cDev = r.pDev) :
    startFetch s ref = s := by
  have idle : canFetch s ref r = false := by simp [canFetch, met]
  simp only [startFetch, found, idle, Bool.not_false, Bool.true_or, if_true]

section
variable {s : State} {fn : Nat} {v : W64}

/-- CFG_ERROR is cleared by a 1 in its bit. -/
theorem mgrErr_cleared : (if bitAt v 19 then { s with mgrErr := false } else s) = { s with mgrErr := s.mgrErr && !bitAt v 19 } := by
  cases bitAt v 19 <;> simp

theorem mgrEnable_accepted (accepted : mgrRefused (if bitAt v 19 then { s with mgrErr := false } else s) v = false)
    (met : s.mgrSq.cDev = s.mgrSq.pDev) : mgrEnable s v = { s with
      mgrCfg := (v &&& 0x7FF0F) ||| 0x10, mgrErr := s.mgrErr && !bitAt v 19
      mgrSq := { s.mgrSq with enabled := true, place := .hbm, addr := fld s.mgrBase 6 33 * 64, dom := 64, log2 := fld v 0 4 }
      mgrCq := { s.mgrCq with
        place := .hbm, addr := fld s.mgrBase 6 33 * 64 + 64 * 2 ^ fld v 0 4, dom := 64, log2 := fld v 0 4, vector := fld v 8 11 } } := by
  rw [mgrErr_cleared] at accepted
  simp only [mgrEnable, mgrErr_cleared, accepted, Bool.false_eq_true, if_false]
  exact startFetch_met rfl met

theorem mgrEnable_refused (refused : mgrRefused (if bitAt v 19 then { s with mgrErr := false } else s) v = true) :
    mgrEnable s v = { mark s 0x1B0018 19 with mgrCfg := v &&& 0x7FF0F, mgrErr := true, mgrSq := { s.mgrSq with enabled := false } } := by
  rw [mgrErr_cleared] at refused
  simp only [mgrEnable, mgrErr_cleared, refused, if_true]
  rfl

theorem barOpen_of_enabled (reached : fn = 0 ∨ (getFn s fn).state = .enabled) : barOpen s fn = true := by
  simpa [barOpen] using reached

/-- PF0, or an enabled VF, writes its TRN_CTL_CFG with ENABLE 0. -/
theorem exec_ctlRingDisable (ready : s.BarReady) (fits : wfFn fn = true) (reached : fn = 0 ∨ (getFn s fn).state = .enabled) :
    exec (.ctlRingDisable fn v) s = .next (ctlDisable s fn v) := by
  show execCtlRingDisable fn v s = _
  rw [execCtlRingDisable, fits, need_true]
  exact barAct_only ready (if_pos (barOpen_of_enabled reached)) ⟨⟨rfl, rfl, rfl, rfl⟩, rfl, rfl, rfl, rfl⟩

/-- What an accepted ENABLE makes of a function: its rings lie one behind the other at the base, indices kept. -/
def ctlEnabled (f : Fn) (lost : Bool) (dom : Nat) (v : W64) : Fn :=
  let place := if bitAt v 5 then Place.hbm else Place.host
  { f with
    ctlCfg := (v &&& 0x7FF2F) ||| 0x10
    ctlSq := { f.ctlSq with
      enabled := true, place := place, addr := fld f.ctlBase 6 51 * 64, dom := dom, log2 := fld v 0 4
      linkStop := decide (place = .host) && (f.ctlSq.linkStop || lost) }
    ctlCq := { f.ctlCq with
      place := place, addr := fld f.ctlBase 6 51 * 64 + 64 * 2 ^ fld v 0 4, dom := dom, log2 := fld v 0 4, vector := fld v 8 11
      journalled := decide (place = .host) && (f.ctlCq.journalled || lost) } }

theorem ctlEnable_accepted (accepted : ctlRefused s fn v = false) (keeps : bitAt v 19 = false)
    (met : (getFn s fn).ctlSq.cDev = (getFn s fn).ctlSq.pDev) :
    ctlEnable s fn v = modFn s fn fun f => ctlEnabled f s.cxl.lost ((fnDom s fn).getD 64) v := by
  simp only [ctlEnable, keeps, accepted, Bool.false_eq_true, if_false]
  have ring : getRing (modFn s fn fun f => ctlEnabled f s.cxl.lost ((fnDom s fn).getD 64) v) (.ctlSq fn) =
      some (ctlEnabled (getFn s fn) s.cxl.lost ((fnDom s fn).getD 64) v).ctlSq := by
    simp only [getRing, getFn_modFn_same]
  exact startFetch_met ring met

theorem exec_ctlRingEnable_accepted (ready : s.BarReady) (fits : wfFn fn = true) (reached : fn = 0 ∨ (getFn s fn).state = .enabled)
    (met : (getFn s fn).ctlSq.cDev = (getFn s fn).ctlSq.pDev) (accepted : ctlRefused s fn v = false) (keeps : bitAt v 19 = false) :
    exec (.ctlRingEnable fn v) s = .next (modFn s fn fun f => ctlEnabled f s.cxl.lost ((fnDom s fn).getD 64) v) := by
  show execCtlRingEnable fn v s = _
  rw [execCtlRingEnable, fits, need_true]
  exact barAct_only ready ((if_pos (barOpen_of_enabled reached)).trans (ctlEnable_accepted accepted keeps met))
    ⟨⟨rfl, rfl, rfl, rfl⟩, rfl, rfl, rfl, rfl⟩

/-! ## The journal (R93) -/

/-- With no journal placed and no entry held nothing is written. -/
theorem journalDrain_header_none (off : journalCap s = 0) (empty : s.journal.held = []) : journalDrain (journalHeader s) = s := by
  have header : journalHeader s = s := by simp only [journalHeader, off, if_true]
  rw [header]
  have unheld : { s with journal := { s.journal with held := [] } } = s := by rw [← empty]
  simp only [journalDrain, off, empty, Nat.zero_sub, List.take_nil, List.drop_nil, List.foldl_nil, unheld]

/-- TRN_JOURNAL_CFG's field n and ENABLE, where n is in range, as they are kept. -/
def journalCfg (v : W64) : W64 := BitVec.ofNat 64 (fld v 0 5 + (if bitAt v 5 && 10 ≤ fld v 0 5 && fld v 0 5 ≤ 20 then 32 else 0))

theorem journalWrite_unplaced (off : journalCap { s with journal := { s.journal with cfg := journalCfg v } } = 0) (empty : s.journal.held = []) :
    journalWrite s v = { s with journal := { s.journal with
      writes := (if bitAt v 6 ∧ s.cxl.lost = false then 0 else s.journal.writes), cfg := journalCfg v } } := by
  have counted : (if bitAt v 6 ∧ s.cxl.lost = false then 0 else s.journal.writes) =
      if bitAt v 6 && !s.cxl.lost then 0 else s.journal.writes := by
    simp only [Bool.and_eq_true, Bool.not_eq_true']
  rw [counted]
  exact journalDrain_header_none off empty

end

/-! ## Moderation (R92) -/

section
variable {s : State} {ring : RingRef} {q : CqRing}

theorem closeAt_arming (found : getCq s ring = some q) (armed : q.armed = true) :
    closeAt s (.arming ring) = q.raiseAt.map .at := by
  simp only [closeAt, found, armed, Option.bind_some, if_true]

theorem closeAt_moderation (found : getCq s ring = some q) (armed : q.armed = true) :
    closeAt s (.moderation ring) = q.winFolio.map fun f => .tick (f + q.modFolios) := by
  simp only [closeAt, found, armed, Option.bind_some, if_true]

end

/-- Settles O23: a locator by its checks, CLEAR where nothing is to write, an interrupt at the close it waits for. -/
theorem ringLocators : Obligations.RingLocators := by
  unfold Obligations.RingLocators
  refine ⟨?mgrOff, ?ctlOff, ?mgrOn, ?mgrBad, ?ctlOn, ?journal, ?arming, ?moderation, ?raise⟩
  case mgrOff => exact fun s v ready => barAct_only (f := fun s => mgrDisable s v) ready rfl ⟨⟨rfl, rfl, rfl, rfl⟩, rfl, rfl, rfl, rfl⟩
  case ctlOff => exact fun s fn v ready fits reached => exec_ctlRingDisable ready fits reached
  case mgrOn =>
    intro s v ready accepted met
    exact barAct_only (f := fun s => mgrEnable s v) ready (mgrEnable_accepted accepted met) ⟨⟨rfl, rfl, rfl, rfl⟩, rfl, rfl, rfl, rfl⟩
  case mgrBad =>
    intro s v ready refused
    exact barAct_only (f := fun s => mgrEnable s v) ready (mgrEnable_refused refused) ⟨⟨rfl, rfl, rfl, rfl⟩, rfl, rfl, rfl, rfl⟩
  case ctlOn =>
    intro s fn v ready fits reached met accepted keeps
    refine ⟨_, exec_ctlRingEnable_accepted ready fits reached met accepted keeps, ?_⟩
    rw [getFn_modFn_same]
    exact ⟨rfl, rfl, rfl, rfl, rfl, rfl, rfl, rfl, rfl, rfl, rfl, rfl, rfl, rfl, rfl⟩
  case journal =>
    intro s v ready off empty
    exact barAct_only (f := fun s => journalWrite s v) ready (journalWrite_unplaced off empty) ⟨⟨rfl, rfl, rfl, rfl⟩, rfl, rfl, rfl, rfl⟩
  case arming =>
    intro s ring q x g running found armed raise reached stands
    have window : closeAt s (.arming ring) = some (.at g) := by rw [closeAt_arming found armed, raise, Option.map_some]
    have raises : closed (s.goTo g) (.arming ring) = raiseRing (s.goTo g) ring x := by simp only [closed, stands]
    show closeCmd s (if (closeAt s (.arming ring)).isSome then .arming ring else .moderation ring) = _
    rw [window, Option.isSome_some, if_pos rfl, closeCmd_at s _ g running window reached, raises]
  case moderation =>
    intro s ring q f running found armed noRaise opened passed
    have noArming : closeAt s (.arming ring) = none := by rw [closeAt_arming found armed, noRaise, Option.map_none]
    have window : closeAt s (.moderation ring) = some (.tick (f + q.modFolios)) := by
      rw [closeAt_moderation found armed, opened, Option.map_some]
    have raises : closed s (.moderation ring) = raiseRing s ring q := by simp only [closed, found]
    show closeCmd s (if (closeAt s (.arming ring)).isSome then .arming ring else .moderation ring) = _
    rw [noArming, Option.isSome_none, if_neg Bool.false_ne_true, closeCmd_tick s _ _ running window passed, raises]
  case raise =>
    intro s ring q sound byMsix
    simp only [raiseRing, fenced_modCq, sound, byMsix, Bool.false_eq_true, if_false]

end Sys2Proof.Machine
end

section
/-! PROOFS. Work descriptors, RECVs and TRIGGERED pairs handed to a queue pair (R76, R80, R81, R99, R117, R133, R144). -/

namespace Sys2Proof.Machine

/-! ## Handing work to a queue pair (R58, R99) -/

section
variable {s u : State} {qp : Nat} {d slot work : Line} {q : Qp} {x : CtxWait} {c : Instr} {op : Nat}

theorem handWork_cached (cached : uncached s qp = false) : handWork s qp x = takeWork s qp x := by
  simp only [handWork, cached, Bool.false_eq_true, if_false]

/-- A command that hands `x` to a queue pair whose context is on die. -/
theorem act_handWork (ready : s.Ready) (cached : uncached s qp = false) :
    act s (fun s => handWork s qp x) = .next (commitNow s (takeWork s qp x)) := by
  rw [act_running s _ ready.1, handWork_cached cached]

/-- Work for a context off die waits for its load. -/
theorem act_handWork_waits (ready : s.Ready) (off : uncached s qp = true) : act s (fun s => handWork s qp x) =
    .next (modQp s qp fun q => { q with ctxWait := q.ctxWait ++ [x], loading := q.loading <|> some s.now }) :=
  act_only ready (if_pos off) (modQp_only s qp _)

/-! ### The rows -/

/-- The twelve work rows, with the opcode of each. -/
def workRows (qp : Nat) (d : Line) : List (Nat × Instr) :=
  [(0x00, .nop qp d), (0x01, .send qp d), (0x02, .write qp d), (0x03, .writeTrig qp d), (0x04, .read qp d), (0x05, .rawSend qp d),
   (0x10, .allreduceSum qp d), (0x11, .allreduceMax qp d), (0x12, .reduceScatter qp d), (0x13, .allgather qp d), (0x14, .broadcast qp d),
   (0x15, .barrier qp d)]

/-- A work row with its opcode hands the descriptor on. -/
theorem exec_workRow (row : (op, c) ∈ workRows qp d) (fits : wfQp qp = true) (code : dOpcode d = op) :
    exec c s = act s fun s => handWork s qp (.work d) := by
  have arm : exec c s = workRow op qp d s := by
    simp only [workRows, List.mem_cons, Prod.mk.injEq, List.not_mem_nil, or_false] at row
    rcases row with ⟨rfl, rfl⟩ | ⟨rfl, rfl⟩ | ⟨rfl, rfl⟩ | ⟨rfl, rfl⟩ | ⟨rfl, rfl⟩ | ⟨rfl, rfl⟩ | ⟨rfl, rfl⟩ | ⟨rfl, rfl⟩ | ⟨rfl, rfl⟩ |
      ⟨rfl, rfl⟩ | ⟨rfl, rfl⟩ | ⟨rfl, rfl⟩ <;> rfl
  rw [arm, workRow, fits, decide_eq_true code, Bool.and_self, need_true]

theorem exec_recvRow (row : (dOpcode d = 0x08 ∧ c = .recv qp d) ∨ (dOpcode d = 0x09 ∧ c = .rawRecv qp d)) (fits : wfQp qp = true) :
    exec c s = act s fun s => handWork s qp (.recv d) := by
  rcases row with ⟨code, rfl⟩ | ⟨code, rfl⟩
  · show execRecv qp d s = _
    rw [execRecv, fits, decide_eq_true code, Bool.and_self, need_true]
  · show execRawRecv qp d s = _
    rw [execRawRecv, fits, decide_eq_true code, Bool.and_self, need_true]

theorem exec_triggered (fits : wfQp qp = true) (code : dOpcode d = 0x20) :
    exec (.triggered qp d work) s = act s fun s => handWork s qp (.pair d work) := by
  show execTriggered qp d work s = _
  rw [execTriggered, fits, decide_eq_true code, Bool.and_self, need_true]

/-! ### What the queue pair does with it -/

/-- A sending queue pair queues a descriptor whose opcode and keys pass. -/
theorem submit_queued (found : getQp (takeHanded s (.sq qp) d) qp = some q) (sends : q.state = .rts ∨ q.state = .sqd)
    (valid : opcodeOk (takeHanded s (.sq qp) d) (.sq qp) false d = true)
    (queued : u = modQp (takeHanded s (.sq qp) d) qp fun q => { q with ops := q.ops ++ [SendOp.new q.opNext d none], opNext := q.opNext + 1 })
    (passes : workOk u qp q d = true) : submit s qp d = u := by
  rw [queued] at passes ⊢
  rcases sends with state | state <;>
    simp only [submit, found, state, valid, passes, Bool.not_true, Bool.false_eq_true, if_false, if_true]

theorem submit_flushed (found : getQp (takeHanded s (.sq qp) d) qp = some q) (state : q.state = .error) :
    submit s qp d = sendRecord (takeHanded s (.sq qp) d) qp q (dWrId d) (dOpcode d) 8 0 0 := by
  simp only [submit, found, state]

theorem submitRecv_queued (found : getQp (takeHanded s (.rq qp) d) qp = some q) (live : q.state ≠ .error ∧ q.state ≠ .reset)
    (valid : opcodeOk (takeHanded s (.rq qp) d) (.rq qp) false d = true)
    (passes : localOk (takeHanded s (.rq qp) d) q.fn (dLocalKey d) (dLocalAddr d) (dLength d) true = true) :
    submitRecv s qp d =
      modQp (takeHanded s (.rq qp) d) qp fun q => { q with recvs := q.recvs ++ [⟨d, s.folio + 1, q.opNext⟩], opNext := q.opNext + 1 } := by
  have folio : (takeHanded s (.rq qp) d).folio = s.folio := rfl
  cases state : q.state with
  | error => exact absurd state live.1
  | reset => exact absurd state live.2
  | init | rtr | rts | sqd =>
    simp only [submitRecv, found, state, valid, passes, folio, Bool.not_true, Bool.false_eq_true, if_false, if_true]

/-- A sending queue pair holds a pair that finds room in the pool and whose counters are its carrel's. -/
theorem submitPair_held {v : State} (taken : v = takeHanded (takeHanded s (.sq qp) slot) (.sq qp) work) (found : getQp v qp = some q)
    (sends : q.state = .rts ∨ q.state = .sqd) (code : dOpcode slot = 0x20) (valid : opcodeOk v (.sq qp) true work = true)
    (room : poolFull v (fnDom v q.fn) = false) (passes : workOk v qp q work = true) (counters : countersOk v (qpDom v q) slot = true) :
    submitPair s qp slot work =
      poolKick (releasePairs (modQp v qp fun q => { q with pairs := q.pairs ++ [⟨q.opNext, slot, work⟩], opNext := q.opNext + 1 })) := by
  subst taken
  rcases sends with state | state <;>
    simp only [submitPair, found, state, code, valid, room, passes, counters, ne_eq, not_true_eq_false, decide_false, Bool.not_true, Bool.or_self,
      Bool.false_eq_true, if_false]

/-- Pairs short of their thresholds stay (R224). -/
theorem releasePairs_short (short : ∀ e ∈ s.qps, ∀ p ∈ e.2.pairs, pairDue s p = false) : releasePairs s = s := by
  have allShort : (s.qps.all fun e => e.2.pairs.all fun p => !pairDue s p) = true := by
    simpa only [List.all_eq_true, Bool.not_eq_true'] using short
  exact if_pos allShort

end

/-- Settles O24: each row hands its descriptor on, which joins what its queue pair holds, completes, or waits for the context. -/
theorem workDescriptors : Obligations.WorkDescriptors := by
  unfold Obligations.WorkDescriptors
  refine ⟨?queued, ?flushed, ?waits, ?recv, ?recvWaits, ?pair, ?pairWaits, ?short, ?refused⟩
  case queued =>
    intro s u qp d q op c ready still fits cached row code found sends valid queued passes
    have only : s.OnlyState u := queued ▸ (takeHanded_only s _ d).trans (modQp_only _ qp _)
    have noAccess : u.xl.accesses = [] := by rw [queued]; exact still
    have effect : handWork s qp (.work d) = u := by
      rw [handWork_cached cached]
      exact (congrArg settle (submit_queued found sends valid queued passes)).trans (settle_none u noAccess)
    rw [exec_workRow row fits code]
    exact act_only ready effect only
  case flushed =>
    intro s qp d q op c ready fits cached row code found state
    rw [exec_workRow row fits code, act_handWork ready cached, ← submit_flushed found state]
    rfl
  case waits =>
    intro s qp d op c ready fits off row code
    rw [exec_workRow row fits code, act_handWork_waits ready off]
  case recv =>
    intro s qp d q c ready still fits cached row found live valid passes
    have effect : handWork s qp (.recv d) = modQp (takeHanded s (.rq qp) d) qp fun q =>
        { q with recvs := q.recvs ++ [⟨d, s.folio + 1, q.opNext⟩], opNext := q.opNext + 1 } := by
      rw [handWork_cached cached]
      exact (congrArg settle (submitRecv_queued found live valid passes)).trans (settle_none _ still)
    rw [exec_recvRow row fits]
    exact act_only ready effect ((takeHanded_only s _ d).trans (modQp_only _ qp _))
  case recvWaits =>
    intro s qp d c ready fits off row
    rw [exec_recvRow row fits, act_handWork_waits ready off]
  case pair =>
    intro s v qp slot work q ready fits cached code taken found sends valid room passes counters
    rw [exec_triggered fits code, act_handWork ready cached, ← submitPair_held taken found sends code valid room passes counters]
    rfl
  case pairWaits =>
    intro s qp slot work ready fits off code
    rw [exec_triggered fits code, act_handWork_waits ready off]
  case short =>
    intro s short
    exact releasePairs_short fun e he p hp => decide_eq_false (Nat.not_lt.2 (short e he p hp))
  case refused =>
    intro s qp d work unknown
    have stops : ∀ b o, need (wfQp qp && b) o = .refused .illFormed := fun b o => by rw [unknown, Bool.false_and, need_false]
    exact ⟨stops _ _, stops _ _, stops _ _⟩

end Sys2Proof.Machine
end

section
/-! PROOFS. Queue-pair and region commands of the manager ring, the drain of SQD, the load of a context, and the end of an invalidated
region (R97, R99, R100, R103, R104, R133, R135). -/

namespace Sys2Proof.Machine

/-! ## Queue pairs (R97, R99, R100, R104) -/

section
variable {s : State} {d : Line} {q : Qp}

/-- While the pool of the function's domain has a free number, the lowest one is taken (log 112). -/
theorem qpCreate_lowestFree {dom n : Nat} {c : Domain} (fits : dfld d 16 0 16 ≤ 512) (owner : fnDom s (dfld d 16 0 16) = some dom)
    (pool : getDom s dom = some c) (lowest : n = freeFrom (fun n => (getQp s n).isSome) s.qps.length (max 1 c.cfg.qpBase))
    (room : n < min (c.cfg.qpBase + c.cfg.qpCount) (2 ^ 20)) :
    qpCreate s d =
      mgrOk { s with qps := tput s.qps n { Qp.new (dfld d 16 0 16) with cached := decide ((cachedQps s).length < 16384) } } d n := by
  subst lowest
  simp only [qpCreate, if_neg (Nat.not_lt.2 fits), owner, pool, Option.bind_some, ge_iff_le, if_neg (Nat.not_le.2 room)]

theorem qpDestroy_found (found : getQp s (dfld d 16 0 20) = some q) : qpDestroy s d =
    if q.state = .reset then mgrOk (forgetFetches (forgetFetches { s with qps := tdel s.qps (dfld d 16 0 20) } (.sq (dfld d 16 0 20)))
      (.rq (dfld d 16 0 20))) d
    else mgrFail s d 2 := by
  simp only [qpDestroy, found]

theorem qpModify_found (found : getQp s (dfld d 16 0 20) = some q) : qpModify s d =
    if modifyReason s q d = 0 then { s with qpNext := s.qpNext ++ [(dfld d 16 0 20, d)] } else mgrFail s d (modifyReason s q d) := by
  simp only [qpModify, found]

/-- The checks of QP_MODIFY look at the key slots and the peers alone. -/
theorem modifyReason_takeHanded : modifyReason (takeHanded s .mgrSq d) q d = modifyReason s q d := rfl

theorem exec_sqdDrainDone_drained {qp : Nat} (ready : s.Ready) (fits : wfQp qp = true) (found : getQp s qp = some q)
    (waits : q.sqdWait = some d) (drained : sqdDrained q = true) :
    exec (.sqdDrainDone qp) s = .next (commitNow s (mgrOk (modQp s qp fun q => { q with sqdWait := none }) d)) := by
  show execSqdDrainDone qp s = _
  rw [execSqdDrainDone, fits, need_true, act_running s _ ready.1]
  simp only [found, waits, drained, if_true]

/-- With room on die no context makes way for the one that has been loaded. -/
theorem contextLoaded_room {qp : Nat} (found : getQp s qp = some q) (off : q.cached = false) (loads : q.loading.isSome = true)
    (room : (cachedQps s).length < 16384) :
    contextLoaded s qp = q.ctxWait.foldl (fun s x => takeWork s qp x)
      (modQp s qp fun q => { q with cached := true, loading := none, ctxWait := [] }) := by
  have pending : (q.cached || q.loading.isNone) = false := by rw [off, Option.isNone_eq_false_iff.2 loads, Bool.or_self]
  simp only [contextLoaded, found, pending, Bool.false_eq_true, if_false, if_pos room]

end

/-! ## Regions (R132 to R135) -/

section
variable {s : State} {d : Line} {r : Region}

theorem regionInvalidate_valid {i : Nat} (valid : regionOf s (dfld d 16 0 32) = some (i, r)) :
    regionInvalidate s d = { s with regions := tupd s.regions i fun r => { r with valid := false, waiting := some d } } := by
  simp only [regionInvalidate, valid]

/-- An unpinned region has no page to unpin: it only goes. -/
theorem regionDone_unpinned {key : Nat} (found : s.regions.lookup (key / 256) = some r) (ended : r.valid = false) (same : r.gen = key % 256)
    (free : regionHeld s (key / 256) = false) (unpinned : r.pinned = false) (waits : r.waiting = some d) :
    regionDone s key = mgrOk { s with regions := tdel s.regions (key / 256) } d := by
  have goes : (r.valid || decide (r.gen ≠ key % 256) || regionHeld s (key / 256)) = false := by simp [ended, same, free]
  simp only [regionDone, found, goes, unpinned, Bool.false_eq_true, if_false, waits]
  cases s.xl.ctxs.lookup r.ctx <;> rfl

/-- What REGION_REGISTER of a range that need not be pinned enters in the table. -/
def registered (s : State) (d : Line) (ctx : Ctx) (i : Nat) : Region :=
  { base := dfld d 16 0 57, len := dfld d 24 0 48, fn := dfld d 32 0 16, ctx := dfld d 34 0 12
    localWrite := dbit d 36 0, remoteRead := dbit d 36 1, remoteWrite := dbit d 36 2
    pinned := (segSpans ctx 17 (dfld d 16 0 57) (dfld d 24 0 48)).all (fun p => p.2.1.target = 1)
    gen := nextGen s i, valid := true, waiting := none }

/-- A covered range of whole pages, not to be pinned, takes the lowest free index of its domain's pool (log 112). -/
theorem regionRegister_lowestFree {pins : List Pin} {c i : Nat} {ctx : Ctx} {dom : Domain} (fits : dfld d 32 0 16 ≤ 512)
    (owner : fnDom s (dfld d 32 0 16) = some c) (there : s.xl.ctxs.lookup (dfld d 34 0 12) = some ctx) (own : ctx.dom = c)
    (pool : getDom s c = some dom)
    (pages : dfld d 16 0 57 % 4096 = 0 ∧ dfld d 24 0 48 % 4096 = 0 ∧ dfld d 24 0 48 ≠ 0)
    (covered : ctxCovers s (dfld d 34 0 12) (dfld d 16 0 57) (dfld d 24 0 48) = true)
    (lowest : i = freeFrom (fun i => (s.regions.lookup i).isSome) s.regions.length dom.cfg.regionBase)
    (room : i < dom.cfg.regionBase + dom.cfg.regionCount ∧ i < 262144) (unpinned : dbit d 36 3 = false) :
    regionRegister s d pins = mgrOk { s with
      regionGen := tput s.regionGen i (nextGen s i), regions := tput s.regions i (registered s d ctx i) } d (i * 256 + nextGen s i) := by
  obtain ⟨base, len, nonempty⟩ := pages
  have sound : (decide (dfld d 16 0 57 % 4096 ≠ 0) || decide (dfld d 24 0 48 % 4096 ≠ 0) || decide (dfld d 24 0 48 = 0) ||
      !ctxCovers s (dfld d 34 0 12) (dfld d 16 0 57) (dfld d 24 0 48)) = false := by simp [base, len, nonempty, covered]
  have free : (decide (i ≥ dom.cfg.regionBase + dom.cfg.regionCount) || decide (i ≥ 262144)) = false := by simp [room]
  subst lowest
  simp only [regionRegister, if_neg (Nat.not_lt.2 fits), owner, there, own, ne_eq, not_true_eq_false, if_false, sound, pool, free, unpinned,
    Bool.false_eq_true, Bool.false_or]
  rfl

end

/-- Settles O25: each command by its checks, on the state that has taken it off the manager ring. -/
theorem queuePairCommands : Obligations.QueuePairCommands := by
  unfold Obligations.QueuePairCommands
  refine ⟨?create, ?destroy, ?modify, ?drained, ?loaded, ?invalidate, ?done, ?register⟩
  case create =>
    intro s d dom c n ready fits owner pool lowest room
    refine (mgrCmd_ready s d (fun s => qpCreate s d) ready).trans ?_
    rw [qpCreate_lowestFree (s := takeHanded s .mgrSq d) fits owner pool lowest room]
    rfl
  case destroy =>
    intro s d q ready found
    refine (mgrCmd_ready s d (fun s => qpDestroy s d) ready).trans ?_
    rw [qpDestroy_found (s := takeHanded s .mgrSq d) found]
    rfl
  case modify =>
    intro s d q ready found
    refine (mgrCmd_ready s d (fun s => qpModify s d) ready).trans ?_
    rw [qpModify_found (s := takeHanded s .mgrSq d) found, modifyReason_takeHanded]
    rfl
  case drained => exact fun s qp q d ready fits found waits drained => exec_sqdDrainDone_drained ready fits found waits drained
  case loaded =>
    intro s qp q ready fits found off loads room
    show execQpContextLoaded qp s = _
    rw [execQpContextLoaded, fits, need_true, act_running s _ ready.1, contextLoaded_room found off loads room]
  case invalidate =>
    intro s d i r ready valid
    refine (mgrCmd_ready s d (fun s => regionInvalidate s d) ready).trans (congrArg _ ?_)
    rw [regionInvalidate_valid (s := takeHanded s .mgrSq d) valid]
    exact commitNow_only ready.1.2 ((takeHanded_only s _ d).trans ⟨⟨rfl, rfl, rfl, rfl⟩, rfl, rfl, rfl, rfl⟩)
  case done =>
    intro s key r d ready found ended same free unpinned waits
    refine (act_running s (fun s => regionDone s key) ready.1).trans ?_
    rw [regionDone_unpinned found ended same free unpinned waits]
  case register =>
    intro s d pins c ctx dom i ready fits owner there own pool pages covered lowest room unpinned
    refine (mgrCmd_ready s d (fun s => regionRegister s d pins) ready).trans ?_
    rw [regionRegister_lowestFree (s := takeHanded s .mgrSq d) fits owner there own pool pages covered lowest room unpinned]
    rfl

end Sys2Proof.Machine
end

section
/-! PROOFS. The retransmission timer of a queue pair, and a queue pair that the table lists twice with retries of its own (R128). -/

namespace Sys2Proof.Machine

section
variable {s : State} {qp len : Nat} {q x : Qp} {o : Gtc}

theorem retxWindow_alone (alone : s.col.comms = []) : retxWindow s qp = .retx qp := by
  simp only [retxWindow, alone, List.findSome?_nil]

theorem closeAt_retx (found : getQp s qp = some q) (opened : q.timer = some (o, len)) : closeAt s (.retx qp) = some (.at (o + len)) := by
  simp only [closeAt, found, opened, Option.bind_some, Option.map_some]

theorem closed_retx (found : getQp s qp = some q) (opened : q.timer = some (o, len)) : closed s (.retx qp) = retxClose s qp q len := by
  simp only [closed, found, opened, Option.bind_some, Option.map_some]

/-- The window of a QP that carries no collective closes in its cycle, on the QP as that cycle finds it. -/
theorem exec_retxTimerExpiry (running : s.running = true) (fits : wfQp qp = true) (alone : s.col.comms = []) (found : getQp s qp = some q)
    (opened : q.timer = some (o, len)) (reached : s.Reaches (o + len)) (there : getQp (s.goTo (o + len)) qp = some x)
    (stands : x.timer = some (o, len)) :
    exec (.retxTimerExpiry qp) s = .next (commit s (retxClose (s.goTo (o + len)) qp x len)) := by
  show execRetxTimerExpiry qp s = _
  rw [execRetxTimerExpiry, fits, need_true, retxWindow_alone alone, closeCmd_at s _ _ running (closeAt_retx found opened) reached,
    closed_retx there stands]

theorem commit_qps (s t : State) : (commit s t).qps = t.qps := rfl

/-- A close that the present cycle has reached needs no time to pass. -/
theorem goTo_reached {g : Gtc} (now : cyclesTo s.time g = 0) : s.goTo g = s := by
  simp only [State.goTo, now, runClosing, if_true]

/-- A probe only joins an output. -/
theorem probeSeg_frame (s : State) (qp : Nat) (q : Qp) (t : TxSeg) : (probeSeg s qp q t).qps = s.qps ∧ (probeSeg s qp q t).now = s.now := by
  unfold probeSeg pushCtl
  split <;> exact ⟨rfl, rfl⟩

/-- A probe takes one of its own retries of each entry under the QP's number. -/
theorem retxClose_probe_qps {t : TxSeg} (oldest : (q.tx.find? fun t => !t.acked && t.sc.isNone) = some t) (sent : t.next ≠ 0)
    (left : q.retryLeft ≠ 0) : (retxClose s qp q len).qps = tupd s.qps qp fun q => { q with
      retryLeft := q.retryLeft - 1, timer := some (s.now, min (2 * len) (64 * q.rtoUs * 16000)) } := by
  obtain ⟨sameQps, sameNow⟩ := probeSeg_frame s qp q t
  simp only [retxClose, oldest, if_neg sent, if_neg left, modQp_qps, sameQps, sameNow]

end

/-! ## A table that lists QP 1 twice -/

/-- A sender with one segment unacknowledged and one retry left, whose window closes at GTC 0. -/
def probingQp : Qp := { countingQp with retryLeft := 1, timer := some (0, 0) }

/-- The block with that sender as QP 1, and behind it a second entry under the same number, with two retries left. -/
def probedTwice : State := { State.reset with qps := [(1, probingQp), (1, { probingQp with retryLeft := 2 })] }

/-- Refutes O27, in its clause of the probe: the clause leaves every entry the table holds under the QP's number one retry less than the
first of them had, where the model takes one of each entry's own. On `probedTwice` the second entry keeps 1 of its 2 retries, where the
clause leaves it none. Only a table that holds a number twice tells the two apart. -/
theorem not_transportTimers : ¬ Obligations.TransportTimers := by
  unfold Obligations.TransportTimers
  rintro ⟨-, probe, -, -⟩
  have running : probedTwice.running = true := by decide
  have fits : wfQp 1 = true := by decide
  have found : getQp probedTwice 1 = some probingQp := rfl
  have now : cyclesTo probedTwice.time (0 + 0) = 0 := by decide
  have there : getQp (probedTwice.goTo (0 + 0)) 1 = some probingQp := by rw [goTo_reached now, found]
  obtain ⟨t, oldest, sent⟩ : ∃ t, (probingQp.tx.find? fun t => !t.acked && t.sc.isNone) = some t ∧ t.next ≠ 0 := ⟨_, rfl, by decide⟩
  have left : probingQp.retryLeft ≠ 0 := by decide
  have claimed := probe probedTwice 1 probingQp probingQp 0 0 t running fits rfl found rfl (.inl now) there rfl oldest sent left
  rw [exec_retxTimerExpiry running fits rfl found rfl (.inl now) there rfl] at claimed
  injection claimed with same
  have entries := congrArg State.qps same
  rw [commit_qps, commit_qps, retxClose_probe_qps oldest sent left, modQp_qps, (probeSeg_frame _ _ _ _).1, goTo_reached now] at entries
  have retries := congrArg (fun t => t.map fun e => e.2.retryLeft) entries
  exact absurd retries (by decide)

end Sys2Proof.Machine
end

section
/-! PROOFS. The commands of gate-list sets: load, activation with its start tick, unload, and the binding of flows (R186 to R188). -/

namespace Sys2Proof.Machine

/-! ## The start tick (R188) -/

theorem startTick_ahead {base cycle k : Nat} (ahead : k + 2 ≤ base) : startTick base cycle k = base := if_pos ahead

theorem startTick_behind {base cycle k : Nat} (positive : 0 < cycle) (behind : base < k + 2) :
    startTick base cycle k = base + cdiv (k + 2 - base) cycle * cycle := by
  have cycles : max 1 cycle = cycle := Nat.max_eq_right positive
  simp only [startTick, if_neg (Nat.not_le.2 behind), cycles]

/-- `cdiv a b` is the least number of `b`s that reaches `a`. -/
theorem le_cdiv_mul {a b : Nat} (positive : 0 < b) : a ≤ cdiv a b * b := by
  have below : a + b - 1 < (a + b - 1) / b * b + b := Nat.lt_div_mul_add positive
  unfold cdiv
  omega

theorem cdiv_le {a b n : Nat} (positive : 0 < b) (reaches : a ≤ n * b) : cdiv a b ≤ n := by
  refine Nat.lt_succ_iff.1 ((Nat.div_lt_iff_lt_mul positive).2 ?_)
  rw [Nat.succ_mul]
  omega

theorem startTick_least {base cycle k : Nat} (positive : 0 < cycle) :
    base ≤ startTick base cycle k ∧ k + 2 ≤ startTick base cycle k ∧ (startTick base cycle k - base) % cycle = 0 ∧
      ∀ n, k + 2 ≤ base + n * cycle → startTick base cycle k ≤ base + n * cycle := by
  rcases Nat.lt_or_ge base (k + 2) with behind | ahead
  · rw [startTick_behind positive behind]
    have reaches := le_cdiv_mul (a := k + 2 - base) positive
    refine ⟨Nat.le_add_right _ _, by omega, ?_, fun n later => ?_⟩
    · rw [Nat.add_sub_cancel_left, Nat.mul_mod_left]
    · exact Nat.add_le_add_left (Nat.mul_le_mul_right _ (cdiv_le positive (by omega))) _
  · rw [startTick_ahead ahead]
    exact ⟨Nat.le_refl _, ahead, by rw [Nat.sub_self, Nat.zero_mod], fun n _ => Nat.le_add_right _ _⟩

/-! ## The commands (Table 6.9) -/

section
variable {s : State} {d : Line}

/-- The length the header of an image gives, at least its own 64 bytes. -/
def imageLen (h : List Byte) : Nat := max 64 (imf h 44 0 32)

theorem imageLen_eq (h : List Byte) : imageLen h = max 64 (imf h 44 0 32) := rfl

/-- Header `h` and image `img` of SCH_SET_LOAD lie in PF0's allocation, aligned, without poison (R186). -/
structure ImageReadable (s : State) (d : Line) (h img : List Byte) : Prop where
  aligned : dfld d 16 0 39 % 64 = 0
  header : rdAlloc s 64 (dfld d 16 0 39) 64 = some h
  headerNamed : domNamed s 64 (dfld d 16 0 39) 64 = true
  headerClean : allocPoison s 64 (dfld d 16 0 39) 64 = false
  bounded : imageLen h ≤ 2 ^ 28
  named : domNamed s 64 (dfld d 16 0 39) (imageLen h) = true
  clean : allocPoison s 64 (dfld d 16 0 39) (imageLen h) = false
  image : rdAlloc s 64 (dfld d 16 0 39) (imageLen h) = some img

/-- Taking the command off the manager ring moves no image. -/
theorem ImageReadable.afterTake {h img : List Byte} (readable : ImageReadable s d h img) :
    ImageReadable (takeHanded s .mgrSq d) d h img := by
  obtain ⟨aligned, header, headerNamed, headerClean, bounded, named, clean, image⟩ := readable
  exact ⟨aligned, header, headerNamed, headerClean, bounded, named, clean, image⟩

/-- The header of a readable image passes the checks that come before it is read. -/
theorem ImageReadable.headerPasses {h img : List Byte} (readable : ImageReadable s d h img) :
    (decide (dfld d 16 0 39 % 64 ≠ 0) || !domNamed s 64 (dfld d 16 0 39) 64 || allocPoison s 64 (dfld d 16 0 39) 64) = false := by
  simp [readable.aligned, readable.headerNamed, readable.headerClean]

theorem ImageReadable.lengthPasses {h img : List Byte} (readable : ImageReadable s d h img) :
    (decide (imageLen h > 2 ^ 28) || !domNamed s 64 (dfld d 16 0 39) (imageLen h)) = false := by
  rw [decide_eq_false (Nat.not_lt.2 readable.bounded), readable.named]
  rfl

theorem setLoad_broken {h img : List Byte} {r : Nat} (readable : ImageReadable s d h img)
    (broken : validate s img (dfld d 16 0 39) (dfld d 24 0 32) = .error r) : setLoad s d = loadFail s d r := by
  simp only [setLoad, readable.headerPasses, readable.header, ← imageLen_eq, readable.lengthPasses, readable.clean, readable.image, broken,
    Bool.false_eq_true, if_false]

theorem setLoad_valid {h img : List Byte} {g : GateSet} (readable : ImageReadable s d h img)
    (valid : validate s img (dfld d 16 0 39) (dfld d 24 0 32) = .ok g) (stays : leaving s 64 (dfld d 16 0 39) (imageLen h) = false) :
    setLoad s d = mgrOk (floodLink (modSched s fun x => { x with
      sets := x.sets ++ [g], loadRule := 0, lastLoaded := some (dfld d 24 0 32)
      reports := if x.reports.contains (dfld d 24 0 32, myCoord s) then x.reports else (dfld d 24 0 32, myCoord s) :: x.reports })
      none (loadedPayload (dfld d 24 0 32) (myCoord s))) d := by
  simp only [setLoad, readable.headerPasses, readable.header, ← imageLen_eq, readable.lengthPasses, readable.clean, readable.image, valid, stays,
    Bool.false_eq_true, if_false]
  rfl

theorem setActivate_found {g : GateSet} (found : s.sched.sets.find? (fun g => g.id = dfld d 24 0 32) = some g) : setActivate s d =
    if latticeHas s (dfld d 24 0 32) = true ∧ s.sched.pending = none ∧ switchWaits s = false then
      mgrOk (floodCtl (modSched s fun x => { x with
        pending := some (dfld d 24 0 32, dfld d 16 0 64, g.cycle, startTick (dfld d 16 0 64) g.cycle s.folio) }) none
        (announcePayload 0 (dfld d 24 0 32) (dfld d 16 0 64) g.cycle s.folio)) d
    else mgrFail s d 2 := by
  have refused : (!latticeHas s (dfld d 24 0 32) || s.sched.pending.isSome || switchWaits s) = true ↔
      ¬ (latticeHas s (dfld d 24 0 32) = true ∧ s.sched.pending = none ∧ switchWaits s = false) := by
    cases latticeHas s (dfld d 24 0 32) <;> cases s.sched.pending <;> cases switchWaits s <;> simp
  simp only [setActivate, found, refused, ite_not]
  rfl

theorem setUnload_eq (s : State) (d : Line) : setUnload s d =
    if (s.sched.sets.any fun g => g.id = dfld d 16 0 32) = false then mgrFail s d 1
    else if s.sched.active = some (dfld d 16 0 32) ∨ s.sched.pending.map (·.1) = some (dfld d 16 0 32) then mgrFail s d 2
    else mgrOk (modSched s fun x => { x with
      sets := x.sets.filter fun g => g.id ≠ dfld d 16 0 32
      reports := x.reports.filter fun r => r ≠ (dfld d 16 0 32, myCoord s) }) d := by
  cases pending : s.sched.pending <;> simp [setUnload, pending]

theorem flowBind_eq (s : State) (d : Line) : flowBind s d =
    if dfld d 20 0 20 ≠ 0 ∧ getQp s (dfld d 20 0 20) = none then mgrFail s d 1
    else if sourceFlow s (dfld d 16 0 16) = false then mgrFail s d 3
    else mgrOk (modSched s fun x => { x with
      binds := if dfld d 20 0 20 = 0 then tdel x.binds (dfld d 16 0 16) else tput x.binds (dfld d 16 0 16) (dfld d 20 0 20) }) d := by
  simp [flowBind]

end

/-- Settles O30: each command by its checks, on the state that has taken it off the manager ring; the start tick by division. -/
theorem gateSetCommands : Obligations.GateSetCommands := by
  unfold Obligations.GateSetCommands
  refine ⟨?load, ?broken, ?activate, ?start, ?unload, ?bind⟩
  case load =>
    intro s d h img g ready aligned header headerNamed headerClean bounded named clean image valid stays
    have readable : ImageReadable s d h img := ⟨aligned, header, headerNamed, headerClean, bounded, named, clean, image⟩
    refine (mgrCmd_ready s d (fun s => setLoad s d) ready).trans ?_
    rw [setLoad_valid readable.afterTake valid stays]
    rfl
  case broken =>
    intro s d h img r ready aligned header headerNamed headerClean bounded named clean image broken
    have readable : ImageReadable s d h img := ⟨aligned, header, headerNamed, headerClean, bounded, named, clean, image⟩
    refine (mgrCmd_ready s d (fun s => setLoad s d) ready).trans ?_
    rw [setLoad_broken readable.afterTake broken]
    rfl
  case activate =>
    intro s d g ready found
    refine (mgrCmd_ready s d (fun s => setActivate s d) ready).trans ?_
    rw [setActivate_found (s := takeHanded s .mgrSq d) found]
    rfl
  case start => exact fun _ base cycle k positive => startTick_least positive
  case unload =>
    intro s d ready
    refine (mgrCmd_ready s d (fun s => setUnload s d) ready).trans ?_
    rw [setUnload_eq]
    rfl
  case bind =>
    intro s d ready
    refine (mgrCmd_ready s d (fun s => flowBind s d) ready).trans ?_
    rw [flowBind_eq]
    rfl

end Sys2Proof.Machine
end

section
/-! PROOFS. LAT_CFG, the route tables and the epoch switch (R150, R168 to R170, R337). -/

namespace Sys2Proof.Machine

section
variable {s : State} {d : Line}

/-! ## LAT_TABLE_LOAD (Table 5.7, R168) -/

/-- The copy that injects, and any copy while the old one is live, takes no table. -/
theorem tableLoad_busy (busy : dfld d 24 0 1 = s.lat.epoch ∨ s.lat.oldUntil.isSome = true) : tableLoad s d = mgrFail s d 2 := by
  have refused : (decide (dfld d 24 0 1 = s.lat.epoch) || s.lat.oldUntil.isSome) = true := by
    simpa only [Bool.or_eq_true, decide_eq_true_eq] using busy
  simp only [tableLoad, refused, if_true]

theorem tableLoad_accepted {bs : List Byte} (spare : dfld d 24 0 1 ≠ s.lat.epoch) (retired : s.lat.oldUntil = none)
    (aligned : dfld d 16 0 39 % 64 = 0) (named : domNamed s 64 (dfld d 16 0 39) 2048 = true)
    (clean : allocPoison s 64 (dfld d 16 0 39) 2048 = false) (image : rdAlloc s 64 (dfld d 16 0 39) 2048 = some bs) :
    tableLoad s d = mgrOk (modLat s fun l => { l with
      routes := bs.zipIdx.foldl (fun t e => tput t (e.2 / 1024 * 2048 + dfld d 24 0 1 * 1024 + e.2 % 1024) e.1) s.lat.routes
      tableIds := lmod l.tableIds (dfld d 24 0 1) fun _ => some (dfld d 28 0 32) }) d := by
  have free : (decide (dfld d 24 0 1 = s.lat.epoch) || s.lat.oldUntil.isSome) = false := by simp [spare, retired]
  have readable : (decide (dfld d 16 0 39 % 64 ≠ 0) || !domNamed s 64 (dfld d 16 0 39) 2048 ||
      allocPoison s 64 (dfld d 16 0 39) 2048) = false := by simp [aligned, named, clean]
  simp only [tableLoad, free, readable, image, Bool.false_eq_true, if_false]

/-! ## The epoch switch (R169, R170) -/

theorem epochSwitch_accepted (idle : s.lat.switch = none) (retired : s.lat.oldUntil = none) (ahead : s.folio + 8 ≤ dfld d 16 0 64)
    (new : (2, dfld d 24 0 32, dfld d 16 0 64) ∉ s.lat.seen) :
    epochSwitch s d = mgrOk (floodLink (modLat s fun l => { l with
      switch := some (dfld d 24 0 32, dfld d 16 0 64), seen := (2, dfld d 24 0 32, dfld d 16 0 64) :: l.seen }) none
      (epochPayload (dfld d 24 0 32) (dfld d 16 0 64))) d := by
  have free : (s.lat.switch.isSome || s.lat.oldUntil.isSome) = false := by rw [idle, retired]; rfl
  simp only [epochSwitch, free, Nat.not_lt.2 ahead, Bool.false_eq_true, if_false, linkOnce_new new]
  rfl

/-- A switch announced for the first time, where none is pending, becomes pending and goes on to the other ports. -/
theorem epochHeard_new {port id ks : Nat} (new : (2, id, ks) ∉ s.lat.seen) (idle : s.lat.switch = none) :
    epochHeard s port id ks = floodLink (modLat s fun l => { l with
      switch := some (id, ks), switchLate := decide (ks ≤ s.folio + 2), seen := (2, id, ks) :: l.seen }) (some port) (epochPayload id ks) := by
  rw [epochHeard, linkOnce_new new]
  simp only [modLat_lat, idle, Option.isSome_none, Bool.false_eq_true, if_false]
  rfl

theorem exec_epochAnnounce {port id ks : Nat} (ready : s.Ready) (named : wfLat port = true) :
    exec (.epochAnnounce port id ks) s = .next (commitNow s (epochHeard s port id ks)) := by
  show need (wfLat port) (act s fun s => epochHeard s port id ks) = _
  rw [named, need_true, act_running s _ ready.1]

/-- At its tick the old copy retires, and both planes drop the absorbed cells that name it (Table 5.8). -/
theorem epochRetire_due {u : State} {k : Nat} (opened : s.lat.oldUntil = some k) (due : k ≤ s.folio)
    (after : u = modLat s fun l => { l with oldUntil := none, retired := true }) :
    epochRetire s = (u.lat.bufA.filter (fun a => epochDead u a.cell) ++ u.lat.bufB.filter fun a => epochDead u a.cell).foldl
      (fun s a => dropAt s a.port 10 a.cell) (modLat u fun l => { l with
        bufA := l.bufA.filter fun a => ¬ epochDead u a.cell, bufB := l.bufB.filter fun a => ¬ epochDead u a.cell }) := by
  simp only [epochRetire, opened, Nat.not_lt.2 due, if_false, ← after]

theorem closeAt_oldTable {k : Nat} (opened : s.lat.oldUntil = some k) : closeAt s .oldTable = some (.tick k) := by
  simp only [closeAt, opened, Option.map_some]

end

/-- Settles O28: each command by its checks, on the state that has taken it off the manager ring; an announcement by whether it was heard
before. -/
theorem latticeTablesAndEpochs : Obligations.LatticeTablesAndEpochs := by
  unfold Obligations.LatticeTablesAndEpochs
  refine ⟨?cfg, ?load, ?busy, ?switch, ?announced, ?again, ?retire⟩
  case cfg =>
    intro s v ready
    refine barAct_only (f := fun s => latCfgWrite s v) ready rfl ?_
    split <;> exact ⟨⟨rfl, rfl, rfl, rfl⟩, rfl, rfl, rfl, rfl⟩
  case load =>
    intro s d bs ready spare retired aligned named clean image
    refine (mgrCmd_ready s d (fun s => tableLoad s d) ready).trans ?_
    rw [tableLoad_accepted (s := takeHanded s .mgrSq d) spare retired aligned named clean image]
    rfl
  case busy =>
    intro s d ready busy
    refine (mgrCmd_ready s d (fun s => tableLoad s d) ready).trans ?_
    rw [tableLoad_busy (s := takeHanded s .mgrSq d) busy]
  case switch =>
    intro s d ready idle retired ahead new
    refine (mgrCmd_ready s d (fun s => epochSwitch s d) ready).trans ?_
    rw [epochSwitch_accepted (s := takeHanded s .mgrSq d) idle retired ahead new]
    rfl
  case announced =>
    intro s port id ks ready named new idle
    rw [exec_epochAnnounce ready named, epochHeard_new new idle]
    rfl
  case again =>
    intro s port id ks ready named seen
    rw [exec_epochAnnounce ready named, epochHeard, linkOnce_seen seen, commitNow_only ready.2 ⟨⟨rfl, rfl, rfl, rfl⟩, rfl, rfl, rfl, rfl⟩]
  case retire =>
    intro s u k running opened due after
    refine (closeCmd_tick s .oldTable k running (closeAt_oldTable opened) due).trans ?_
    rw [show closed s .oldTable = epochRetire s from rfl, epochRetire_due opened due after]
    rfl

end Sys2Proof.Machine
end

section
/-! PROOFS. Cells on the lattice: arrival, the assignment at the end of a cycle, the absorption buffers and this adapter's injections
(R154, R156 to R161, R165, R174, R451). -/

namespace Sys2Proof.Machine

theorem dropAt_only (s : State) (p i : Nat) (c : Cell) : s.OnlyState (dropAt s p i c) := ⟨⟨rfl, rfl, rfl, rfl⟩, rfl, rfl, rfl, rfl⟩

/-! ## Arrival (R157, R161) -/

section
variable {s : State} {p slot : Nat} {c : Cell}

theorem exec_latticeCellArrival (ready : s.Ready) (named : wfLat p = true) :
    exec (.latticeCellArrival p slot c) s = .next (commitNow s (latArrival s p slot c)) := by
  show need (wfLat p) (act s fun s => latArrival s p slot c) = _
  rw [named, need_true, act_running s _ ready.1]

/-- What R154 discards, case by case. -/
theorem badHeader_iff : badHeader s c = true ↔
    10 ≤ cType c ∨ 2 ≤ cClass c ∨ (cRowCast c = true ∧ cColCast c = true) ∨ dimX s ≤ cDstX c ∨ dimY s ≤ cDstY c := by
  simp only [badHeader, Bool.or_eq_true, Bool.and_eq_true, decide_eq_true_eq, ge_iff_le, or_assoc]

theorem latArrival_badHeader (up : live s p = true) (routed : cType c ≠ 0 ∧ cType c ≠ 8) (bad : badHeader s c = true) :
    latArrival s p slot c = dropAt s p 13 c := by
  simp [latArrival, routed, up, bad]

/-- An EC cell that arrives in order is counted on its port before it is ejected or goes on. -/
abbrev ecCounted (s : State) (p : Nat) : State := bwBytes (bump s (latCnt p 3) 1) p false 64

/-- An EC cell for this adapter is ejected (step 1 of Table 5.4). -/
theorem latArrival_here (up : live s p = true) (routed : cType c ≠ 0 ∧ cType c ≠ 8) (good : badHeader s c = false) (ec : cClass c = 0)
    (current : epochDead s c = false) (here : cDstY c * 32 + cDstX c = myCoord s) :
    latArrival s p slot c = eject (ecCounted s p) p c := by
  have sameCoord : myCoord (ecCounted s p) = myCoord s := rfl
  have stillCurrent : epochDead (ecCounted s p) c = false := current
  simp [latArrival, routed, up, good, ec, here, sameCoord, stillCurrent]

/-- An EC unicast cell in transit is dropped where it may not age on, and otherwise waits for the assignment (R161, R163). -/
theorem latArrival_transit (up : live s p = true) (routed : cType c ≠ 0 ∧ cType c ≠ 8) (good : badHeader s c = false) (ec : cClass c = 0)
    (current : epochDead s c = false) (away : cDstY c * 32 + cDstX c ≠ myCoord s) (unicast : cRowCast c = false ∧ cColCast c = false) :
    latArrival s p slot c = if cAge c = 255 then dropAt (ecCounted s p) p 9 c
      else modCyc (ecCounted s p) fun y => { y with arrivals := y.arrivals ++ [(p, slot, c)] } := by
  have sameCoord : myCoord (ecCounted s p) = myCoord s := rfl
  have stillCurrent : epochDead (ecCounted s p) c = false := current
  simp [latArrival, routed, up, good, ec, away, unicast, sameCoord, stillCurrent]

end

/-! ## Assignment (Table 5.4 step 4, R158, R159, R161) -/

/-- The first free slot of a port that carries traffic. -/
def openSlot (s : State) (q : Nat) : Option (Nat × Nat) := if live s q then (freeSlot s q).map fun j => (q, j) else none

/-- Route entry of a candidate's destination, in the table copy the cell names (R168). -/
abbrev candRoute (s : State) (plane : Nat) (x : Cand) : BitVec 8 :=
  routeEntry s plane (cEpoch x.cell) (cDstY x.cell * 32 + cDstX x.cell)

/-- Productive ports of a candidate, nearest choice first (R156, R158). -/
abbrev candPorts (s : State) (plane : Nat) (x : Cand) : List Nat :=
  productive s plane (cEpoch x.cell) (cDstY x.cell * 32 + cDstX x.cell)

/-- A candidate is counted as deflected to a port (Table 18.3, Table 18.4). -/
abbrev deflectCounted (s : State) (plane : Nat) (x : Cand) (q : Nat) : State :=
  prog (bump (unheld s plane x) (latCnt q 6) 1) { code := 0x03, source := q, dom := none, cls := some 1, seg := none, units := 1 }

section
variable {s : State} {plane q j : Nat} {x : Cand}

theorem openSlot_some (up : live s q = true) (free : freeSlot s q = some j) : openSlot s q = some (q, j) := by
  simp [openSlot, up, free]

theorem openSlot_none (full : freeSlot s q = none) : openSlot s q = none := by
  simp [openSlot, full]

/-- The first port that is live with a slot free gives the slot. -/
theorem findSome?_openSlot {ports : List Nat} (first : ports.find? (fun y => live s y && (freeSlot s y).isSome) = some q)
    (free : freeSlot s q = some j) : ports.findSome? (openSlot s) = some (q, j) := by
  induction ports with
  | nil => nomatch first
  | cons y ports ih =>
    rw [List.find?_cons] at first
    split at first
    next taken =>
      obtain ⟨up, -⟩ := Bool.and_eq_true_iff.1 taken
      obtain rfl := Option.some.inj first
      rw [List.findSome?_cons, openSlot_some up free]
    next passed =>
      have shut : openSlot s y = none := by
        cases full : freeSlot s y with
        | none => exact openSlot_none full
        | some i =>
          have down : live s y = false := by simpa [full] using passed
          simp [openSlot, down]
      rw [List.findSome?_cons, shut]
      exact ih first

/-- Where the cell goes, in the order of R158: a productive port, another free one, the absorption buffer. -/
theorem routeEc_valid (valid : routeValid (candRoute s plane x) = true) :
    routeEc s plane x = match (candPorts s plane x).findSome? (openSlot s) with
      | some (q, j) => sendLat (unheld s plane x) q j x.cell
      | none => match ((List.range 4).map (plane * 4 + ·)).findSome? (openSlot s) with
        | some (q, j) => sendLat (deflectCounted s plane x q) q j (marked x.cell)
        | none => noSlot s plane x := by
  simp only [routeEc, valid, Bool.not_true, Bool.false_eq_true, if_false]
  rfl

/-- A unicast cell that may still age is routed (R161). -/
theorem assignEc_unicast (young : cAge x.cell < 255) (unicast : x.isCast = false) : assignEc s plane x = routeEc s plane x := by
  simp only [assignEc, ge_iff_le, Nat.not_le.2 young, unicast, Bool.false_eq_true, if_false]

/-- The first choice of productive ports, where it has a slot free. -/
theorem routeEc_productive (valid : routeValid (candRoute s plane x) = true) (first : (candPorts s plane x).head? = some q) (up : live s q = true)
    (free : freeSlot s q = some j) : routeEc s plane x = sendLat (unheld s plane x) q j x.cell := by
  obtain ⟨rest, ports⟩ := List.head?_eq_some_iff.1 first
  rw [routeEc_valid valid, ports, List.findSome?_cons, openSlot_some up free]

/-- With no productive slot free the cell is deflected, marked, and counted on the port it leaves by (R158). -/
theorem routeEc_deflected (valid : routeValid (candRoute s plane x) = true)
    (full : ∀ y, y ∈ candPorts s plane x → freeSlot s y = none)
    (other : ((List.range 4).map (plane * 4 + ·)).find? (fun y => live s y && (freeSlot s y).isSome) = some q)
    (free : freeSlot s q = some j) : routeEc s plane x = sendLat (deflectCounted s plane x q) q j (marked x.cell) := by
  have noneFree : (candPorts s plane x).findSome? (openSlot s) = none :=
    List.findSome?_eq_none_iff.2 fun y nearer => openSlot_none (full y nearer)
  rw [routeEc_valid valid, noneFree, findSome?_openSlot other free]

/-- Leaving an absorption buffer is a matter of the buffer alone. -/
theorem unheld_frame (s : State) (plane : Nat) (x : Cand) : (unheld s plane x).outbox = s.outbox ∧ (unheld s plane x).time = s.time := by
  unfold unheld
  split <;> exact ⟨rfl, rfl⟩

/-- A cell that was not absorbed before enters the buffer, marked, behind those it holds (R159). -/
theorem noSlot_room (arrived : x.held = false) (room : (absorbOf s plane).length < 32) :
    noSlot s plane x = setAbsorb (prog (bump s (latCnt x.port 7) 1)
      { code := 0x04, source := x.port, dom := none, cls := some 1, seg := none, units := 1 }) plane
      (absorbOf s plane ++ [⟨marked x.cell, x.port, s.now⟩]) := by
  rw [noSlot, if_neg (by rw [arrived]; decide)]
  exact if_pos room

end

/-- Slot j of the cycle is taken on a port. -/
def slotTaken (s : State) (p j : Nat) : State := modLat s fun l => { l with used := (p, j) :: usedNow s, usedAt := s.now }

section
variable {s : State} {p : Nat} (j : Nat) (c : Cell)

theorem sendLat_eq (s : State) (p : Nat) : sendLat s p j c = if isFailing s p then slotTaken s p j
    else bwBytes (bump (emit (slotTaken s p j) (.latCell p (depSlot s j).2 (aged c))) (latCnt p (if cClass c = 1 then 0 else 1)) 1) p true 64 :=
  rfl

/-- A cell is lost on a port that is declared down in the cycle (R174). -/
theorem sendLat_failing (down : isFailing s p = true) : (sendLat s p j c).outbox = s.outbox := by
  rw [sendLat_eq, if_pos down]
  rfl

/-- On another port it leaves in the slot's place, its AGE raised by one (R161). -/
theorem sendLat_sent (up : isFailing s p = false) :
    (sendLat s p j c).outbox = s.outbox ++ [.latCell p (depSlot s j).2 (aged c)] := by
  rw [sendLat_eq, up]
  rfl

end

/-! ## The buffers' ageing (R159, R161) -/

theorem closeAt_absorbed {s : State} {plane g : Nat} (oldest : least ((absorbOf s plane).map (·.at_)) = some g) :
    closeAt s (.absorbed plane) = some (.at (g + 96)) := by
  simp only [closeAt, oldest, Option.map_some]

/-- Settles O29: an arrival by its header, its age and its destination; the assignment by the slots that are free; the rest by the rows'
own equations. -/
theorem latticeCells : Obligations.LatticeCells := by
  unfold Obligations.LatticeCells
  refine ⟨?discarded, ?here, ?transit, ?cycle, ?productive, ?deflected, ?absorbed, ?sent, ?ageing, ?injection⟩
  case discarded =>
    intro s p slot c ready named up routed bad
    rw [exec_latticeCellArrival ready named, latArrival_badHeader up routed (badHeader_iff.2 bad), commitNow_only ready.2 (dropAt_only s p 13 c)]
  case here =>
    intro s p slot c ready named up routed good ec current here
    rw [exec_latticeCellArrival ready named, latArrival_here up routed good ec current here]
  case transit =>
    rintro s _ p slot c ready named up routed good ec current away unicast rfl
    rw [exec_latticeCellArrival ready named, latArrival_transit up routed good ec current away unicast]
  case cycle => exact fun s => ⟨rfl, rfl⟩
  case productive =>
    intro s plane q j x young unicast valid first up free
    rw [assignEc_unicast young unicast, routeEc_productive valid first up free]
  case deflected =>
    intro s plane q j x young unicast valid full other free
    rw [assignEc_unicast young unicast, routeEc_deflected valid full other free]
    exact ⟨_, rfl, rfl, unheld_frame s plane x⟩
  case absorbed =>
    intro s plane x arrived room
    exact ⟨_, noSlot_room arrived room, rfl, rfl, rfl⟩
  case sent => exact fun s p j c => ⟨sendLat_failing j c, sendLat_sent j c⟩
  case ageing =>
    intro s plane g running named oldest reached
    show need (wfPlane plane) (closeCmd s (.absorbed plane)) = _
    rw [named, need_true, closeCmd_at s _ _ running (closeAt_absorbed oldest) reached]
    rfl
  case injection =>
    intro s ready
    exact act_only (f := fun s => modCyc s fun c => { c with inject := true }) ready rfl ⟨⟨rfl, rfl, rfl, rfl⟩, rfl, rfl, rfl, rfl⟩

end Sys2Proof.Machine
end

section
/-! PROOFS. The value an element has by its scale byte, and the bits of a packed plane it is decoded from (R199, R200, R203). -/

namespace Sys2Proof.Machine

/-! ## The value of an element and its scale (R199, R200) -/

/-- The exact value of an integer in a block of scale `e`: none in a poisoned block, 0 in a zero block (R199, R200). -/
def scaledValue (q : Int) (e : Nat) : Val := if e = 0xFF then none else if e = 0 then some (0, 0) else some (q, (e : Int) - 127)

/-- An image gives every element the value its scale makes of it. -/
theorem vals_getElem? (m : Image) (i : Nat) : m.vals[i]? = m.elems[i]?.map fun q => scaledValue q (m.scale i) := by
  unfold Image.vals
  rw [List.getElem?_map, List.getElem?_zipIdx, Option.map_map, Nat.zero_add]
  rfl

theorem scale_of_tensor {m : Image} (tensor : m.fmt.tensor = true) (i : Nat) : m.scale i = lget m.scales 0 0 := by
  rw [Image.scale, if_pos tensor]

theorem scale_of_not_tensor {m : Image} (scattered : m.fmt.tensor = false) (i : Nat) :
    m.scale i = lget m.scales (i / m.fmt.unit) 0 := by
  rw [Image.scale, scattered, if_neg Bool.false_ne_true]

/-- A format of blocks has a scale for each block of N elements (R203). -/
theorem scale_of_block {m : Image} (blocks : m.fmt.block ≠ 0) (i : Nat) : m.scale i = lget m.scales (i / m.fmt.block) 0 := by
  have scattered : m.fmt.tensor = false := by simp [Fmt.tensor, blocks]
  rw [scale_of_not_tensor scattered, Fmt.unit, if_neg blocks]

/-- An image read in a format without scales has 127 for every 64 elements where nothing is poisoned (R199). -/
theorem readImage_scales_unscaled {f : Fmt} (unscaled : f.scaled = false) (count : Nat) (bs : List Byte) :
    (readImage f count bs []).scales = List.replicate (cdiv count 64) 127 := by
  have scattered : f.tensor = false := by simp [Fmt.tensor, unscaled]
  simp [readImage, unscaled, scattered, touches]

/-- An element of `count` lies in one of the blocks of `b` elements that they fill. -/
theorem div_lt_cdiv {i count b : Nat} (positive : 0 < b) (among : i < count) : i / b < cdiv count b :=
  (Nat.div_lt_iff_lt_mul positive).2 (among.trans_le (le_cdiv_mul positive))

/-- Every element of an I32 image has the scale 127 (R199). -/
theorem readImage_scale_i32 {f : Fmt} {count i : Nat} (bs : List Byte) (i32 : fmtOf 0xD = some f) (among : i < count) :
    (readImage f count bs []).scale i = 127 := by
  obtain rfl := Option.some.inj i32
  rw [scale_of_not_tensor rfl, readImage_scales_unscaled rfl, lget]
  exact List.getD_replicate _ (div_lt_cdiv (b := 64) (by decide) among)

/-- Settles O9: an element's value is the one its scale byte makes of it, and the scales of per-tensor and I32 images are constant. -/
theorem valuesOfElements : Obligations.ValuesOfElements := by
  unfold Obligations.ValuesOfElements
  refine ⟨?value, ?tensor, ?i32⟩
  case value =>
    intro m i q element
    rw [vals_getElem?, element]
    rfl
  case tensor => exact fun m i j tensor => (scale_of_tensor tensor i).trans (scale_of_tensor tensor j).symm
  case i32 => exact fun f count i bs i32 among => readImage_scale_i32 bs i32 among

/-! ## A byte string cut in two (R2) -/

theorem natOf_lt (bs : List Byte) : natOf bs < 256 ^ bs.length := by
  induction bs with
  | nil => exact Nat.one_pos
  | cons b bs ih =>
    have byte : b.toNat < 256 := b.isLt
    have first : natOf (b :: bs) = b.toNat + 256 * natOf bs := rfl
    rw [first, List.length_cons, Nat.pow_succ]
    omega

theorem natOf_take (bs : List Byte) (n : Nat) : natOf (bs.take n) = natOf bs % 256 ^ n := by
  rcases Nat.le_total n bs.length with within | beyond
  · have cut := natOf_append (bs.take n) (bs.drop n)
    have below := natOf_lt (bs.take n)
    rw [List.take_append_drop] at cut
    rw [List.length_take_of_le within] at cut below
    rw [cut, Nat.add_mul_mod_self_left, Nat.mod_eq_of_lt below]
  · rw [List.take_of_length_le beyond, Nat.mod_eq_of_lt ((natOf_lt bs).trans_le (Nat.pow_le_pow_right (by decide) beyond))]

theorem natOf_drop (bs : List Byte) (n : Nat) : natOf (bs.drop n) = natOf bs / 256 ^ n := by
  rcases Nat.le_total n bs.length with within | beyond
  · have cut := natOf_append (bs.take n) (bs.drop n)
    have below := natOf_lt (bs.take n)
    rw [List.take_append_drop] at cut
    rw [List.length_take_of_le within] at cut below
    rw [cut, Nat.add_mul_div_left _ _ (Nat.pow_pos (by decide)), Nat.div_eq_of_lt below, Nat.zero_add]
  · rw [List.drop_of_length_le beyond, Nat.div_eq_of_lt ((natOf_lt bs).trans_le (Nat.pow_le_pow_right (by decide) beyond))]
    rfl

/-! ## The codes of a plane (R203) -/

/-- The code of element `i`: bits w × i to w × i + w - 1 of the number that the plane's bytes spell (R203). -/
def codeAt (w x i : Nat) : Nat := x / 2 ^ (w * i) % 2 ^ w

/-- Sixteen codes of `w` bits are 2 × w bytes. -/
theorem bytes_of_sixteen_codes (w : Nat) : 256 ^ (2 * w) = 2 ^ (w * 16) := by
  rw [show 256 = 2 ^ 8 from rfl, ← Nat.pow_mul]
  congr 1
  omega

/-- The first `k` codes lie in the lowest w × k bits. -/
theorem codeAt_mod {w i k : Nat} (x : Nat) (first : i < k) : codeAt w (x % 2 ^ (w * k)) i = codeAt w x i := by
  have above : w * i + w ≤ w * k := Nat.mul_le_mul_left w first
  obtain ⟨rest, split⟩ := Nat.exists_eq_add_of_le (Nat.le_sub_of_add_le' above)
  have bits : (2 : Nat) ^ (w * k) = 2 ^ (w * i) * 2 ^ (w + rest) := by
    rw [← Nat.pow_add]
    congr 1
    omega
  rw [codeAt, bits, Nat.mod_mul_right_div_self, Nat.mod_mod_of_dvd _ (Nat.pow_dvd_pow 2 (Nat.le_add_right w rest)), codeAt]

/-- The codes above the lowest `k` follow each other from bit w × k. -/
theorem codeAt_div (w x i k : Nat) : codeAt w (x / 2 ^ (w * k)) i = codeAt w x (k + i) := by
  rw [codeAt, Nat.div_div_eq_div_mul, ← Nat.pow_add, ← Nat.mul_add, codeAt]

/-! ## The elements of a packed plane (R203) -/

theorem chunks_cons {α : Type} {n : Nat} {l : List α} (fuel : Nat) (positive : n ≠ 0) (more : l ≠ []) :
    chunks n (fuel + 1) l = l.take n :: chunks n fuel (l.drop n) := by
  simp [chunks, positive, more]

/-- The elements that a piece of 2 × w bytes holds. -/
def chunkElems (f : Fmt) (c : List Byte) : List Int := (List.range 16).map fun i => decodeElem f (codeAt f.width (natOf c) i)

theorem length_chunkElems (f : Fmt) (c : List Byte) : (chunkElems f c).length = 16 := by
  rw [chunkElems, List.length_map, List.length_range]

theorem chunkElems_getElem? (f : Fmt) (c : List Byte) {i : Nat} (first : i < 16) :
    (chunkElems f c)[i]? = some (decodeElem f (codeAt f.width (natOf c) i)) := by
  rw [chunkElems, List.getElem?_map, List.getElem?_range first, Option.map_some]

theorem unpackElems_eq (f : Fmt) (bs : List Byte) (count : Nat) :
    unpackElems f bs count = ((pieces (2 * f.width) bs).flatMap (chunkElems f)).take count := rfl

/-- An element of the first piece is decoded from its bits of the plane, and one of a later piece from its bits of what follows. -/
theorem flatMap_chunks_getElem? {f : Fmt} (positive : 0 < f.width) {fuel : Nat} {bs : List Byte} {i : Nat}
    (enough : bs.length < fuel) (inside : f.width * i + f.width ≤ 8 * bs.length) :
    ((chunks (2 * f.width) fuel bs).flatMap (chunkElems f))[i]? = some (decodeElem f (codeAt f.width (natOf bs) i)) := by
  induction fuel generalizing bs i with
  | zero => exact absurd enough (Nat.not_lt_zero _)
  | succ fuel ih =>
    have more : bs ≠ [] := by
      rintro rfl
      rw [List.length_nil] at inside
      omega
    have bytes : 0 < bs.length := List.length_pos_iff.2 more
    rw [chunks_cons fuel (by omega) more, List.flatMap_cons]
    rcases Nat.lt_or_ge i 16 with first | later
    · rw [List.getElem?_append_left (by rwa [length_chunkElems]), chunkElems_getElem? f _ first, natOf_take, bytes_of_sixteen_codes,
        codeAt_mod _ first]
    · obtain ⟨j, rfl⟩ := Nat.exists_eq_add_of_le later
      have shorter : (bs.drop (2 * f.width)).length = bs.length - 2 * f.width := List.length_drop
      rw [Nat.mul_add] at inside
      rw [List.getElem?_append_right (by rwa [length_chunkElems]), length_chunkElems, Nat.add_sub_cancel_left,
        ih (by omega) (by omega), natOf_drop, bytes_of_sixteen_codes, codeAt_div]

/-- Element `i` of a plane that holds it is decoded from bits w × i to w × i + w - 1 of the plane (R203). -/
theorem unpackElems_getElem? {f : Fmt} (positive : 0 < f.width) {bs : List Byte} {count i : Nat} (among : i < count)
    (inside : f.width * i + f.width ≤ 8 * bs.length) :
    (unpackElems f bs count)[i]? = some (decodeElem f (codeAt f.width (natOf bs) i)) := by
  rw [unpackElems_eq, List.getElem?_take_of_lt among, pieces, flatMap_chunks_getElem? positive (Nat.lt_succ_self _) inside]

/-- Every element of Table 7.1 has bits. -/
theorem fmtOf_width_pos {code : Nat} {f : Fmt} (format : fmtOf code = some f) : 0 < f.width := by
  unfold fmtOf at format
  split at format <;> cases format <;> decide

/-- Settles O10: by induction on the pieces of sixteen elements that a plane is decoded in. -/
theorem elementBitsOfAPlane : Obligations.ElementBitsOfAPlane := by
  unfold Obligations.ElementBitsOfAPlane
  refine ⟨?bits, ?block⟩
  case bits => exact fun _ _ _ _ _ format among inside => unpackElems_getElem? (fmtOf_width_pos format) among inside
  case block => exact fun _ i blocks => scale_of_block blocks i

end Sys2Proof.Machine
end

section
/-! PROOFS. How a collective moves on: the start of a stage, the grant of the shared pool, the wait for slots and the notice of a
suspension (R238, R243, R244, R249). -/

namespace Sys2Proof.Machine

section
variable {s : State} {comm i n st k : Nat} {m : Comm} {c : Coll} {d : Domain}

/-! ## Stages (R238, R249) -/

/-- A stage can start only outside a suspended carrel, and then of the first collective and round whose start condition holds. -/
theorem stageNext_present (found : getComm s comm = some m) (dom : getDom s (commDom s m) = some d) :
    stageNext s comm st = if d.suspended then none else
      m.run.findSome? fun c => ((List.range (rounds m c)).find? fun n => canStart m c st n (myRank s m)).map fun n => (c.idx, n) := by
  simp only [stageNext, found, dom, Option.bind_some, Option.map_some, Option.getD_some]

theorem stageStart_none (idle : stageNext s comm st = none) : stageStart s comm st = s := by
  simp only [stageStart, idle]

theorem stageStart_some (next : stageNext s comm st = some (i, n)) : stageStart s comm st = startStage s comm i st n := by
  simp only [stageStart, next]

theorem exec_collectiveStageStart (ready : s.Ready) :
    exec (.collectiveStageStart comm st) s = .next (commitNow s (stageStart s comm st)) := by
  show act s (fun s => stageStart s comm st) = _
  rw [act_running s _ ready.1]

/-! ## The shared pool (R243) -/

/-- The head of the FIFO leaves it and starts where its slots are free, and waits on otherwise. -/
theorem grantSlots_head {rest : List (Nat × Nat)} (head : s.col.fifo = (comm, i) :: rest) (found : getColl s comm i = some (m, c)) :
    grantSlots s = if m.shared ≤ sharedFree s then
      beginColl (modColl { s with col := { s.col with fifo := rest } } comm i fun c => { c with waits := none, granted := m.shared }) comm i
    else s := by
  simp only [grantSlots, head, found]
  rcases Nat.lt_or_ge (sharedFree s) m.shared with short | free
  · rw [if_pos short, if_neg (Nat.not_le.2 short)]
  · rw [if_neg (Nat.not_lt.2 free), if_pos free]

/-! ## The wait for slots (R244) -/

/-- A collective's wait closes its communicator's wait time after it began. -/
theorem closeAt_slotWait {o : Gtc} (found : getComm s comm = some m) (run : (m.run.find? fun x => x.idx = i) = some c)
    (waits : c.waits = some o) : closeAt s (.slotWait comm i) = some (.at (o + m.waitUs * 16000)) := by
  simp only [closeAt, found, run, waits, Option.bind_some, Option.map_some]

/-- The wait that the command closes is that of the oldest collective that waits. -/
theorem execSlotWaitExpiry_oldest (found : getComm s comm = some m) (oldest : (m.run.find? fun c => c.waits.isSome) = some c) :
    execSlotWaitExpiry comm s = closeCmd s (.slotWait comm c.idx) := by
  simp only [execSlotWaitExpiry, found, oldest, Option.bind_some, Option.map_some, Option.getD_some]

/-! ## The notice of a suspension (R249) -/

theorem closeAt_notice (found : getComm s comm = some m) (opened : m.notice = some k) :
    closeAt s (.notice comm) = some (.tick k) := by
  simp only [closeAt, found, opened, Option.bind_some, Option.map_some]

/-- In a carrel that is still suspended, every other member is sent SUSPENDED, and the window is closed. -/
theorem noticeClose_suspended (found : getComm s comm = some m) (opened : m.notice = some k) (due : k ≤ s.folio)
    (dom : getDom s (commDom s m) = some d) (suspended : d.suspended = true) :
    noticeClose s comm = modComm (pushNotices s m
      (((List.range m.size).filter (· ≠ myRank s m)).map fun r =>
        suspendedCell s comm (((m.run.head?).map Coll.seq).getD m.nextSeq) (rankCoord s m r) (d.suspendedAt * s.F)))
      comm fun m => { m with notice := none } := by
  have acts : ¬ (decide (k > s.folio) || !d.suspended) = true := by simp [Nat.not_lt.2 due, suspended]
  simp only [noticeClose, found, opened, dom, if_neg acts]

end

/-- Settles O34: a stage by whether one can start, the grant by whether the slots are free, and each wait by the close of its window. -/
theorem collectiveProgress : Obligations.CollectiveProgress := by
  unfold Obligations.CollectiveProgress
  refine ⟨?idle, ?start, ?next, ?grant, ?wait, ?noSlot, ?notice⟩
  case idle =>
    intro s comm st ready idle
    rw [exec_collectiveStageStart ready, stageStart_none idle, commitNow_only ready.2 ⟨⟨rfl, rfl, rfl, rfl⟩, rfl, rfl, rfl, rfl⟩]
  case start =>
    intro s comm st i n ready next
    rw [exec_collectiveStageStart ready, stageStart_some next]
  case next => exact fun s comm st m d found dom => stageNext_present found dom
  case grant =>
    intro s comm i rest m c ready head found
    show act s (fun s => grantSlots s) = _
    rw [act_running s _ ready.1, grantSlots_head head found]
  case wait =>
    intro s comm m c o running found oldest run waits reached
    refine (execSlotWaitExpiry_oldest found oldest).trans ?_
    rw [closeCmd_at s _ _ running (closeAt_slotWait found run waits) reached]
    rfl
  case noSlot => exact fun _ _ _ => rfl
  case notice =>
    intro s comm k m d running found opened due dom suspended
    refine (closeCmd_tick s (.notice comm) k running (closeAt_notice found opened) due).trans ?_
    rw [show closed s (.notice comm) = noticeClose s comm from rfl, noticeClose_suspended found opened due dom suspended]

end Sys2Proof.Machine
end

section
/-! PROOFS. The steps of initialisation: the trained bridge and stacks, the zero fill of a granule, and the choice of the boot ROM (R275,
R477 to R479, R506, R507, R519). -/

namespace Sys2Proof.Machine

section
variable {s : State} {g n k : Nat}

/-! ## INIT_DONE (R482, R507) -/

/-- The running image and its measurements stand (R477, R483). -/
abbrev Sec.ImageKept (x y : Sec) : Prop := y.ownerHash = x.ownerHash ∧ y.slot = x.slot ∧ y.measured = x.measured

/-- The signing queue moves its own requests, in the security block alone (R472). -/
theorem sigPump_requests (s : State) : ∃ sec, sigPump s = { s with sec := sec } ∧ s.sec.ImageKept sec := by
  unfold sigPump
  split
  · exact ⟨_, rfl, rfl, rfl, rfl⟩
  split
  · exact ⟨_, rfl, rfl, rfl, rfl⟩
  split
  · exact ⟨_, rfl, rfl, rfl, rfl⟩
  split
  · exact ⟨_, rfl, rfl, rfl, rfl⟩
  split
  · exact ⟨_, rfl, rfl, rfl, rfl⟩
  · exact ⟨_, rfl, rfl, rfl, rfl⟩

/-- INIT_DONE waits for firmware. -/
theorem initCheck_noFirmware (stopped : s.glb.fwRunning = false) : initCheck s = s := by
  simp [initCheck, stopped]

/-- Whether or not INIT_DONE is reached, only the manager domain, INIT_DONE and the signing requests may move. -/
theorem initCheck_moves (s : State) : ∃ doms done sec,
    initCheck s = { s with doms := doms, glb := { s.glb with initDone := done }, sec := sec } ∧ s.sec.ImageKept sec := by
  unfold initCheck
  dsimp only
  split
  · split
    · obtain ⟨sec, pumped, kept⟩ := sigPump_requests (modSec
        { modGlb s fun g => { g with initDone := true } with doms := tput s.doms 64 (Domain.new DomCfg.manager) } fun x => { x with certQ := true })
      exact ⟨_, _, sec, pumped, kept⟩
    · exact ⟨_, _, _, rfl, rfl, rfl, rfl⟩
  · exact ⟨_, _, _, rfl, rfl, rfl, rfl⟩

/-! ## The zero fill (R275) -/

/-- The fill of the next granule wipes it, unpoisons its lines and records it; it may complete the tables and INIT_DONE. -/
theorem fillEnd_next (ready : s.glb.hbmReady = true) (unfilled : s.glb.filled.contains g = false) (next : fillOrder g ≤ fillDone s) :
    ∃ count tables done doms sec, fillEnd s g = { s with
      wipe := g :: s.wipe, hbm := { s.hbm with poison := s.hbm.poison.filter fun l => ¬ (l / 2 ^ 24 = g) }
      glb := { s.glb with filled := g :: s.glb.filled, ready := count, tablesReady := tables, initDone := done }
      doms := doms, sec := sec } := by
  have acts : ¬ (s.glb.filled.contains g || !s.glb.hbmReady || decide (fillDone s < fillOrder g)) = true := by
    simp only [unfilled, ready, Bool.not_true, Bool.or_self, Bool.false_or, decide_eq_true_eq]
    exact Nat.not_lt.2 next
  unfold fillEnd
  dsimp only
  rw [if_neg acts]
  obtain ⟨_, _, _, checked, -⟩ := initCheck_moves (modGlb
    { s with wipe := g :: s.wipe, hbm := { s.hbm with poison := s.hbm.poison.filter fun l => ¬ (l / 2 ^ 24 = g) } } fun b => { b with
      filled := g :: b.filled, ready := if fillOrder g = fillDone s && 4 ≤ g then b.ready + 1 else b.ready
      tablesReady := b.tablesReady || fillOrder g = 3 })
  exact ⟨_, _, _, _, _, checked⟩

/-! ## The boot ROM (R476 to R479, R519) -/

/-- The ROM's sensing of the fuses (R476). -/
def fusesSensed (s : State) : State := modSec s fun x => { x with sensed := true, ownerHash := ownerFuse s }

/-- Spending a PENDING slot changes the boot control alone (R478). -/
theorem spendPending_boot (s : State) (k : Nat) : ∃ boot, spendPending s k = modSec s fun x => { x with boot := boot } := by
  unfold spendPending
  split
  · exact ⟨_, rfl⟩
  · exact ⟨_, rfl⟩

/-- Loading an image moves the security block, to the slot of it and its measurements (R477, R483). -/
theorem loadImage_measures (s : State) (k : Nat) : ∃ sec, loadImage s k = { s with sec := sec } ∧
    sec.ownerHash = s.sec.ownerHash ∧ sec.slot = k ∧ sec.measured = true := ⟨_, rfl, rfl, rfl, rfl⟩

/-- What the ROM leaves of the security block when it starts the image of slot `k`. -/
theorem loadImage_spent (s : State) (k : Nat) : ∃ sec, loadImage (spendPending (fusesSensed s) k) k = { s with sec := sec } ∧
    sec.ownerHash = ownerFuse s ∧ sec.slot = k ∧ sec.measured = true := by
  obtain ⟨boot, spent⟩ := spendPending_boot (fusesSensed s) k
  obtain ⟨sec, loaded, owner, slot, measured⟩ := loadImage_measures (spendPending (fusesSensed s) k) k
  rw [spent] at owner
  rw [loaded, spent]
  exact ⟨sec, rfl, owner, slot, measured⟩

/-- The steps of the ROM, by the image it chooses. -/
theorem romTry_steps (s : State) (n : Nat) : romTry s n = match bootChoice s n with
    | some k => initCheck (modGlb (loadImage (spendPending (fusesSensed s) k) k) fun g => { g with fwRunning := true })
    | none => codexHand (modGlb (fusesSensed s) fun g => { g with recovery := true }) 0x12 0x090 0xFF 0 := rfl

/-- The image chosen runs and is measured (R477, R483). -/
theorem romTry_some (chosen : bootChoice s n = some k) : ∃ doms done sec, romTry s n = { s with
    doms := doms, glb := { s.glb with fwRunning := true, initDone := done }, sec := sec } ∧
    sec.ownerHash = ownerFuse s ∧ sec.slot = k ∧ sec.measured = true := by
  obtain ⟨sec, loaded, owner, slot, measured⟩ := loadImage_spent s k
  obtain ⟨doms, done, requested, checked, sameOwner, sameSlot, sameMeasured⟩ :=
    initCheck_moves (modGlb { s with sec := sec } fun g => { g with fwRunning := true })
  refine ⟨doms, done, requested, ?_, sameOwner.trans owner, sameSlot.trans slot, sameMeasured.trans measured⟩
  rw [romTry_steps, chosen]
  dsimp only
  rw [loaded]
  exact checked

/-- With no image that verifies the ROM is in recovery, and says so in one record (R477, R479). -/
theorem romTry_none (empty : bootChoice s n = none) : romTry s n = { s with
    glb := { s.glb with recovery := true }, sec := (fusesSensed s).sec, codex := (codexHand s 0x12 0x090 0xFF 0).codex } := by
  rw [romTry_steps, empty]
  rfl

/-- The ROM writes no HBM and lets no time pass. -/
theorem romTry_only (s : State) (n : Nat) : s.OnlyState (romTry s n) := by
  cases choice : bootChoice s n with
  | some k =>
    obtain ⟨_, _, _, ran, -⟩ := romTry_some choice
    rw [ran]
    exact ⟨⟨rfl, rfl, rfl, rfl⟩, rfl, rfl, rfl, rfl⟩
  | none =>
    rw [romTry_none choice]
    exact ⟨⟨rfl, rfl, rfl, rfl⟩, rfl, rfl, rfl, rfl⟩

/-- FIRMWARE_START tries every candidate, BOOT_WATCHDOG_EXPIRY those after the first. -/
theorem exec_boot (first : Bool) (ready : s.Ready) (stopped : s.glb.fwRunning = false) (tries : s.glb.recovery = false) :
    exec (if first then .firmwareStart else .bootWatchdogExpiry) s = .next (romTry s (if first then 0 else 1)) := by
  have row : exec (if first then .firmwareStart else .bootWatchdogExpiry) s =
      act s fun s => if s.glb.fwRunning || s.glb.recovery then s else romTry s (if first then 0 else 1) := by cases first <;> rfl
  rw [row]
  refine act_only ready ?_ (romTry_only s _)
  rw [stopped, tries]
  rfl

end

/-- Settles O13: training reaches no INIT_DONE while firmware does not run, the fill of the next granule wipes it alone, and the ROM goes by
the image it chooses. -/
theorem initialisationSteps : Obligations.InitialisationSteps := by
  unfold Obligations.InitialisationSteps
  refine ⟨?bridge, ?hbm, ?fill, ?boot⟩
  case bridge =>
    intro s ready stopped
    show act s (fun s => initCheck (modGlb s fun g => { g with bridgeUp := true })) = _
    exact act_only ready (initCheck_noFirmware stopped) ⟨⟨rfl, rfl, rfl, rfl⟩, rfl, rfl, rfl, rfl⟩
  case hbm =>
    intro s ready up stopped
    show act s (fun s => if s.glb.bridgeUp then initCheck (modGlb s fun g => { g with hbmReady := true }) else s) = _
    refine act_only ready ?_ ⟨⟨rfl, rfl, rfl, rfl⟩, rfl, rfl, rfl, rfl⟩
    exact (if_pos up).trans (initCheck_noFirmware stopped)
  case fill =>
    intro s g ready named trained unfilled next
    obtain ⟨_, _, _, _, _, filled⟩ := fillEnd_next trained unfilled next
    have runs : exec (.granuleZeroFillDone g) s = .next (commitNow s (fillEnd s g)) :=
      (if_pos named).trans (act_running s (fun s => fillEnd s g) ready.1)
    have bytes : ∀ a, (commitNow s (fillEnd s g)).byte a = if a / 2 ^ 30 = g then 0 else s.byte a := by
      intro a
      rw [commitNow_byte _ _ _ (by rw [filled]; exact ready.2.1), filled]
      simp [ready.2.2]
    refine ⟨_, runs, ?_, bytes, ?_⟩
    · rw [filled]; rfl
    · rw [filled]; exact ⟨rfl, rfl, rfl, rfl, rfl, rfl, rfl⟩
  case boot =>
    intro s first ready stopped tries
    refine ⟨_, exec_boot first ready stopped tries, ?_⟩
    cases choice : bootChoice s (if first then 0 else 1) with
    | some k =>
      obtain ⟨_, _, _, ran, owner, slot, measured⟩ := romTry_some choice
      rw [ran]
      exact ⟨owner, rfl, rfl, rfl, rfl, rfl, rfl, tries, slot, measured⟩
    | none =>
      rw [romTry_none choice]
      exact ⟨rfl, rfl, rfl, rfl, rfl, rfl, stopped, rfl, rfl, rfl⟩

end Sys2Proof.Machine
end

section
/-! PROOFS. The check values of the fixed CRC parameter sets, CHK_SET_DEFINE, and the key slots behind KEY_LOAD_CTL (R280 to R282, R289 to
R291, R534). -/

namespace Sys2Proof.Machine

/-! ## The fixed parameter sets (Table 10.4) -/

set_option maxRecDepth 4000 in
/-- Settles O35: a closed evaluation of R289, nine bytes through each of the twelve sets. -/
theorem crcFixedSets : Obligations.CrcFixedSets := by
  unfold Obligations.CrcFixedSets
  decide

/-! ## CHK_SET_DEFINE (R291) -/

section
variable {s : State} {d : Line}

/-- What the cycle has named is forgotten before its one definition is done (Table 10.9). -/
theorem defineCycle_singleton (one : s.cyc.defines = [d]) :
    defineCycle s = chkDefine { s with cyc := { s.cyc with defines := [], newJobs := [], newOps := [] } } d := by
  rw [defineCycle, one]
  rfl

/-- A function outside the part, or in no domain, defines no set. -/
theorem chkDefine_absent (absent : 512 < dfld d 18 0 16 ∨ fnDom s (dfld d 18 0 16) = none) : chkDefine s d = mgrFail s d 1 := by
  have refused : (decide (dfld d 18 0 16 > 512) || (fnDom s (dfld d 18 0 16)).isNone) = true := by simpa using absent
  exact if_pos refused

/-- Of a function in a domain the values are checked before the set's users. -/
theorem chkDefine_present (fits : dfld d 18 0 16 ≤ 512) (owned : (fnDom s (dfld d 18 0 16)).isSome = true) :
    chkDefine s d = (if 0x10 ≤ dfld d 16 0 16 ∧ dfld d 16 0 16 ≤ 0x40F ∧ 8 ≤ dfld d 20 0 7 ∧ dfld d 20 0 7 ≤ 64 ∧
          dfld d 24 0 64 < 2 ^ dfld d 20 0 7 ∧ dfld d 32 0 64 < 2 ^ dfld d 20 0 7 ∧ dfld d 40 0 64 < 2 ^ dfld d 20 0 7 then
        (if chkBusy s (dfld d 16 0 16) then mgrFail s d 2
         else mgrOk { s with zoo := { s.zoo with chkSets := tput s.zoo.chkSets (dfld d 16 0 16) ⟨dfld d 18 0 16, dfld d 20 0 7, dfld d 24 0 64, dfld d 32 0 64, dbit d 20 7, dbit d 21 0, dfld d 40 0 64, dbit d 21 1⟩ } } d)
      else mgrFail s d 3) := by
  obtain ⟨dom, owner⟩ := Option.isSome_iff_exists.1 owned
  have present : (decide (dfld d 18 0 16 > 512) || (fnDom s (dfld d 18 0 16)).isNone) = false := by simp [owner, fits]
  simp only [chkDefine, present, Bool.false_eq_true, if_false]
  refine (if_congr ?outside rfl rfl).trans (ite_not _ _ _)
  case outside =>
    simp only [Bool.or_eq_true, decide_eq_true_eq]
    omega

end

/-! ## The staging buffer and the GO of KEY_LOAD_CTL (R281, R282, R534) -/

section
variable {s : State} {v : W64}

/-- The cycle's one write of KEY_LOAD_DATA lands, where no link loss clears the buffer behind it. -/
theorem stageCycle_singleton {i : Nat} (one : s.cyc.staged = [(i, v)]) (kept : s.cyc.unstage = false) :
    stageCycle s = keyData { s with cyc := { s.cyc with staged := [], unstage := false } } i v := by
  simp only [stageCycle, one, kept, Bool.false_eq_true, if_false]
  rfl

theorem exec_keyGo (load : Bool) (ready : s.BarReady) (go : fld v 40 2 = if load then 1 else 2) :
    exec (if load then .keyGoLoad v else .keyGoZeroise v) s = .next (commitNow s (keyGo s v load)) := by
  cases load <;> exact (congrArg (need · _) (decide_eq_true go)).trans (barAct_ready s (fun s => keyGo s v _) ready)

theorem keyGo_refused {load : Bool} (refused : goRefusal s v load ≠ 0) : keyGo s v load = { mark s 0x1E0008 0 with
    keyLoad := { s.keyLoad with ctl := v &&& 0x3FF1F07FF, data := List.replicate 8 0, mask := 0, error := true, code := goRefusal s v load } } :=
  if_pos refused

theorem keyGo_loads {k : BitVec 512} (passes : goRefusal s v true = 0)
    (key : k = if fld v 16 2 = 1 then stagedKey s else ((stagedKey s).extractLsb' 0 256).setWidth 512) : keyGo s v true = { s with
      keys := tput s.keys (fld v 0 11) ⟨fld v 16 2, if fld v 16 2 = 1 then fld v 18 3 else 0, fld v 24 10, k, kcvOf k, false⟩
      keyLoad := { s.keyLoad with ctl := v &&& 0x3FF1F07FF, data := List.replicate 8 0, mask := 0, kcv := kcvOf k } } := by
  subst key
  simp only [keyGo, passes, ne_eq, not_true_eq_false, if_false, if_true]

theorem keyGo_zeroises (passes : goRefusal s v false = 0) : keyGo s v false = refuseNew { s with
    keys := zeroKeys s.keys fun n _ => n = fld v 0 11
    keyLoad := { s.keyLoad with ctl := v &&& 0x3FF1F07FF, data := List.replicate 8 0, mask := 0 } } (fld v 0 11) :=
  if_neg (not_not.2 passes)

end

/-! ## What zeroising leaves of the slots (R282) -/

section
variable {e : Nat × KeySlot} {t : Tbl KeySlot} {ok : Nat → KeySlot → Bool} {n : Nat}

theorem zeroKeys_cons_kept (keeps : ok e.1 e.2 = false) : zeroKeys (e :: t) ok = e :: zeroKeys t ok :=
  List.filterMap_cons_some (by rw [keeps]; rfl)

/-- A slot with an owner stays in the table as an empty one. -/
theorem zeroKeys_cons_zeroed (clears : ok e.1 e.2 = true) : zeroKeys (e :: t) ok = if e.2.owner = 0 then zeroKeys t ok
    else (e.1, { kind := 0, du := 0, owner := e.2.owner, key := 0, kcv := 0, used := true }) :: zeroKeys t ok := by
  by_cases free : e.2.owner = 0
  · rw [if_pos free]
    exact List.filterMap_cons_none (by simp [clears, free])
  · rw [if_neg free]
    exact List.filterMap_cons_some (by simp [clears, free])

theorem lookup_zeroKeys_kept (keeps : ∀ k, ok n k = false) : (zeroKeys t ok).lookup n = t.lookup n := by
  induction t with
  | nil => rfl
  | cons e t ih =>
    cases clears : ok e.1 e.2 with
    | false => rw [zeroKeys_cons_kept clears, List.lookup_cons, List.lookup_cons, ih]
    | true =>
      have other : (n == e.1) = false := by
        simp only [beq_eq_false_iff_ne]
        rintro rfl
        exact Bool.false_ne_true ((keeps _).symm.trans clears)
      rw [zeroKeys_cons_zeroed clears, List.lookup_cons, other, ← ih]
      split
      · rfl
      · rw [List.lookup_cons, other]

/-- A slot zeroised reads as an empty one that is no longer FRESH. -/
theorem lookup_zeroKeys_zeroed (clears : ∀ k, ok n k = true) :
    ((zeroKeys t ok).lookup n).all (fun k => k.kind = 0 && k.du = 0 && k.kcv = 0 && k.used && k.key = 0) = true := by
  induction t with
  | nil => rfl
  | cons e t ih =>
    by_cases same : n = e.1
    · subst same
      rw [zeroKeys_cons_zeroed (clears _)]
      split
      · exact ih
      · simp
    · have other : (n == e.1) = false := by simpa using same
      cases clearsOther : ok e.1 e.2 with
      | false => rwa [zeroKeys_cons_kept clearsOther, List.lookup_cons, other]
      | true =>
        rw [zeroKeys_cons_zeroed clearsOther]
        split
        · exact ih
        · rwa [List.lookup_cons, other]

end

/-- Settles O38: each command by its wrapper, CHK_SET_DEFINE and the GO by their checks in the order of the spec, and a zeroise entry by
entry of the table. -/
theorem checkSetsAndKeySlots : Obligations.CheckSetsAndKeySlots := by
  unfold Obligations.CheckSetsAndKeySlots
  refine ⟨?queued, ?endOfCycle, ?present, ?absent, ?written, ?lands, ?refused, ?loads, ?zeroises, ?slots⟩
  case queued =>
    intro s d ready
    have only : s.OnlyState { takeHanded s .mgrSq d with cyc := { s.cyc with defines := s.cyc.defines ++ [d] } } :=
      ⟨⟨rfl, rfl, rfl, rfl⟩, rfl, rfl, rfl, rfl⟩
    refine (mgrCmd_ready s d (fun s => modCyc s fun c => { c with defines := c.defines ++ [d] }) ready).trans ?_
    exact congrArg _ (commitNow_only ready.1.2 only)
  case endOfCycle => exact fun s d one => defineCycle_singleton one
  case present => exact fun s d fits owned => chkDefine_present fits owned
  case absent => exact fun s d absent => chkDefine_absent absent
  case written =>
    intro s i v ready among
    refine (congrArg (need · _) (decide_eq_true among)).trans ?_
    exact barAct_only (f := fun s => keyStage s i v) ready rfl ⟨⟨rfl, rfl, rfl, rfl⟩, rfl, rfl, rfl, rfl⟩
  case lands => exact fun s i v one kept => stageCycle_singleton one kept
  case refused =>
    intro s v load ready go refused
    rw [exec_keyGo load ready go, keyGo_refused refused]
    exact congrArg _ (commitNow_only ready.1.2 ⟨⟨rfl, rfl, rfl, rfl⟩, rfl, rfl, rfl, rfl⟩)
  case loads =>
    intro s v k ready go passes key
    refine (exec_keyGo true ready go).trans ?_
    rw [keyGo_loads passes key]
    exact congrArg _ (commitNow_only ready.1.2 ⟨⟨rfl, rfl, rfl, rfl⟩, rfl, rfl, rfl, rfl⟩)
  case zeroises =>
    intro s v ready go passes
    refine (exec_keyGo false ready go).trans ?_
    rw [keyGo_zeroises passes]
  case slots =>
    intro t n
    exact ⟨lookup_zeroKeys_zeroed fun _ => decide_eq_true rfl, fun m other => lookup_zeroKeys_kept fun _ => decide_eq_false other⟩

end Sys2Proof.Machine
end

section
/-! PROOFS. An echoed PARAM on a near port that holds a ZDB cell the model never holds: what follows the echo starts a link reset
(R301, R302, R316, R318, R320). -/

namespace Sys2Proof.Machine

/-- A port in PARAM that holds a ZDB cell of OP 1, an OP no ZDB cell of an endpoint has (Table 11.8), with two link resets in the second. -/
def holdsWrongCell : NearPort := { NearPort.reset with
  enable := true, state := 3, paramNext := 12288, resetTimes := [0, 0], heldDb := [zCell (zHdr 0xC 0 2 0 0 0 0 1 0 0 false) 0] }

/-- The block at reset, with that port as near port 0. -/
def bringUpHoldsWrongCell : State := { State.reset with near := [holdsWrongCell] }

/-- A PARAM of an endpoint with the device's own credits, ROLE 1 and ECHO_VALID (Table 11.3). -/
def echoingParam : Cell := zLink 0 (setFld (paramPayload true 0 0 0) 8 1 1)

set_option maxRecDepth 4000 in
theorem echoingParam_accepted : cType echoingParam = 0xD ∧ zOp echoingParam = 0 ∧ paramOk echoingParam.payload = true ∧
    dbit echoingParam.payload 1 1 = true := by decide

/-- State of near port `n` in what a command leaves. -/
def portState (n : Nat) : Host.Outcome State Fault Refusal → Option Nat
  | .next t => some (getNear t n).state
  | _ => none

set_option maxRecDepth 200000 in
/-- The echo makes the port ACTIVE, the held cell is a protocol error there, and the reset it starts is the third of the second: the port
is DARK again. -/
theorem echoingParam_portState : portState 0 (exec (.zlinkParam 0 echoingParam 0) bringUpHoldsWrongCell) = some 0 := by decide

/-- Refutes O39, in its clause of an accepted PARAM: with the far end's echo the clause has the port ACTIVE whatever it holds back from
before. On `bringUpHoldsWrongCell` the port becomes ACTIVE, and the cell it holds takes it down within the command. A cell of another OP
than DOORBELL and PAGE_READY is never held by the model; only a state that has one tells. -/
theorem not_nearPortBringUp : ¬ Obligations.NearPortBringUp := by
  unfold Obligations.NearPortBringUp
  rintro ⟨-, -, -, -, -, -, param, -, -, -⟩
  have ready : bringUpHoldsWrongCell.Ready := by decide
  obtain ⟨kind, operation, acceptable, echoes⟩ := echoingParam_accepted
  obtain ⟨t, runs, -, active⟩ := param bringUpHoldsWrongCell 0 echoingParam 0 ready rfl kind ⟨rfl, rfl, rfl, rfl⟩ rfl operation acceptable
    (by decide)
  have dark := echoingParam_portState
  rw [runs, portState, (active echoes).1] at dark
  exact absurd dark (by decide)

end Sys2Proof.Machine
end

section
/-! PROOFS. Near ports: what an update of a port reads as, the arrival of ZLINK cells, and the start, the end and the timeout of a link
reset (R304, R318, R320, R324). -/

namespace Sys2Proof.Machine

/-! ## Reading a near port -/

section
variable {s : State} {n : Nat}

theorem getNear_modNear_same (present : n < s.near.length) (f : NearPort → NearPort) : getNear (modNear s n f) n = f (getNear s n) := by
  simp [getNear, modNear, lget, lmod, present]

theorem modNear_modNear (s : State) (n : Nat) (f g : NearPort → NearPort) : modNear (modNear s n f) n g = modNear s n fun p => g (f p) := by
  simp only [modNear, lmod, List.modify_modify_eq]
  rfl

theorem modNear_congr {f g : NearPort → NearPort} (same : f (getNear s n) = g (getNear s n)) : modNear s n f = modNear s n g := by
  have near : lmod s.near n f = lmod s.near n g := by
    apply List.ext_getElem?
    intro i
    by_cases here : n = i
    · subst here
      by_cases present : n < s.near.length
      · simpa [lmod, getNear, lget, present] using same
      · simp [lmod, Nat.le_of_not_lt present]
    · simp [lmod, here]
  simp only [modNear, near]

/-- A port the device does not have reads as one at reset. -/
theorem getNear_absent (absent : s.near.length ≤ n) : getNear s n = NearPort.reset := List.getD_eq_default _ _ absent

theorem present_of_active (active : (getNear s n).state = 4) : n < s.near.length := by
  by_contra absent
  rw [getNear_absent (Nat.le_of_not_lt absent)] at active
  exact absurd active (by decide)

end

/-! ## What counting a cell leaves of a port -/

/-- From `s` to `u` only counters, calibration and the credits of port `n` have moved. -/
abbrev State.Counted (s u : State) (n : Nat) : Prop :=
  s.OnlyState u ∧ u.time = s.time ∧ u.qps = s.qps ∧ u.xl = s.xl ∧ ∃ credits, getNear u n = { getNear s n with credits := credits }

theorem counted_of_near {s u : State} (only : s.OnlyState u) (time : u.time = s.time) (qps : u.qps = s.qps) (xl : u.xl = s.xl)
    (near : u.near = s.near) (n : Nat) : s.Counted u n :=
  ⟨only, time, qps, xl, (getNear s n).credits, by rw [getNear, near]; rfl⟩

/-- A good ZLINK cell, accounted for: the credits it brings, and the count of cells received (R304). -/
def zlinkTook (s : State) (n : Nat) (c : Cell) : State := bump (creditsBack s n c) (nearCnt n 1) 1

theorem zlinkTook_counted {s : State} {n : Nat} (present : n < s.near.length) (c : Cell) : s.Counted (zlinkTook s n c) n := by
  unfold zlinkTook creditsBack
  dsimp only
  split
  · exact ⟨⟨⟨rfl, rfl, rfl, rfl⟩, rfl, rfl, rfl, rfl⟩, rfl, rfl, rfl, _, getNear_modNear_same present _⟩
  · exact counted_of_near ⟨⟨rfl, rfl, rfl, rfl⟩, rfl, rfl, rfl, rfl⟩ rfl rfl rfl rfl n

/-- A cell error of cause 1 is an uncorrectable codeword, counted on the port and left out of the adaption of its two engines. -/
def cellErrorCounted (s : State) (n cause : Nat) : State :=
  if cause = 1 then [8 + 2 * n, 9 + 2 * n].foldl (fun s e => modEng s e fun g => { g with excluded := g.excluded + 1 })
    { bump s (nearCnt n 13) 1 with cals := lmod s.cals (8 + n) fun c => { c with uncorr := sat 65535 (c.uncorr + 1) } }
  else s

theorem cellErrorCounted_counted (s : State) (n cause : Nat) : s.Counted (cellErrorCounted s n cause) n := by
  unfold cellErrorCounted
  split
  · exact counted_of_near ⟨⟨rfl, rfl, rfl, rfl⟩, rfl, rfl, rfl, rfl⟩ rfl rfl rfl rfl n
  · exact counted_of_near ⟨⟨rfl, rfl, rfl, rfl⟩, rfl, rfl, rfl, rfl⟩ rfl rfl rfl rfl n

/-! ## The rows of arriving cells -/

section
variable {s : State} {n : Nat} {c : Cell}

theorem exec_zuquinIdle (ready : s.Ready) (named : wfNear n = true) (kind : cType c = 0) (takes : s.NearTakes n c) :
    exec (.zuquinIdle n c) s = .next (commitNow s ((s.nearTook n c).nearDone n c (getNear (s.nearTook n c) n).heldDb.length)) := by
  show execZuquinIdle n c s = _
  rw [execZuquinIdle, named, decide_eq_true kind, Bool.and_self, need_true, act_running s _ ready.1, nearTake_takes s n c _ takes]

/-- A good ZLINK cell of the row's OP, on an ACTIVE port, has its effect, in or out of a link reset (R300, R318). -/
theorem zlinkRow_good {op : Nat} (f : State → State) (ready : s.Ready) (named : wfNear n = true) (kind : cType c = 0xD)
    (live : (getNear s n).state = 4 ∧ (getNear s n).mode = 0) (good : c.crc = crc32c (cellBytes c.hdr c.payload) ∧ cellWrong c = false)
    (operation : zOp c = op) (known : op ≤ 3) :
    need (wfNear n && cType c = 0xD) (act s fun s => zlinkTake s n op c f) = .next (commitNow s (f (zlinkTook s n c))) := by
  obtain ⟨active, mode⟩ := live
  obtain ⟨crc, rules⟩ := good
  have taken : zlinkTake s n op c f = f (zlinkTook s n c) := by
    simp [zlinkTake, active, mode, ← crc, rules, operation, known, zlinkTook]
  rw [named, decide_eq_true kind, Bool.and_self, need_true, act_running s _ ready.1, taken]

/-! ## The start of a link reset (R318, R320) -/

/-- A reset of port `n` counts, and its stamp joins those of the second. -/
def resetCounted (s : State) (n : Nat) : State :=
  bump (modNear s n fun p => { p with
    resets := sat 255 (p.resets + 1), resetTimes := resetWindow (getNear s n).resetTimes s.now }) (nearCnt n 12) 1

/-- A link reset has begun on port `n`: it counts, what waited to be sent is discarded, and the next RESET_REQ would leave 64 slots on. -/
def resetBegun (s : State) (n cause : Nat) (asked : Bool) : State :=
  bump (modNear s n fun p => { p with
    resets := sat 255 (p.resets + 1), resetTimes := resetWindow p.resetTimes s.now, waitq := []
    lreset := some ⟨s.now, cause, false, false, asked, s.now + 192⟩ }) (nearCnt n 12) 1

theorem resetBegun_eq (s : State) (n cause : Nat) (asked : Bool) :
    modNear (resetCounted s n) n (fun p => { p with waitq := [], lreset := some ⟨s.now, cause, false, false, asked, s.now + 192⟩ }) =
      resetBegun s n cause asked :=
  congrArg (bump · (nearCnt n 12) 1) ((modNear_modNear s n _ _).trans (modNear_congr rfl))

section
variable (live : (getNear s n).state = 4 ∧ (getNear s n).mode = 0 ∧ (getNear s n).lreset = none)
include live

theorem nearReset_first (few : (resetWindow (getNear s n).resetTimes s.now).length < 3) (cause : Nat) (asked : Bool) :
    nearReset s n cause asked = if asked then resetBegun s n cause asked
      else emit (resetBegun s n cause asked) (.nearCell n (zLink 2 (BitVec.ofNat 512 cause))) := by
  obtain ⟨active, mode, idle⟩ := live
  simp only [nearReset, active, mode, idle]
  rw [if_neg (by decide), if_neg (Nat.not_le.2 few), ← resetBegun_eq]
  rfl

theorem nearReset_third (third : 3 ≤ (resetWindow (getNear s n).resetTimes s.now).length) (cause : Nat) (asked : Bool) :
    nearReset s n cause asked = nearDown (resetCounted s n) n := by
  obtain ⟨active, mode, idle⟩ := live
  simp only [nearReset, active, mode, idle]
  rw [if_neg (by decide), if_pos third]
  rfl

end

theorem exec_zuquinCellError {cause : Nat} (ready : s.Ready) (named : wfNear n = true) (known : 1 ≤ cause ∧ cause ≤ 3)
    (active : (getNear s n).state = 4) :
    exec (.zuquinCellError n cause) s = .next (commitNow s (nearReset (cellErrorCounted s n cause) n cause false)) := by
  have trained : (decide (cause = 1) && decide ((getNear s n).state ≥ 2)) = decide (cause = 1) := by simp [active]
  show execZuquinCellError n cause s = _
  rw [execZuquinCellError, named, decide_eq_true known.1, decide_eq_true known.2, Bool.and_self, Bool.and_self, need_true, act_running s _ ready.1]
  simp only [trained, decide_eq_true_eq]
  rfl

theorem exec_zlinkResetReq_idle (ready : s.Ready) (named : wfNear n = true) (kind : cType c = 0xD)
    (live : (getNear s n).state = 4 ∧ (getNear s n).mode = 0 ∧ (getNear s n).lreset = none)
    (good : c.crc = crc32c (cellBytes c.hdr c.payload) ∧ cellWrong c = false) (operation : zOp c = 2) :
    exec (.zlinkResetReq n c) s =
      .next (commitNow s (nearReset (zlinkTook s n c) n (max 1 (min 4 (dfld c.payload 0 0 8))) true)) := by
  obtain ⟨active, mode, idle⟩ := live
  obtain ⟨-, -, -, -, credits, port⟩ := zlinkTook_counted (present_of_active active) c
  have idle : (getNear (zlinkTook s n c) n).lreset = none := by rw [port]; exact idle
  show execZlinkResetReq n c s = _
  rw [execZlinkResetReq, zlinkRow_good _ ready named kind ⟨active, mode⟩ good operation (by decide)]
  simp only [idle]

/-! ## A port that goes down (R320) -/

@[simp] theorem eventAndCodex_near (s : State) (event code : Nat) (src : Source) (obj : Nat) (data : BitVec 352) :
    (eventAndCodex s event code src obj data).near = s.near := rfl
@[simp] theorem eventAndCodex_xl (s : State) (event code : Nat) (src : Source) (obj : Nat) (data : BitVec 352) :
    (eventAndCodex s event code src obj data).xl = s.xl := rfl
@[simp] theorem eventAndCodex_qps (s : State) (event code : Nat) (src : Source) (obj : Nat) (data : BitVec 352) :
    (eventAndCodex s event code src obj data).qps = s.qps := rfl

theorem getNear_nearDown (active : (getNear s n).state = 4) (lane : Nat) : getNear (nearDown s n lane) n = { getNear s n with
    state := 0, since := s.now, lreset := none, waitq := [], inUse := [0, 0, 0], credits := [0, 0, 0], paramRecv := false
    echoRecv := false, echoSent := false, downSeen := true, resetTimes := [] } := by
  rw [nearDown, if_neg (not_not_intro active), getNear, eventAndCodex_near]
  show getNear (modNear (nearDark s n) n fun p => { p with downSeen := true, resetTimes := [] }) n = _
  rw [nearDark, modNear_modNear, getNear_modNear_same (present_of_active active)]

theorem nearDown_kept (s : State) (n lane : Nat) : (nearDown s n lane).xl = s.xl ∧ (nearDown s n lane).qps = s.qps := by
  unfold nearDown
  split
  · split <;> exact ⟨rfl, rfl⟩
  · simp only [eventAndCodex_xl, eventAndCodex_qps, mark, nearDark, modCyc_xl, modCyc_qps, modNear_xl, modNear_qps, and_self]

/-- The third reset of the second takes the port down with the reset counted. -/
theorem resetCounted_down (active : (getNear s n).state = 4) :
    (getNear (nearDown (resetCounted s n) n) n).state = 0 ∧ (getNear (nearDown (resetCounted s n) n) n).downSeen = true ∧
      (getNear (nearDown (resetCounted s n) n) n).resets = sat 255 ((getNear s n).resets + 1) ∧
      (nearDown (resetCounted s n) n).qps = s.qps ∧ (nearDown (resetCounted s n) n).xl = s.xl := by
  have port : getNear (resetCounted s n) n = { getNear s n with
      resets := sat 255 ((getNear s n).resets + 1), resetTimes := resetWindow (getNear s n).resetTimes s.now } :=
    getNear_modNear_same (present_of_active active) _
  obtain ⟨xl, qps⟩ := nearDown_kept (resetCounted s n) n 0xFF
  rw [getNear_nearDown (by rw [port]; exact active), port]
  exact ⟨rfl, rfl, rfl, qps, xl⟩

/-! ## The end of a link reset (R318) -/

theorem resetEnd_some {r : NearReset} (resets : (getNear s n).lreset = some r) :
    resetEnd s n = if r.sentAck = true ∧ r.recvAck = true then nearResume s n else s := by
  simp only [resetEnd, resets, Bool.and_eq_true]

theorem exec_nptRxBuffersEmpty_first {r : NearReset} (ready : s.Ready) (named : wfNear n = true) (resets : (getNear s n).lreset = some r)
    (unsent : r.sentAck = false) (empty : (getNear s n).heldDb = []) :
    exec (.nptRxBuffersEmpty n) s = .next (commitNow s (settleAll (resetEnd (emit (modNear s n fun p => { p with
      lreset := some { r with sentAck := true } }) (.nearCell n (zLink 3 0))) n))) := by
  show execNptRxBuffersEmpty n s = _
  rw [execNptRxBuffersEmpty, named, need_true, act_running s _ ready.1]
  simp only [resets, unsent, empty, List.isEmpty_nil, Bool.not_true, Bool.or_self, Bool.false_eq_true, if_false]

theorem exec_zlinkResetAck_awaited {r : NearReset} (ready : s.Ready) (named : wfNear n = true) (kind : cType c = 0xD)
    (live : (getNear s n).state = 4 ∧ (getNear s n).mode = 0) (good : c.crc = crc32c (cellBytes c.hdr c.payload) ∧ cellWrong c = false)
    (operation : zOp c = 3) (resets : (getNear s n).lreset = some r) :
    exec (.zlinkResetAck n c) s = .next (commitNow s (settleAll (resetEnd (modNear (zlinkTook s n c) n fun p => { p with
      lreset := some { r with recvAck := true, heard := true } }) n))) := by
  obtain ⟨-, -, -, -, credits, port⟩ := zlinkTook_counted (present_of_active live.1) c
  have resets : (getNear (zlinkTook s n c) n).lreset = some r := by rw [port]; exact resets
  show execZlinkResetAck n c s = _
  rw [execZlinkResetAck, zlinkRow_good _ ready named kind live good operation (by decide)]
  simp only [resets]

end

/-- Settles O40: each row by its own lemma; a reset starts, or takes the port down, from the state in which the cell has been counted. -/
theorem nearLinkResets : Obligations.NearLinkResets := by
  unfold Obligations.NearLinkResets
  refine ⟨?idle, ?maint, ?first, ?third, ?emptied, ?acked, ?ended, ?timedOut, ?down⟩
  case idle => exact fun s n c => exec_zuquinIdle
  case maint => exact fun s n e c ready named kind live good operation => zlinkRow_good _ ready named kind live good operation (by decide)
  case first =>
    intro s u n cause asked i c ready named row live few counted
    have runs : exec i s = .next (commitNow s (nearReset u n cause asked)) ∧ s.Counted u n := by
      rcases row with ⟨low, high, rfl, rfl⟩ | ⟨⟨kind, crc, rules, operation⟩, rfl, rfl, rfl⟩
      · subst counted
        exact ⟨exec_zuquinCellError ready named ⟨low, high⟩ live.1, cellErrorCounted_counted s n cause⟩
      · subst counted
        exact ⟨exec_zlinkResetReq_idle ready named kind live ⟨crc, rules⟩ operation, zlinkTook_counted (present_of_active live.1) c⟩
    obtain ⟨runs, only, time, -, -, credits, port⟩ := runs
    have now : u.now = s.now := congrArg TimeUnit.gtc time
    have begun : ∀ asked, s.OnlyState (resetBegun u n cause asked) := fun _ => only.trans ⟨⟨rfl, rfl, rfl, rfl⟩, rfl, rfl, rfl, rfl⟩
    rw [runs, nearReset_first (by rw [port]; exact live) (by rw [port, now]; exact few), ← now]
    cases asked with
    | true => exact congrArg _ (commitNow_only ready.2 (begun true))
    | false => exact congrArg _ (commitNow_only ready.2 ((begun false).trans ⟨⟨rfl, rfl, rfl, rfl⟩, rfl, rfl, rfl, rfl⟩))
  case third =>
    intro s n cause i c ready named row live many present
    have runs : ∃ u cause asked, exec i s = .next (commitNow s (nearReset u n cause asked)) ∧ s.Counted u n := by
      rcases row with ⟨low, high, rfl⟩ | ⟨⟨kind, crc, rules, operation⟩, rfl⟩
      · exact ⟨_, _, _, exec_zuquinCellError ready named ⟨low, high⟩ live.1, cellErrorCounted_counted s n cause⟩
      · exact ⟨_, _, _, exec_zlinkResetReq_idle ready named kind live ⟨crc, rules⟩ operation, zlinkTook_counted present c⟩
    obtain ⟨u, cause, asked, runs, only, time, qps, xl, credits, port⟩ := runs
    have now : u.now = s.now := congrArg TimeUnit.gtc time
    rw [nearReset_third (by rw [port]; exact live) (by rw [port, now]; exact many)] at runs
    obtain ⟨down, seen, resets, sameQps, sameXl⟩ := resetCounted_down (s := u) (n := n) (by rw [port]; exact live.1)
    rw [port] at resets
    exact ⟨_, runs, down, seen, resets, sameQps.trans qps, sameXl.trans xl⟩
  case emptied =>
    intro s n r ready named resets waits
    exact exec_nptRxBuffersEmpty_first ready named resets waits.1 waits.2
  case acked => exact fun s n c r => exec_zlinkResetAck_awaited
  case ended => exact fun s n r resets _ => resetEnd_some resets
  case timedOut =>
    intro s n r running named resets reached
    have opened : closeAt s (.nearReset n) = some (.at (r.start + 320000)) := by simp only [closeAt, resets, Option.map_some]
    exact (congrArg (need · _) named).trans (closeCmd_at s (.nearReset n) _ running opened reached)
  case down =>
    intro s n active _
    obtain ⟨xl, qps⟩ := nearDown_kept s n 0xFF
    rw [getNear_nearDown active]
    exact ⟨rfl, rfl, rfl, rfl, xl, qps⟩

end Sys2Proof.Machine
end

section
/-! PROOFS. READ_DATA on a near port whose list of requests gives one number twice (R309, R310). -/

namespace Sys2Proof.Machine

/-- Request 1, a READ of one line under tag 0 for access 0, of which nothing has come yet. -/
def lineRead : NearReq :=
  { id := 1, tag := 0, sent := true, read := true, cls := 0, addr := 0, lines := 1, first := 0, last := 0, data := 0, poison := false,
    access := some 0, answered := [], got := [], poisoned := [], issued := 0, done := false }

/-- The access it serves, a read of a MOV job. -/
def lineAccess : Access :=
  { id := 0, who := .mov 0 0, source := 0, ctx := 0, seg := 0, va := 0, len := 64, write := false, data := [], poison := false, place := .near 0,
    addr := 0, fn := 0, pasid := none, xlatReq := false, fault := none, issued := true, left := 1, folio := 0, hostLines := [], dropped := false,
    result := none }

/-- The block at reset with three READs on near port 0: an older one under tag 8, which stays unanswered, that read, and one of four lines
under tags 4 to 7 that carries the number 1 as well and has its line 2. -/
def requestNumberTwice : State := { State.reset with
  near := [{ NearPort.reset with
    tags := [{ lineRead with id := 0, tag := 8, access := none }, lineRead, { lineRead with tag := 4, lines := 4, answered := [2] }] }]
  xl := { Xl.reset with accesses := [lineAccess] } }

/-- READ_DATA for tag 0. -/
def lineAnswer : Cell := zCell (zHdr 0xB 0 1 0 0 0 0 0 0 0 false) 0

/-- The offsets of the lines answered, request by request, on near port 0. -/
def answeredLines (s : State) : List (List Nat) := (getNear s 0).tags.map (·.answered)

/-- The line joins those answered of each request of its number. -/
theorem readData_requestNumberTwice_answered : answeredLines (readData requestNumberTwice 0 lineAnswer) = [[], [0], [0, 2]] := by decide

/-- Refutes O41, in its clause of READ_DATA for a one-line read: the clause leaves line 0 as the only line answered of every request that has
the read's number, and asks only of the read itself that none was answered before. On `requestNumberTwice` a second request of the number
keeps its line 2 in the model, and loses it in the clause. Only a list that gives a number twice tells the two apart. -/
theorem not_nearPortRequests : ¬ Obligations.NearPortRequests := by
  unfold Obligations.NearPortRequests
  rintro ⟨-, -, -, -, -, answers⟩
  obtain ⟨-, -, read⟩ := answers requestNumberTwice 0 0 lineAnswer lineRead lineAccess rfl rfl rfl ⟨rfl, rfl⟩
  have actual := readData_requestNumberTwice_answered
  rw [read rfl rfl rfl rfl rfl rfl rfl] at actual
  exact absurd actual (by decide)

end Sys2Proof.Machine
end

section
/-! PROOFS. A block that does not run, the device reset through DEV_RESET_N and GLB_CTL, power-on and the loss of power (R500, R506 to
R511, R518, R545, R546, R551, R552). -/

namespace Sys2Proof.Machine

/-! ## A block that does not run (R510, R518) -/

/-- The state stays exactly as it was, or the command is for a unit the part does not have. -/
def StaysOrStops (s : State) (o : Host.Outcome State Fault Refusal) : Prop :=
  o = .next s ∨ o = .refused .illFormed ∨ o = .fault .noSuchMemory

section
variable {s : State} (stopped : s.running = false)
include stopped

theorem act_stays (f : State → State) : StaysOrStops s (act s f) := .inl (act_stopped s f stopped)
theorem actTime_stays (f : State → State) : StaysOrStops s (actTime s f) := .inl (actTime_stopped s f stopped)
theorem barAct_stays (f : State → State) : StaysOrStops s (barAct s f) := act_stays stopped _
theorem bellAct_stays (f : State → State) : StaysOrStops s (bellAct s f) := act_stays stopped _
theorem mgrCmd_stays (d : Line) (f : State → State) : StaysOrStops s (mgrCmd s d f) := act_stays stopped _
theorem closeCmd_stays (w : Timed) : StaysOrStops s (closeCmd s w) := actTime_stays stopped _

end

section
variable {s : State} {o : Host.Outcome State Fault Refusal}

theorem need_stays (fits : Bool) (h : StaysOrStops s o) : StaysOrStops s (need fits o) := by
  cases fits
  · exact .inr (.inl rfl)
  · exact h

/-- A command for an HBM address or granule that may not exist. -/
theorem memory_stays (c : Prop) [Decidable c] (h : StaysOrStops s o) : StaysOrStops s (if c then o else .fault .noSuchMemory) := by
  split
  · exact h
  · exact .inr (.inr rfl)

theorem address_stays (c : Prop) [Decidable c] (h : StaysOrStops s o) : StaysOrStops s (if c then .fault .noSuchMemory else o) := by
  split
  · exact .inr (.inr rfl)
  · exact h

end

/-- Settles O6: every row outside the list goes by a wrapper that acts on a running block alone. -/
theorem aStoppedBlockIgnoresWork : Obligations.AStoppedBlockIgnoresWork := by
  unfold Obligations.AStoppedBlockIgnoresWork
  intro s c stopped unlisted
  change StaysOrStops s (exec c s)
  cases c <;> dsimp only [exec]
  -- the listed rows
  case powerOn | fallingSupply | devResetNAssert | devResetNRelease | glbCtlDeviceReset | refclkLoss | thermalWarning | thermalTrip
      | perstAssert | perstRelease | hotReset | pf0Flr | dlDown | dlUp | ideIntegrityFailure | configWrite | mgmtAlertResponse
      | hbmStackFailure | bridgeLoss | gtcCopyMismatch | controlStateUncorrectable | cxlMemRead | registerWrite | mgmtRegRead | mgmtRegWrite
      | codexWrite =>
    cases unlisted
  case bridgeWordError | granuleZeroFillDone | scrubRead => exact memory_stays _ (act_stays stopped _)
  case cxlMemWrite => exact address_stays _ (act_stays stopped _)
  case timFolioSizeWrite | latCfgWrite | optLEnableWrite | hdmDecoderCommit | mgrRingEnable | mgrRingDisable | journalClear =>
    exact barAct_stays stopped _
  case ctlRingEnable | ctlRingDisable | vfEnable | vfDisable | keyLoadDataWrite | keyGoLoad | keyGoZeroise | nptEnableWrite | nptModeWrite
      | nptResetReq | compatCounterRead =>
    exact need_stays _ (barAct_stays stopped _)
  case doorbellProducer | doorbellConsumer | doorbellConsumerArm => exact need_stays _ (bellAct_stays stopped _)
  case tickMonitorExpiry | folioSizeChange => exact actTime_stays stopped _
  case folioTick | rnrDelayExpiry | stashLifetimeExpiry => exact need_stays _ (actTime_stays stopped _)
  case descriptorRefetch | doorbellAheadWindowClose | interruptModerationClose | rootFailover | ppsOutPulse | ppsOutPulseEnd | epochOldRetire
      | promiseCheckTick | slotWaitExpiry | suspensionNoticeExpiry | bwWindowClose | faultWaiterTimeout =>
    exact closeCmd_stays stopped _
  case retxTimerExpiry | absorptionAgeing | nptStateTimeout | nptRetryTimer | linkResetTimeout | latStateTimeout | latRetryTimer
      | pauseTimerExpiry | pauseWatchdogExpiry | holdoffExpiry | xoffRefresh =>
    exact need_stays _ (closeCmd_stays stopped _)
  case gtcStep | qpCreate | qpModify | qpDestroy | qpPeerMove | regionRegister | regionInvalidate | latTableLoad | latEpochSwitch | schSetLoad
      | schSetActivate | schSetUnload | schFlowBind | counterReset | commCreate | commDestroy | engineJob | engineUnfence | chkSetDefine
      | nptWindowSet | ethPeerSet | ethFilterSet | biasSet | ctxCreate | ctxDestroy | segSet | segInvalidate | faultResume | dirtyLog
      | carrelStage | carrelDestroy | carrelSuspend | carrelResume | vfReset | carrelExport | carrelImport | allocDirty | schedCarrel | qpShape
      | cntCarrelDump | secOwnerBind | secSvnCommit | secCertInstall | fwStage | fwActivate | codexRead | codexClear =>
    exact mgrCmd_stays stopped _ _
  case dieBridgeTrained | hbmStacksTrained | firmwareStart | bootWatchdogExpiry | fwWatchdogExpiry | firmwareRestartDone | refAcquire | refLoss
      | refReturn | ppsInEdge | descriptorFetchResult | ringDestroyDone | regionInvalidateDone | latticeInjection | collectiveStageStart
      | sharedSlotGrant | sampleCapture | engineJobComplete | movReadReturn | signatureDone | ideKmKeyProg | completionTimeout
      | hostReadCompletion | hostSnoop | biasPageChange | cxlCacheResponse | prgResponse | segInvalidateDone | fwStageDone | pldmFwUpdate
      | spdmGetVersion | spdmGetCapabilities | spdmNegotiateAlgorithms | spdmGetDigests | spdmGetCertificate | spdmChallenge
      | spdmGetMeasurements | spdmKeyExchange | spdmFinish | spdmEndSession | spdmHeartbeat | spdmResponseNotReady | codexCheckpoint
      | mctpCodexRead =>
    exact act_stays stopped _
  -- every other row names a unit or a kind of cell or descriptor, and acts while the block runs
  all_goals exact need_stays _ (act_stays stopped _)

/-! ## The device reset (R508 to R510, R554) -/

section
variable {s : State} {v : W64} {f : State → State}

theorem powered_only {t : State} (up : s.Powered) (effect : f s = t) (only : s.StoreKept t) : powered s f = .next t := by
  obtain ⟨wlog, wipe, hbm, pending⟩ := only
  rw [powered_up s f up, effect, commit_plain s t (wlog.trans up.2.1) (wipe.trans up.2.2) hbm pending]

/-- Without rails nothing is powered; with them the effect that keeps the state leaves it. -/
theorem powered_same (quiet : s.quiet) (calm : s.calm) (effect : f s = s) : powered s f = .next s := by
  cases rails : s.pkg.rails
  · simp only [powered, rails, Bool.false_eq_true, if_false]
  · exact powered_only ⟨⟨rails, calm⟩, quiet⟩ effect ⟨rfl, rfl, rfl, rfl⟩

theorem exec_devResetNAssert (up : s.Powered) : exec .devResetNAssert s = .next (deviceReset s) :=
  powered_only (f := deviceReset) up rfl ⟨rfl, rfl, rfl, rfl⟩

theorem resetRelease_valid (clock : s.pkg.refclk = true) : resetRelease s = { s with
    pkg := { s.pkg with inReset := false, perstReset := false, fatalN := false, alertN := s.pkg.thermN } } := if_pos clock

/-- The release samples the straps and drives the outputs again (R506, R552). -/
theorem exec_devResetNRelease {mode test : Bool} {addr : BitVec 2} (up : s.Powered) (clock : s.pkg.refclk = true)
    (held : s.pkg.inReset = true) (own : s.pkg.perstReset = false) : exec (.devResetNRelease mode addr test) s = .next { s with
      pkg := { s.pkg with
        mgmtMode := mode, addrSel := addr, testMode := test, inReset := false, perstReset := false, fatalN := false, alertN := s.pkg.thermN } } := by
  show execDevResetNRelease mode addr test s = _
  have acts : ¬ (!s.pkg.inReset || s.pkg.perstReset || !s.pkg.refclk) = true := by simp [held, own, clock]
  refine powered_only up ?_ ⟨rfl, rfl, rfl, rfl⟩
  rw [if_neg acts]
  exact resetRelease_valid clock

/-- The key of GLB_CTL with DEVICE_RESET (R509). -/
abbrev resets (v : W64) : Prop := fld v 0 8 = 0xD5 ∧ bitAt v 8 = true

theorem not_resets (other : fld v 0 8 ≠ 0xD5 ∨ bitAt v 8 = false) : (decide (fld v 0 8 = 0xD5) && bitAt v 8) = false := by
  rcases other with key | bit
  · rw [decide_eq_false key, Bool.false_and]
  · rw [bit, Bool.and_false]

theorem glbWrite_ctl (keyed : resets v) : glbWrite s 0x28 v = resetRelease (deviceReset s) := by
  simp only [glbWrite, keyed, decide_true, Bool.and_self, if_true]

theorem glbWrite_ctl_ignored (other : fld v 0 8 ≠ 0xD5 ∨ bitAt v 8 = false) : glbWrite s 0x28 v = s := by
  simp only [glbWrite, not_resets other, Bool.false_eq_true, if_false]

/-- GLB_CTL on a powered block out of reset and of test mode acts as a write of its register. -/
theorem exec_glbCtlDeviceReset (up : s.Powered) (free : s.pkg.inReset = false) (live : s.pkg.testMode = false) (keyed : resets v) :
    exec (.glbCtlDeviceReset v) s = .next (resetRelease (deviceReset s)) := by
  have kept : s.StoreKept (resetRelease (deviceReset s)) := by unfold resetRelease; split <;> exact ⟨rfl, rfl, rfl, rfl⟩
  show execGlbCtlDeviceReset v s = _
  refine powered_only up ?_ kept
  simp only [free, live, keyed, ne_eq, not_true_eq_false, decide_false, Bool.not_true, Bool.or_self, Bool.false_eq_true, if_false]

theorem exec_glbCtlDeviceReset_ignored (quiet : s.quiet) (calm : s.calm) (other : fld v 0 8 ≠ 0xD5 ∨ bitAt v 8 = false) :
    exec (.glbCtlDeviceReset v) s = .next s := by
  show execGlbCtlDeviceReset v s = _
  refine powered_same quiet calm ?_
  have refused : (s.pkg.inReset || s.pkg.testMode || decide (fld v 0 8 ≠ 0xD5) || !bitAt v 8) = true := by
    rcases other with key | bit
    · simp [key]
    · simp [bit]
  rw [if_pos refused]

end

/-! ## GLB_CTL over the buses (R509, R535) -/

section
variable {s : State} {v : W64}

theorem powered_of_alive (up : s.Alive) : s.Powered ∧ s.pkg.refclk = true ∧ s.pkg.inReset = false ∧ s.pkg.testMode = false := by
  obtain ⟨⟨live, calm⟩, quiet⟩ := up
  simp only [alive, Bool.and_eq_true, Bool.not_eq_true'] at live
  obtain ⟨⟨⟨rails, clock⟩, free⟩, noTest⟩ := live
  exact ⟨⟨⟨rails, calm⟩, quiet⟩, clock, free, noTest⟩

theorem mgmtWrite_glbCtl : mgmtWrite s 0x100028 v true = glbWrite s 0x28 v := rfl

theorem blockWrite_glbCtl : blockWrite s 0x10 0x28 v = glbWrite s 0x28 v := by
  show glbWrite s 0x28 (unmarked s 0x100028 v) = _
  rw [unmarked_of_no_w1c s _ v (by decide)]

/-- PF0's BAR reaches GLB in the fatal state too (R518). -/
theorem barWrite_glbCtl (up : barUp s = true) (done : s.glb.initDone = true) : barWrite s 0 0x100028 8 v = glbWrite s 0x28 v := by
  have glb : fatalBlock 0x100028 = true := by decide
  simp only [barWrite, up, done, glb, decide_true, Bool.and_self, Bool.not_true, Bool.or_self, Bool.and_false, Bool.false_eq_true, if_false,
    if_true]
  exact (bar0Write_block s 0x100028 v (by decide) (by decide)).trans blockWrite_glbCtl

theorem barWrite_glbCtl_ignored (other : fld v 0 8 ≠ 0xD5 ∨ bitAt v 8 = false) : barWrite s 0 0x100028 8 v = s := by
  by_cases reached : barUp s = true ∧ s.glb.initDone = true
  · rw [barWrite_glbCtl reached.1 reached.2, glbWrite_ctl_ignored other]
  · refine barWrite_unreachable s 0 0x100028 8 v ?_
    simpa only [Bool.not_eq_true, not_and_or] using reached

/-- A VF's BAR has neither doorbell nor table at the offset of GLB_CTL (R423). -/
theorem barWrite_vf_glbCtl {n : Nat} (vf : n ≠ 0) : barWrite s n 0x100028 8 v = s ∨ barWrite s n 0x100028 8 v = badBell s n := by
  unfold barWrite
  split
  · exact .inl rfl
  unfold vfBarWrite
  split
  · exact .inr rfl
  · exact .inl rfl

end

/-- Settles O7: the write acts through each of its three ways as `glbWrite`, which resets and releases at once. -/
theorem glbCtlActsAsDeviceReset : Obligations.GlbCtlActsAsDeviceReset := by
  unfold Obligations.GlbCtlActsAsDeviceReset
  refine ⟨?keyed, ?other, ?vf⟩
  case keyed =>
    intro s v up keyed
    obtain ⟨powered, clock, free, live⟩ := powered_of_alive up
    have release := resetRelease_valid (s := deviceReset s) clock
    have kept : s.StoreKept (resetRelease (deviceReset s)) := by rw [release]; exact ⟨rfl, rfl, rfl, rfl⟩
    have written : ∀ {t}, t = glbWrite s 0x28 v → t = resetRelease (deviceReset s) := fun h => h.trans (glbWrite_ctl keyed)
    refine ⟨deviceReset s, resetRelease (deviceReset s), exec_devResetNAssert powered, ?_, rfl, by rw [release]; rfl,
      exec_glbCtlDeviceReset powered free live keyed, ?_, fun bar done => ?_⟩
    · have held : (deviceReset s).Powered := ⟨⟨powered.1.1, by simp [State.calm, State.running, deviceReset]⟩, powered.2⟩
      rw [release]
      exact exec_devResetNRelease held clock rfl rfl
    · exact exec_mgmtRegWrite_eq s _ 0x100028 v true up (written mgmtWrite_glbCtl) kept
    · exact exec_registerWrite_eq s _ 0 0x100028 8 v up (by decide) (by decide) (by decide) (written (barWrite_glbCtl bar done)) kept
  case other =>
    intro s v up other i row
    obtain ⟨⟨⟨-, calm⟩, quiet⟩, -⟩ := powered_of_alive up
    simp only [List.mem_cons, List.not_mem_nil, or_false] at row
    rcases row with rfl | rfl | rfl
    · exact exec_glbCtlDeviceReset_ignored quiet calm other
    · exact exec_mgmtRegWrite_eq s s 0x100028 v true up (glbWrite_ctl_ignored other) ⟨rfl, rfl, rfl, rfl⟩
    · exact exec_registerWrite_eq s s 0 0x100028 8 v up (by decide) (by decide) (by decide) (barWrite_glbCtl_ignored other) ⟨rfl, rfl, rfl, rfl⟩
  case vf =>
    intro s n v up named
    have vf : n ≠ 0 ∧ wfFn n = true := by
      simp only [wfVf, wfFn, Bool.and_eq_true, decide_eq_true_eq] at named ⊢
      omega
    rcases barWrite_vf_glbCtl (s := s) (v := v) vf.1 with same | bell
    · exact ⟨s, exec_registerWrite_eq s s n 0x100028 8 v up vf.2 (by decide) (by decide) same ⟨rfl, rfl, rfl, rfl⟩, rfl, rfl, rfl, rfl⟩
    · exact ⟨badBell s n, exec_registerWrite_eq s _ n 0x100028 8 v up vf.2 (by decide) (by decide) bell ⟨rfl, rfl, rfl, rfl⟩, rfl, rfl, rfl, rfl⟩

/-! ## Power (R500, R506, R545, R546) -/

/-- Every block restarted by POWER_ON, before the codex resumes. -/
def poweredUp (s : State) : State := { deviceReset s with
  pkg := { Pkg.reset with inReset := true, perst := s.pkg.perst }, wipe := List.range 288, hbm := ⟨[], []⟩ }

theorem poweredUp_wipe (s : State) : (poweredUp s).wipe = List.range 288 := by simp only [poweredUp]

/-- Resuming moves the codex and its counter alone (R500). -/
theorem codexResume_moves (s : State) : ∃ codex cnt, codexResume s = { s with codex := codex, cnt := cnt } := ⟨_, _, rfl⟩

theorem execPowerOn_eq {s : State} (off : s.pkg.rails = false) : exec .powerOn s = .next (commit s (codexResume (poweredUp s))) := by
  show execPowerOn s = _
  simp only [execPowerOn, off, Bool.false_eq_true, if_false]
  rfl

/-- The POWER_LOSS record (R500). -/
def lossRecord (s : State) : CodexRec := ⟨s.now, 0x3FF, 0x02, 0xFF, false, false, 0, 0, 0⟩

section
variable {s : State} (released : s.codex.queue = []) (handed : s.codex.handed = [])
include released handed

/-- With nothing waiting POWER_LOSS is the one record the charge writes (R500). -/
theorem codexPowerLoss_alone : codexPowerLoss s = modCodex (codexPut (codexDrain s) (lossRecord s)) fun c => { c with
    resumed := false, queue := [], lost := 0 } := by
  have alone : (codexDrain s).codex.queue = [] := by rw [codexDrain, modCodex, released, handed]; rfl
  unfold codexPowerLoss
  simp only [alone]
  rfl

theorem codexPowerLoss_codex : (codexPowerLoss s).codex = { s.codex with
    handed := [], queue := [], resumed := false, lost := 0
    first := if goesFirst (codexDrain s) (lossRecord s) then s.codex.first ++ [written (codexDrain s) (lossRecord s)] else s.codex.first
    ring := if goesFirst (codexDrain s) (lossRecord s) then s.codex.ring
      else (written (codexDrain s) (lossRecord s) :: s.codex.ring).take 520192
    ringPos := if goesFirst (codexDrain s) (lossRecord s) then s.codex.ringPos
      else if s.codex.ringPos + 1 = 524288 then 4096 else s.codex.ringPos + 1
    nextSeq := (s.codex.nextSeq + 1) % 2 ^ 32, lastChain := (written (codexDrain s) (lossRecord s)).chain } := by
  rw [codexPowerLoss_alone released handed, modCodex_codex, codexPut_codex]
  rfl

end

/-- The end of a falling supply: the reset block without its rails. -/
def poweredDown (s : State) : State :=
  { deviceReset (codexPowerLoss s) with
    pkg := { (deviceReset (codexPowerLoss s)).pkg with rails := false, fatalN := false, thermN := false } }

theorem exec_fallingSupply {s : State} (up : s.Powered) (released : s.codex.queue = []) (handed : s.codex.handed = []) :
    exec .fallingSupply s = .next (poweredDown s) := by
  have lost := codexPowerLoss_alone released handed
  exact powered_only (f := poweredDown) up rfl (by unfold poweredDown; rw [lost]; exact ⟨rfl, rfl, rfl, rfl⟩)

/-- Settles O11: each reset by the state it leaves; the power events move the codex beside it. -/
theorem powerAndDeviceReset : Obligations.PowerAndDeviceReset := by
  unfold Obligations.PowerAndDeviceReset
  refine ⟨?on, ?off, ?asserted, ?keyed, ?other, ?released⟩
  case on =>
    intro s noRails quiet
    have zero : ∀ a, a < hbmSize → (commit s (codexResume (poweredUp s))).byte a = 0 := by
      intro a inside
      have wiped : (List.range 288).contains (a / 2 ^ 30) = true := by
        rw [List.contains_iff_mem, List.mem_range]
        unfold hbmSize at inside
        omega
      obtain ⟨codex, cnt, resumed⟩ := codexResume_moves (poweredUp s)
      have unwritten : (codexResume (poweredUp s)).wlog = [] := by rw [resumed]; exact quiet.1
      have all : (codexResume (poweredUp s)).wipe = List.range 288 := by simp only [resumed, poweredUp_wipe]
      rw [commit_byte s _ a unwritten, all, if_pos wiped]
    exact ⟨_, execPowerOn_eq noRails, rfl, rfl, zero, rfl, rfl, rfl, rfl, rfl, rfl, rfl, rfl, rfl, rfl, rfl, rfl, rfl⟩
  case off =>
    intro s up _ released handed room
    have first : goesFirst (codexDrain s) (lossRecord s) = true := by
      rw [goesFirst, Bool.and_eq_true, decide_eq_true_eq]
      exact ⟨(by decide : firstFaultCodes.contains 0x02 = true), room⟩
    have codex := codexPowerLoss_codex released handed
    rw [if_pos first, if_pos first] at codex
    have held : (poweredDown s).codex.first = s.codex.first ++ [written (codexDrain s) (lossRecord s)] := congrArg (·.first) codex
    refine ⟨_, exec_fallingSupply up released handed, rfl, ?_, ?_, ?_, ?_, ?_, rfl, rfl, rfl, rfl⟩
    · exact congrArg (·.resumed) codex
    · exact congrArg (·.nextSeq) codex
    · rw [held, List.dropLast_concat]
    · rw [held, List.getLast?_concat]; rfl
    · exact congrArg (·.ring) codex
  case asserted =>
    intro s up
    exact ⟨_, exec_devResetNAssert up, rfl, up.1.1, rfl, rfl, rfl, rfl, rfl, rfl, rfl, rfl, rfl, rfl, rfl, rfl, rfl, rfl, rfl, rfl, rfl, rfl, rfl,
      rfl, rfl, rfl, rfl, rfl, rfl, rfl, rfl⟩
  case keyed =>
    intro s v up clock free live key bit
    have release := resetRelease_valid (s := deviceReset s) clock
    refine ⟨_, exec_glbCtlDeviceReset up free live ⟨key, bit⟩, ?_⟩
    rw [release]
    exact ⟨rfl, rfl, rfl, rfl, rfl, rfl, rfl, rfl, rfl, rfl, rfl, rfl, rfl, rfl, rfl, rfl, rfl⟩
  case other => exact fun s v at_ other => exec_glbCtlDeviceReset_ignored at_.1 at_.2 other
  case released => exact fun s mode addr test up clock held own => exec_devResetNRelease up clock held own

end Sys2Proof.Machine
end

section
/-! PROOFS. The warning pins, bridge words that fail, and structures lost on die (R511, R515, R516, R548, R554). -/

namespace Sys2Proof.Machine

/-! ## The pins (R548, R554) -/

section
variable {s : State}

theorem thermal_eq (die hbm : Int) : thermal s die hbm = if die ≥ 100 ∨ hbm ≥ 95 then
      { s with pkg := { s.pkg with thermN := true, alertN := s.pkg.alertN || (!s.pkg.thermN && !s.pkg.inReset) } }
    else if die < 95 ∧ hbm < 90 then { s with pkg := { s.pkg with thermN := false } } else s := by
  simp only [thermal, Bool.or_eq_true, Bool.and_eq_true, decide_eq_true_eq]

theorem exec_thermalWarning (die hbm : Int) (up : s.Powered) : exec (.thermalWarning die hbm) s = .next (if die ≥ 100 ∨ hbm ≥ 95 then
      { s with pkg := { s.pkg with thermN := true, alertN := s.pkg.alertN || (!s.pkg.thermN && !s.pkg.inReset) } }
    else if die < 95 ∧ hbm < 90 then { s with pkg := { s.pkg with thermN := false } } else s) := by
  refine powered_only (f := fun s => thermal s die hbm) up (thermal_eq die hbm) ?_
  split
  · exact ⟨rfl, rfl, rfl, rfl⟩
  split <;> exact ⟨rfl, rfl, rfl, rfl⟩

theorem exec_mgmtAlertResponse (up : s.Powered) (alert : s.pkg.alertN = true) (free : s.pkg.inReset = false) :
    exec .mgmtAlertResponse s = .next { s with
      pkg := { s.pkg with alertN := false, mctpPending := false }, outbox := s.outbox ++ [.alertAddress] } := by
  show execMgmtAlertResponse s = _
  refine powered_only up ?_ ⟨rfl, rfl, rfl, rfl⟩
  simp only [alert, free, Bool.not_false, Bool.and_self, if_true, emit]

end

/-! ## Bridge words (R511, R516) -/

/-- The 1 ms window of bridge errors is not open: the next error opens it (R516). -/
def bridgeFresh (s : State) : Bool :=
  match s.glb.bridgeWin with
  | some g => decide (g + 16000000 ≤ s.now)
  | none => true

/-- An uncorrectable word, with its cell or line lost, reported and counted. -/
def bridgeCounted (s : State) (line : Option Nat) (fresh : Bool) (count : Nat) : State := { s with
  lat := if line.isNone then { s.lat with drops := s.lat.drops + 1 } else s.lat
  cyc := { s.cyc with bridged := line.toList ++ s.cyc.bridged }
  glb := { s.glb with bridgeWin := if fresh then some s.now else s.glb.bridgeWin, bridgeCount := count }, outbox := s.outbox ++ [.aer 1] }

section
variable {s : State} {line : Option Nat}

theorem ite_only {t u : State} (c : Prop) [Decidable c] (h : s.OnlyState t) (k : s.OnlyState u) : s.OnlyState (if c then t else u) := by
  split
  · exact h
  · exact k

theorem aerCorrected_only : s.OnlyState (aerCorrected s) :=
  ite_only _ ⟨⟨rfl, rfl, rfl, rfl⟩, rfl, rfl, rfl, rfl⟩ ⟨⟨rfl, rfl, rfl, rfl⟩, rfl, rfl, rfl, rfl⟩

theorem exec_bridgeWordError {corrected : Bool} (named : ∀ l, line = some l → wfLine l = true) : exec (.bridgeWordError corrected line) s =
    act s fun s => if corrected then aerCorrected (bump s (devCnt 4) 1) else bridgeBad s line := by
  show execBridgeWordError corrected line s = _
  cases line with
  | none => rfl
  | some l => exact if_pos (named l rfl)

theorem bridgeBad_eq : bridgeBad s line =
    if max 1 (fld s.glb.errCfg 8 8) ≤ (if bridgeFresh s then 1 else s.glb.bridgeCount + 1)
    then goFatal (bridgeCounted s line (bridgeFresh s) (if bridgeFresh s then 1 else s.glb.bridgeCount + 1)) 2 0x3FF
    else bridgeCounted s line (bridgeFresh s) (if bridgeFresh s then 1 else s.glb.bridgeCount + 1) := by
  cases line <;> rfl

theorem bridgeCounted_only (fresh : Bool) (count : Nat) : s.OnlyState (bridgeCounted s line fresh count) :=
  ⟨⟨rfl, rfl, rfl, rfl⟩, rfl, rfl, rfl, rfl⟩

theorem not_fatal_of_running (running : s.running = true) : s.glb.fatal = false := by
  simp only [State.running, Bool.and_eq_true, Bool.not_eq_true'] at running
  exact running.2

/-- The error that reaches BRIDGE_LIMIT is fatal (R516, R517). -/
theorem act_goFatal {f : State → State} {u : State} {cause : Nat} {src : Source} (ready : s.Ready) (effect : f s = goFatal u cause src)
    (first : u.glb.fatal = false) : ∃ t, act s f = .next t ∧ t.glb.fatal = true ∧ t.glb.fatalCause = cause ∧ t.glb.fatalStamp = u.now ∧
      t.pkg.fatalN = true := by
  obtain ⟨fatal, named⟩ := commit_goFatal s u cause src
  obtain ⟨causes, -, stamp, -, pin, -⟩ := named first
  exact ⟨commitNow s (goFatal u cause src), (act_running s f ready.1).trans (by rw [effect]), fatal, causes, stamp, pin⟩

end

/-! ## Structures on die (R515) -/

section
variable {s : State} {code obj : Nat}

theorem exec_ondieUncorrectable (ready : s.Ready) (named : 1 ≤ code ∧ code ≤ 11) :
    exec (.ondieUncorrectable code obj) s = .next (commitNow s (structLost s code obj)) := by
  have known : (decide (1 ≤ code) && decide (code ≤ 11)) = true := by rw [decide_eq_true named.1, decide_eq_true named.2, Bool.and_self]
  show need _ (act s fun s => structLost s code obj) = _
  rw [known, need_true, act_running s _ ready.1]

/-- With no access in progress the record and the report are all that follows the loss. -/
theorem structLost_still {u : State} (ready : s.Ready) (named : 1 ≤ code ∧ code ≤ 11) (lost : structLost s code obj = settleAll u)
    (still : s.Still) (xl : u.xl = s.xl) (near : u.near = s.near) (placed : u.cyc.placed = s.cyc.placed) (only : s.OnlyState u) :
    exec (.ondieUncorrectable code obj) s = .next u := by
  rw [exec_ondieUncorrectable ready named, lost, settle_same s u still xl near placed, commitNow_only ready.2 only]

end

/-- Settles O15: each pin by its thresholds, a bridge word by what it counts to, a lost structure by its code. -/
theorem errorReportsAndPins : Obligations.ErrorReportsAndPins := by
  unfold Obligations.ErrorReportsAndPins
  refine ⟨?warning, ?alert, ?corrected, ?counted, ?fatal, ?lost, ?alone, ?unknown⟩
  case warning => exact fun s die hbm up => exec_thermalWarning die hbm up
  case alert => exact fun s up alert free => exec_mgmtAlertResponse up alert free
  case corrected =>
    intro s line ready named
    rw [exec_bridgeWordError named]
    exact act_only ready (if_pos rfl) (State.OnlyState.trans ⟨⟨rfl, rfl, rfl, rfl⟩, rfl, rfl, rfl, rfl⟩ aerCorrected_only)
  case counted =>
    rintro s line _ _ ready named rfl rfl few
    rw [exec_bridgeWordError named]
    refine act_only ready ?_ (bridgeCounted_only (bridgeFresh s) _)
    exact bridgeBad_eq.trans (if_neg (Nat.not_le.2 few))
  case fatal =>
    rintro s line _ _ ready named rfl rfl many
    rw [exec_bridgeWordError named]
    exact act_goFatal (u := bridgeCounted s line (bridgeFresh s) _) ready (bridgeBad_eq.trans (if_pos many)) (not_fatal_of_running ready.1.1)
  case lost =>
    intro s code obj ready named
    rw [exec_ondieUncorrectable ready named]
    obtain ⟨low, high⟩ := named
    interval_cases code <;> rfl
  case alone =>
    rintro s code obj ready still (rfl | rfl)
    · exact structLost_still ready (by decide) rfl still rfl rfl rfl ⟨⟨rfl, rfl, rfl, rfl⟩, rfl, rfl, rfl, rfl⟩
    · exact structLost_still ready (by decide) rfl still rfl rfl rfl ⟨⟨rfl, rfl, rfl, rfl⟩, rfl, rfl, rfl, rfl⟩
  case unknown =>
    intro s code obj named
    have unknown : (decide (1 ≤ code) && decide (code ≤ 11)) = false := by
      rw [Bool.and_eq_false_iff, decide_eq_false_iff_not, decide_eq_false_iff_not]
      omega
    show need _ (act s fun s => structLost s code obj) = _
    rw [unknown, need_false]

end Sys2Proof.Machine
end

section
/-! PROOFS. OPT_CFG and the bring-up of a lattice port: its states up to ATTEST, their timeouts and the retry (R333 to R336, R487). -/

namespace Sys2Proof.Machine

/-! ## Reading an element of a fixed table -/

theorem lget_lmod_same {α : Type} {l : List α} {i : Nat} (present : i < l.length) (f : α → α) (d : α) :
    lget (lmod l i f) i d = f (lget l i d) := by
  simp [lget, lmod, List.getD_eq_getElem?_getD, present]

theorem lget_lmod_other {α : Type} {i j : Nat} (l : List α) (other : i ≠ j) (f : α → α) (d : α) : lget (lmod l i f) j d = lget l j d := by
  simp [lget, lmod, List.getD_eq_getElem?_getD, other]

section
variable {s : State} {p q : Nat}

theorem getLat_modPort_same (present : p < s.lports.length) (f : LatPort → LatPort) : getLat (modPort s p f) p = f (getLat s p) :=
  lget_lmod_same present f LatPort.reset

theorem getLat_modPort_other (other : q ≠ p) (f : LatPort → LatPort) : getLat (modPort s q f) p = getLat s p :=
  lget_lmod_other s.lports other f LatPort.reset

theorem getLat_latDark_same (present : p < s.lports.length) : getLat (latDark s p) p = { getLat s p with
    state := 0, since := s.now, wait := true, lag := 0, ready := false, near64 := 0, loadSt := 0, nonce := none, farNonce := none
    chain := none, resp := none, far := none, linkq := [], pairs := [], mean := none, checked := none, attested := none, uncWin := none
    uncCount := 0 } := getLat_modPort_same (s := modSched (modSec s _) _) present _

theorem getLat_latDark_other (other : q ≠ p) : getLat (latDark s q) p = getLat s p := getLat_modPort_other (s := modSched (modSec s _) _) other _

end

/-! ## A write of OPT_CFG (R333, R338) -/

/-- What a write `v` over `old` does to one port. -/
def optPort (old v : W64) (s : State) (p : Nat) : State :=
  if bitAt old p && !bitAt v p then
    if (getLat s p).state = 5 then modCyc s fun c => { c with darken := c.darken ++ [p] }
    else modPort (if (getLat s p).state = 0 then s else latDark s p) p fun x => { x with wait := false }
  else if !bitAt old p && bitAt v p then
    modPort s p fun x => { x with wait := false, damped := false, downs := if x.damped then [] else x.downs }
  else s

theorem optWrite_eq (s : State) (v : W64) :
    optWrite s v = (List.range 8).foldl (optPort s.optCfg v) { s with optCfg := v &&& 0x7F00FF } := rfl

/-- `t` is `s` but for ports other than `p`: OPT_CFG, port `p`, and that it is to go dark, stand as they were. -/
def PortKept (p : Nat) (s t : State) : Prop :=
  t.optCfg = s.optCfg ∧ getLat t p = getLat s p ∧ t.lports.length = s.lports.length ∧ (p ∈ s.cyc.darken → p ∈ t.cyc.darken)

theorem PortKept.trans {p : Nat} {s t u : State} (h : PortKept p s t) (k : PortKept p t u) : PortKept p s u := by
  obtain ⟨cfg, port, length, dark⟩ := h
  obtain ⟨cfg', port', length', dark'⟩ := k
  exact ⟨cfg'.trans cfg, port'.trans port, length'.trans length, dark' ∘ dark⟩

section
variable {s : State} {old v : W64} {p q : Nat}

theorem modPort_kept (other : q ≠ p) (f : LatPort → LatPort) : PortKept p s (modPort s q f) :=
  ⟨rfl, getLat_modPort_other other f, List.length_modify .., id⟩

theorem latDark_kept (other : q ≠ p) : PortKept p s (latDark s q) := ⟨rfl, getLat_latDark_other other, List.length_modify .., id⟩

theorem optPort_kept (other : q ≠ p) : PortKept p s (optPort old v s q) := by
  have same : PortKept p s s := ⟨rfl, rfl, rfl, id⟩
  unfold optPort
  split
  · split
    · exact ⟨rfl, rfl, rfl, List.mem_append_left _⟩
    split
    · exact modPort_kept other _
    · exact (latDark_kept other).trans (modPort_kept other _)
  split
  · exact modPort_kept other _
  · exact same

theorem foldl_optPort_kept {ports : List Nat} (others : p ∉ ports) : PortKept p s (ports.foldl (optPort old v) s) := by
  induction ports generalizing s with
  | nil => exact ⟨rfl, rfl, rfl, id⟩
  | cons q ports ih =>
    rw [List.mem_cons, not_or] at others
    exact (optPort_kept (Ne.symm others.1)).trans (ih others.2)

/-- Port `p` sees of the write what the write does to it alone. -/
theorem optWrite_port (named : p < 8) : ∃ u, PortKept p { s with optCfg := v &&& 0x7F00FF } u ∧
    PortKept p (optPort s.optCfg v u p) (optWrite s v) := by
  obtain ⟨before, after, ports⟩ := List.append_of_mem (List.mem_range.2 named)
  have once := ports ▸ List.nodup_range (n := 8)
  rw [List.nodup_append, List.nodup_cons] at once
  obtain ⟨-, ⟨notAfter, -⟩, disjoint⟩ := once
  have notBefore : p ∉ before := fun among => disjoint p among p (List.mem_cons_self ..) rfl
  rw [optWrite_eq, ports, List.foldl_append, List.foldl_cons]
  exact ⟨_, foldl_optPort_kept notBefore, foldl_optPort_kept notAfter⟩

/-! ### The port by its bit -/

@[simp] theorem modPort_optCfg (f : LatPort → LatPort) : (modPort s p f).optCfg = s.optCfg := rfl
@[simp] theorem latDark_optCfg : (latDark s p).optCfg = s.optCfg := rfl

theorem optPort_optCfg : (optPort old v s p).optCfg = s.optCfg := by
  unfold optPort
  split
  · split
    · rfl
    · rw [modPort_optCfg]
      split
      · rfl
      · rw [latDark_optCfg]
  split
  · rw [modPort_optCfg]
  · rfl

theorem optPort_same (same : bitAt old p = bitAt v p) : optPort old v s p = s := by
  unfold optPort
  rw [same]
  cases bitAt v p <;> rfl

theorem optPort_cleared (was : bitAt old p = true) (cleared : bitAt v p = false) : optPort old v s p =
    if (getLat s p).state = 5 then modCyc s fun c => { c with darken := c.darken ++ [p] }
    else modPort (if (getLat s p).state = 0 then s else latDark s p) p fun x => { x with wait := false } := by
  simp only [optPort, was, cleared, Bool.not_false, Bool.and_self, if_true]

theorem optPort_set (was : bitAt old p = false) (set : bitAt v p = true) : optPort old v s p =
    modPort s p fun x => { x with wait := false, damped := false, downs := if x.damped then [] else x.downs } := by
  simp only [optPort, was, set, Bool.not_true, Bool.and_self, Bool.false_eq_true, if_false, Bool.not_false, if_true]

/-- A port that is not ACTIVE goes dark at once, with no retry pending. -/
theorem optPort_dark (present : p < s.lports.length) (was : bitAt old p = true) (cleared : bitAt v p = false)
    (inactive : (getLat s p).state ≠ 5) : (getLat (optPort old v s p) p).state = 0 ∧ (getLat (optPort old v s p) p).wait = false := by
  rw [optPort_cleared was cleared, if_neg inactive]
  by_cases dark : (getLat s p).state = 0
  · rw [if_pos dark, getLat_modPort_same present]
    exact ⟨dark, rfl⟩
  · rw [if_neg dark, getLat_modPort_same ((List.length_modify ..).symm ▸ present), getLat_latDark_same present]
    exact ⟨rfl, rfl⟩

end

/-! ## Bring-up (R333, R334) -/

section
variable {s : State} {p : Nat}

theorem modPort_only (s : State) (p : Nat) (f : LatPort → LatPort) : s.OnlyState (modPort s p f) := ⟨⟨rfl, rfl, rfl, rfl⟩, rfl, rfl, rfl, rfl⟩

theorem Admission.only {t : State} (h : Admission s t) : s.OnlyState t := by
  obtain ⟨_, _, _, _, rfl⟩ := h
  exact ⟨⟨rfl, rfl, rfl, rfl⟩, rfl, rfl, rfl, rfl⟩

theorem exec_latLightDetected (ready : s.Ready) (named : wfLat p = true) (dark : (getLat s p).state = 0) (may : bringUpOk s p = true) :
    exec (.latLightDetected p) s = .next (modPort s p fun x => { x with state := 1, since := s.now }) := by
  show need (wfLat p) (act s _) = _
  rw [named, need_true]
  refine act_only ready ?_ (modPort_only s p _)
  simp only [dark, may, decide_true, Bool.and_self, if_true]

theorem exec_latLanesLocked {errors : Nat} (ready : s.Ready) (named : wfLat p = true) (light : (getLat s p).state = 1) :
    exec (.latLanesLocked p errors) s = .next (if errors ≤ 100 then
      modPort (draw s 31).2 p fun x => { x with
        state := 2, since := s.now, surveyFrom := cdiv s.now 1536 * 1536, surveyNext := cdiv s.now 1536 * 1536, surveySeq := 0
        far := none, prbs := (draw s 31).1.setWidth 64 <<< 33 } else s) := by
  show need (wfLat p) (act s _) = _
  rw [named, need_true]
  refine act_only ready ?_ (by split <;> exact ⟨⟨rfl, rfl, rfl, rfl⟩, rfl, rfl, rfl, rfl⟩)
  simp only [light, decide_true, Bool.true_and, decide_eq_true_eq]

theorem exec_latAligned (ready : s.Ready) (named : wfLat p = true) (aligning : (getLat s p).state = 2) :
    exec (.latAligned p) s = .next (attestStart (modPort s p fun x => { x with
      state := 3, since := s.now, checked := none, attested := none, nonce := none, chain := none, resp := none }) p) := by
  show need (wfLat p) (act s _) = _
  rw [named, need_true]
  exact act_only ready (if_pos aligning) ((modPort_only s p _).trans (attestStart_admission _ p).only)

/-! ## The fall to DARK and the retry (R333) -/

theorem closeAt_latTimeout {d : Nat} (runs : timeoutRuns s p = true) (length : latTimeout (getLat s p).state = some d) :
    closeAt s (.latTimeout p) = some (.at ((getLat s p).since + d)) := by
  simp only [closeAt, runs, if_true, length, Option.map_some]

theorem closeAt_latRetry (dark : (getLat s p).state = 0) (waits : (getLat s p).wait = true) :
    closeAt s (.latRetry p) = some (.at ((getLat s p).since + 160000000)) := by
  simp only [closeAt, dark, waits, decide_true, Bool.and_self, if_true]

theorem darkenCycle_singleton (one : s.cyc.darken = [p]) : darkenCycle s =
    modPort (if (getLat s p).state = 5 then latDark (modCyc s fun c => { c with darken := [] }) p else modCyc s fun c => { c with darken := [] }) p
      fun x => { x with wait := false } := by
  simp only [darkenCycle, one, List.foldl_cons, List.foldl_nil]
  rfl

/-- A failure before ACTIVE takes the port to DARK, with a retry pending, and counts. -/
theorem preFail_port (present : p < s.lports.length) (counted : p < s.cals.length) :
    (getLat (preFail s p) p).state = 0 ∧ (getLat (preFail s p) p).wait = true ∧ (getLat (preFail s p) p).since = s.now ∧
      (lget (preFail s p).cals p Cal.reset).fails = sat 255 ((lget s.cals p Cal.reset).fails + 1) := by
  have dark : getLat (preFail s p) p = getLat (latDark s p) p := rfl
  have fails : lget (preFail s p).cals p Cal.reset = { lget s.cals p Cal.reset with fails := sat 255 ((lget s.cals p Cal.reset).fails + 1) } :=
    lget_lmod_same counted _ _
  rw [dark, getLat_latDark_same present, fails]
  exact ⟨rfl, rfl, rfl, rfl⟩

end

/-- Settles O43: a write of OPT_CFG port by port, each step of bring-up from its state, the timeout and the retry as closes of windows. -/
theorem latticePortBringUp : Obligations.LatticePortBringUp := by
  unfold Obligations.LatticePortBringUp
  refine ⟨?written, ?darkens, ?light, ?locked, ?aligned, ?timeout, ?failed, ?retry⟩
  case written =>
    intro s v p ready ⟨named, present⟩
    obtain ⟨u, ⟨cfg, port, length, -⟩, cfg', port', -, dark'⟩ := optWrite_port (s := s) (v := v) named
    have present : p < u.lports.length := length ▸ present
    change getLat u p = getLat s p at port
    rw [port']
    refine ⟨barAct_ready s (optWrite · v) ready, ?_, fun same => ?_, fun was cleared inactive => ?_, fun was cleared active => ?_, fun was set => ?_⟩
    · rw [cfg', optPort_optCfg, cfg]
    · rw [optPort_same same, port]
    · exact optPort_dark present was cleared (port ▸ inactive)
    · rw [optPort_cleared was cleared, port, if_pos active] at dark' ⊢
      exact ⟨port, dark' (List.mem_append_right _ (List.mem_singleton.2 rfl))⟩
    · rw [optPort_set was set, getLat_modPort_same present, port]
      exact ⟨rfl, rfl, rfl⟩
  case darkens => exact fun s p => darkenCycle_singleton
  case light => exact fun s p => exec_latLightDetected
  case locked => exact fun s p errors => exec_latLanesLocked
  case aligned => exact fun s p => exec_latAligned
  case timeout =>
    intro s p d running named length runs reached
    exact (congrArg (need · _) named).trans (closeCmd_at s (.latTimeout p) _ running (closeAt_latTimeout runs length) reached)
  case failed => exact fun s p ⟨present, counted⟩ => preFail_port present counted
  case retry =>
    intro s p running named ⟨dark, waits⟩ reached
    exact (congrArg (need · _) named).trans (closeCmd_at s (.latRetry p) _ running (closeAt_latRetry dark waits) reached)

end Sys2Proof.Machine
end

section
/-! PROOFS. Frames that reach a MAC and leave its buffer, PAUSE and PFC, the MAC's link, and the timers of flow control (R355, R356, R359,
R367 to R371). -/

namespace Sys2Proof.Machine

/-! ## Counters of a MAC -/

section
variable {s : State} {k : Nat}

theorem getMac_modMac_same (present : k < s.macs.length) (f : Mac → Mac) : getMac (modMac s k f) k = f (getMac s k) :=
  lget_lmod_same present f Mac.reset

theorem lookup_bump_same (key n : Nat) : (bump s key n).cnt.fixed.lookup key = some (((s.cnt.fixed.lookup key).getD 0 + n) % 2 ^ 64) :=
  lookup_tput_same _ _ _

theorem lookup_bump_other {key j : Nat} (n : Nat) (other : j ≠ key) : (bump s key n).cnt.fixed.lookup j = s.cnt.fixed.lookup j :=
  lookup_tput_other _ _ _ _ other

@[simp] theorem macBump_fixed (i n : Nat) : (macBump s k i n).cnt.fixed = (bump s (macCnt k i) n).cnt.fixed := by
  unfold macBump
  dsimp only
  split <;> rfl

@[simp] theorem macBump_macs (i n : Nat) : (macBump s k i n).macs = s.macs := by unfold macBump; dsimp only; split <;> rfl
@[simp] theorem macBump_near (i n : Nat) : (macBump s k i n).near = s.near := by unfold macBump; dsimp only; split <;> rfl
@[simp] theorem macBump_macCfg (i n : Nat) : (macBump s k i n).macCfg = s.macCfg := by unfold macBump; dsimp only; split <;> rfl
@[simp] theorem macBump_time (i n : Nat) : (macBump s k i n).time = s.time := by unfold macBump; dsimp only; split <;> rfl

theorem lookup_macBump_same (i n : Nat) :
    (macBump s k i n).cnt.fixed.lookup (macCnt k i) = some (((s.cnt.fixed.lookup (macCnt k i)).getD 0 + n) % 2 ^ 64) := by
  rw [macBump_fixed, lookup_bump_same]

theorem lookup_macBump_other {i j : Nat} (n : Nat) (other : j ≠ i) :
    (macBump s k i n).cnt.fixed.lookup (macCnt k j) = s.cnt.fixed.lookup (macCnt k j) := by
  rw [macBump_fixed, lookup_bump_other]
  unfold macCnt
  omega

end

/-! ## Frames that arrive and leave the buffer (R355, R356) -/

section
variable {s : State} {k : Nat}

/-- On a running block a command for a MAC that is there acts. -/
theorem need_act {named : Bool} {f : State → State} {t : State} (ready : s.Ready) (there : named = true) (effect : f s = t) :
    need named (act s f) = .next (commitNow s t) := by
  rw [there, need_true, act_running s f ready.1, effect]

/-- A flow-control frame that passes step 1 of Table 13.2. -/
abbrev flowFrame (s : State) (k : Nat) (f : Frame) : Prop :=
  f.etherType = 0x8808 ∧ (match f.body with | .pause _ => true | .pfc _ _ => true | _ => false) = true ∧ f.fcsOk = true ∧ 64 ≤ f.len ∧
    f.len ≤ maxFrame s (k / 2)

theorem frameHeld_eq (f : Frame) : frameHeld s k f =
    if heldBytes (getMac s k) none + f.len ≤ bufferSize s k
    then flowGen (modMac s k fun m => { m with buffer := m.buffer ++ [⟨f, maxFrame s (k / 2), s.now⟩] }) k
    else modMac (mark (macBump s k 4 1) (0x170180 + 8 * k) 7) k fun m => { m with dropSeen := true } := by
  by_cases room : heldBytes (getMac s k) none + f.len ≤ bufferSize s k
  · rw [if_pos room, frameHeld, if_neg (Nat.not_lt.2 room)]
  · rw [if_neg room, frameHeld, if_pos (Nat.lt_of_not_le room)]
    rfl

theorem frameIn_eq (f : Frame) : frameIn s k f =
    if flowFrame s k f then goodFrame (bwBytes s (12 + k) false f.len) k f else frameHeld (bwBytes s (12 + k) false f.len) k f := by
  unfold frameIn
  have length : maxFrame (bwBytes s (12 + k) false f.len) (k / 2) = maxFrame s (k / 2) := rfl
  simp only [length, Bool.and_eq_true, decide_eq_true_eq, and_assoc] <;> rfl

/-- Another MAC of the port holds a frame that came before (R355). -/
theorem headOfPort_eq_false (h : HeldFrame) : (!headOfPort s k h) =
    (List.range 4).any fun j => (getMac s (4 * (k / 4) + j)).buffer.head?.any fun x => decide (x.arrived < h.arrived) := by
  rw [headOfPort, List.not_all_eq_any_not]
  refine congrArg _ (funext fun j => ?_)
  cases (getMac s (4 * (k / 4) + j)).buffer.head? with
  | none => rfl
  | some x => simp [← decide_not]

/-- What the oldest frame, taken off the buffer, does: step 1 of Table 13.2 and on. -/
def frameTaken (s : State) (k : Nat) (h : HeldFrame) : State :=
  if h.frame.fcsOk = false then macBump s k 2 1
  else if h.frame.len < 64 ∨ h.maxFrame < h.frame.len then macBump s k 3 1
  else goodFrame s k h.frame

theorem frameRelease_empty (empty : (getMac s k).buffer = []) : frameRelease s k = s := by simp only [frameRelease, empty]

theorem frameRelease_cons {h : HeldFrame} {rest : List HeldFrame} (held : (getMac s k).buffer = h :: rest) : frameRelease s k =
    if ((List.range 4).any fun j => (getMac s (4 * (k / 4) + j)).buffer.head?.any fun x => decide (x.arrived < h.arrived)) = true then s
    else settleAll (flowGen (frameTaken (modMac s k fun m => { m with buffer := rest }) k h) k) := by
  simp only [frameRelease, held, headOfPort_eq_false, frameTaken, Bool.not_eq_true', Bool.or_eq_true, decide_eq_true_eq, gt_iff_lt]

end

/-! ## PAUSE and PFC (R367, R368) -/

/-- What quanta make of a priority's pause: none for 0, else it stands until the quanta are over, from when it first began. -/
def pauseFor (s : State) (k quanta : Nat) (x : Option Pause) : Option Pause :=
  if quanta = 0 then none else some ⟨s.now + quantaUnits s k quanta, (x.map (·.began)).getD s.now⟩

/-- One priority's pause in the table of a MAC. -/
def pausePrio (s : State) (k : Nat) (t : Tbl Pause) (e : Nat × Nat) : Tbl Pause :=
  if e.2 = 0 then tdel t e.1 else tput t e.1 ⟨s.now + quantaUnits s k e.2, ((t.lookup e.1).map (·.began)).getD s.now⟩

section
variable {s : State} {k p : Nat}

theorem lookup_pausePrio_same (t : Tbl Pause) (quanta : Nat) :
    (pausePrio s k t (p, quanta)).lookup p = pauseFor s k quanta (t.lookup p) := by
  unfold pausePrio pauseFor
  split
  · exact lookup_tdel_same t p
  · exact lookup_tput_same t p _

theorem lookup_pausePrio_other (t : Tbl Pause) {e : Nat × Nat} (other : p ≠ e.1) : (pausePrio s k t e).lookup p = t.lookup p := by
  unfold pausePrio
  split
  · exact lookup_tdel_other t e.1 p other
  · exact lookup_tput_other t e.1 p _ other

/-- A priority that a frame does not name keeps its pause. -/
theorem lookup_pausePrios_other {es : List (Nat × Nat)} (t : Tbl Pause) (unnamed : p ∉ es.map (·.1)) :
    (es.foldl (pausePrio s k) t).lookup p = t.lookup p := by
  induction es generalizing t with
  | nil => rfl
  | cons e es ih =>
    rw [List.map_cons, List.mem_cons, not_or] at unnamed
    rw [List.foldl_cons, ih _ unnamed.2, lookup_pausePrio_other t unnamed.1]

/-- A priority that a frame names once is paused as its quanta say. -/
theorem lookup_pausePrios_named {es : List (Nat × Nat)} {quanta : Nat} (t : Tbl Pause) (once : (es.map (·.1)).Nodup) (named : (p, quanta) ∈ es) :
    (es.foldl (pausePrio s k) t).lookup p = pauseFor s k quanta (t.lookup p) := by
  induction es generalizing t with
  | nil => exact absurd named List.not_mem_nil
  | cons e es ih =>
    rw [List.map_cons, List.nodup_cons] at once
    rw [List.foldl_cons]
    rcases List.mem_cons.1 named with rfl | later
    · rw [lookup_pausePrios_other _ once.1, lookup_pausePrio_same]
    · have other : p ≠ e.1 := fun same => once.1 (same ▸ List.mem_map_of_mem later)
      rw [ih _ once.2 later, lookup_pausePrio_other t other]

theorem getMac_pausePrios (present : k < s.macs.length) (es : List (Nat × Nat)) :
    (getMac (pausePrios s k es) k).pauses = es.foldl (pausePrio s k) (getMac s k).pauses := by
  rw [pausePrios, getMac_modMac_same present]
  rfl

/-! ### The control frame -/

/-- The frame is counted, and what a pause looks at stands as it was. -/
def controlCounted (s : State) (k : Nat) : State := macBump (controlFrame s k) k 7 1

@[simp] theorem controlCounted_macs : (controlCounted s k).macs = s.macs := by simp [controlCounted, controlFrame, bwBytes]
@[simp] theorem controlCounted_near : (controlCounted s k).near = s.near := by simp [controlCounted, controlFrame, bwBytes]
@[simp] theorem controlCounted_macCfg : (controlCounted s k).macCfg = s.macCfg := by simp [controlCounted, controlFrame, bwBytes]
@[simp] theorem controlCounted_time : (controlCounted s k).time = s.time := by simp [controlCounted, controlFrame, bwBytes]

@[simp] theorem getMac_controlCounted : getMac (controlCounted s k) k = getMac s k := by rw [getMac, controlCounted_macs, getMac]

@[simp] theorem pauseMode_controlCounted : pauseMode (controlCounted s k) k = pauseMode s k := by
  rw [pauseMode, macCfgOf, controlCounted_macCfg, pauseMode, macCfgOf]

@[simp] theorem pauseHonoured_controlCounted : pauseHonoured (controlCounted s k) k = pauseHonoured s k := by
  have now : (controlCounted s k).now = s.now := congrArg TimeUnit.gtc controlCounted_time
  rw [pauseHonoured, getMac_controlCounted, now, pauseHonoured]

theorem lookup_controlCounted : (controlCounted s k).cnt.fixed.lookup (macCnt k 7) =
    some (((s.cnt.fixed.lookup (macCnt k 7)).getD 0 + 1) % 2 ^ 64) := by
  have counted : (controlFrame s k).cnt.fixed.lookup (macCnt k 7) = s.cnt.fixed.lookup (macCnt k 7) := by
    show (macBump (macBump s k 0 1) k 1 64).cnt.fixed.lookup (macCnt k 7) = _
    rw [lookup_macBump_other _ (by decide), lookup_macBump_other _ (by decide)]
  rw [controlCounted, lookup_macBump_same, counted]

theorem pauseFor_controlCounted (q : Nat) (x : Option Pause) : pauseFor (controlCounted s k) k q x = pauseFor s k q x := by
  have now : (controlCounted s k).now = s.now := congrArg TimeUnit.gtc controlCounted_time
  have mode : macMode (controlCounted s k) k = macMode s k := by rw [macMode, getNear, controlCounted_near]; rfl
  rw [pauseFor, now, quantaUnits, mode]
  rfl

/-- What a control frame for some priorities leaves, in a mode that takes it or not. -/
def controlTaken (s : State) (k mode : Nat) (es : List (Nat × Nat)) : State :=
  if pauseMode s k = mode ∧ pauseHonoured s k = true then pausePrios (controlCounted s k) k es else controlCounted s k

theorem pauseIn_eq (q : Nat) : pauseIn (controlFrame s k) k q = controlTaken s k 1 ((List.range 8).map fun p => (p, q)) := by
  show (if (decide (pauseMode (controlCounted s k) k = 1) && pauseHonoured (controlCounted s k) k) = true
    then pausePrios (controlCounted s k) k ((List.range 8).map fun p => (p, q)) else controlCounted s k) = _
  simp only [pauseMode_controlCounted, pauseHonoured_controlCounted, Bool.and_eq_true, decide_eq_true_eq, controlTaken]

/-- The priorities a PFC frame names: those enabled in it and in MAC_PFC (R368). -/
def pfcPrios (s : State) (k : Nat) (en : BitVec 8) (qs : List Nat) : List (Nat × Nat) :=
  (List.range 8).filterMap fun p =>
    if bitAt en p && bitAt (getMac s k).pfc.inForce (24 + p) then some (p, qs.getD p 0) else none

theorem mem_pfcPrios {en : BitVec 8} {qs : List Nat} (e : Nat × Nat) : e ∈ pfcPrios s k en qs ↔
    e.1 < 8 ∧ (bitAt en e.1 = true ∧ bitAt (getMac s k).pfc.inForce (24 + e.1) = true) ∧ e.2 = qs.getD e.1 0 := by
  obtain ⟨p, q⟩ := e
  simp only [pfcPrios, List.mem_filterMap, List.mem_range, Option.ite_none_right_eq_some, Bool.and_eq_true, Option.some.injEq, Prod.mk.injEq]
  constructor
  · rintro ⟨p, named, enabled, rfl, rfl⟩
    exact ⟨named, enabled, rfl⟩
  · rintro ⟨named, enabled, rfl⟩
    exact ⟨p, named, enabled, rfl, rfl⟩

theorem pfcPrios_once (en : BitVec 8) (qs : List Nat) : ((pfcPrios s k en qs).map (·.1)).Nodup := by
  rw [pfcPrios, List.map_filterMap]
  refine List.nodup_range.filterMap fun p p' b first second => ?_
  simp only [Option.mem_def, Option.map_eq_some_iff, Option.ite_none_right_eq_some, Option.some.injEq] at first second
  obtain ⟨_, ⟨-, rfl⟩, rfl⟩ := first
  obtain ⟨_, ⟨-, rfl⟩, same⟩ := second
  exact same.symm

theorem pfcIn_eq (en : BitVec 8) (qs : List Nat) : pfcIn (controlFrame s k) k en qs = controlTaken s k 2 (pfcPrios s k en qs) := by
  have prios : pfcPrios (controlCounted s k) k en qs = pfcPrios s k en qs := by rw [pfcPrios, getMac_controlCounted, pfcPrios]
  show (if (decide (pauseMode (controlCounted s k) k = 2) && pauseHonoured (controlCounted s k) k) = true
    then pausePrios (controlCounted s k) k (pfcPrios (controlCounted s k) k en qs) else controlCounted s k) = _
  simp only [pauseMode_controlCounted, pauseHonoured_controlCounted, prios, Bool.and_eq_true, decide_eq_true_eq, controlTaken]

/-! ### The frame taken -/

section
variable {mode : Nat} {es : List (Nat × Nat)}

theorem controlTaken_counted : (controlTaken s k mode es).cnt.fixed.lookup (macCnt k 7) =
    some (((s.cnt.fixed.lookup (macCnt k 7)).getD 0 + 1) % 2 ^ 64) := by
  unfold controlTaken
  split <;> exact lookup_controlCounted

theorem controlTaken_ignored (ignored : pauseMode s k ≠ mode ∨ pauseHonoured s k = false) : (controlTaken s k mode es).macs = s.macs := by
  have not : ¬ (pauseMode s k = mode ∧ pauseHonoured s k = true) := by
    rcases ignored with other | held
    · exact fun h => other h.1
    · simp [held]
  rw [controlTaken, if_neg not, controlCounted_macs]

theorem controlTaken_pauses (taken : pauseMode s k = mode) (honoured : pauseHonoured s k = true) (present : k < s.macs.length) :
    (getMac (controlTaken s k mode es) k).pauses = es.foldl (pausePrio (controlCounted s k) k) (getMac s k).pauses := by
  rw [controlTaken, if_pos ⟨taken, honoured⟩, getMac_pausePrios (by rwa [controlCounted_macs]), getMac_controlCounted]

end

end

/-- Settles O46: an arrival by where the frame goes, a release by the oldest frame, PAUSE and PFC by the priorities they name. -/
theorem ethernetReceive : Obligations.EthernetReceive := by
  unfold Obligations.EthernetReceive
  refine ⟨?arrival, ?release, ?pause, ?pfc, ?link⟩
  case arrival =>
    intro s k f ready named
    refine need_act ready named ?_
    rw [frameIn_eq, frameHeld_eq]
    rfl
  case release =>
    intro s k ready named
    refine need_act ready named ?_
    cases held : (getMac s k).buffer with
    | nil => exact frameRelease_empty held
    | cons h rest => exact frameRelease_cons held
  case pause =>
    intro s k q ready named live
    have up : (macLive s k && (getMac s k).linkUp) = true := by rw [live.1, live.2]; rfl
    refine ⟨need_act ready named (if_pos up), ?_, ?_, ?_⟩
    · rw [pauseIn_eq, controlTaken_counted]
    · rw [pauseIn_eq]
      exact controlTaken_ignored
    · intro taken honoured present p among
      have once : (((List.range 8).map fun p => (p, q)).map (·.1)).Nodup := by
        rw [List.map_map]
        exact (List.map_id (List.range 8)).symm ▸ List.nodup_range
      rw [pauseIn_eq, controlTaken_pauses taken honoured present,
        lookup_pausePrios_named _ once (List.mem_map_of_mem among), pauseFor_controlCounted]
      rfl
  case pfc =>
    intro s k en qs ready named live
    have up : (macLive s k && (getMac s k).linkUp) = true := by rw [live.1, live.2]; rfl
    refine ⟨need_act ready named (if_pos up), ?_, ?_, ?_⟩
    · rw [pfcIn_eq, controlTaken_counted]
    · rw [pfcIn_eq]
      exact controlTaken_ignored
    · intro taken honoured present p among
      rw [pfcIn_eq, controlTaken_pauses taken honoured present]
      split
      next enabled =>
        rw [lookup_pausePrios_named _ (pfcPrios_once en qs) ((mem_pfcPrios (p, qs.getD p 0)).2 ⟨List.mem_range.1 among, enabled, rfl⟩),
          pauseFor_controlCounted]
        rfl
      next disabled =>
        refine lookup_pausePrios_other _ fun named => ?_
        obtain ⟨e, taken, rfl⟩ := List.mem_map.1 named
        exact disabled ((mem_pfcPrios e).1 taken).2.1
  case link =>
    intro s k sent ready named
    refine ⟨fun live lit => ?_, need_act ready named rfl, fun idle => ?_⟩
    · exact need_act ready named (if_pos (by rw [live, lit]; rfl))
    · simp only [macDown, idle]

/-! ## The timers of flow control (R368 to R370) -/

section
variable {s : State} {k p : Nat}

theorem closeAt_pause {x : Pause} (paused : (getMac s k).pauses.lookup p = some x) : closeAt s (.pause k p) = some (.at x.till) := by
  simp only [closeAt, paused, Option.map_some]

theorem pauseClosed_some {x : Pause} (paused : (getMac s k).pauses.lookup p = some x) : pauseClosed s k p = modMac s k fun m => { m with
    pauses := if pauseMode s k = 1 then m.pauses.filter fun e => e.2.till ≠ x.till else tdel m.pauses p } := by
  simp only [pauseClosed, paused]

/-- The watchdog of a priority that is still paused when it closes (R370). -/
theorem closeAt_watchdog {x : Pause} {g : Gtc} (paused : (getMac s k).pauses.lookup p = some x)
    (on : 0 < fld (macCfgOf s k) 40 8) (holds : pauseMode s k = 1 → p = 0) (moment : g = x.began + fld (macCfgOf s k) 40 8 * 16000000)
    (stands : g ≤ x.till) : closeAt s (.watchdog k p) = some (.at g) := by
  subst moment
  have runs : ¬ (decide (fld (macCfgOf s k) 40 8 = 0) || (decide (pauseMode s k = 1) && decide (p ≠ 0)) ||
      decide (x.till < x.began + fld (macCfgOf s k) 40 8 * 16000000)) = true := by
    simp only [Bool.or_eq_true, Bool.and_eq_true, decide_eq_true_eq, not_or, not_and]
    exact ⟨⟨Nat.ne_of_gt on, fun mode other => other (holds mode)⟩, Nat.not_lt.2 stands⟩
  simp only [closeAt, watchdogAt, paused, Option.bind_some, if_neg runs, Option.map_some]

theorem closeAt_watchdog_none (off : (getMac s k).pauses.lookup p = none ∨ fld (macCfgOf s k) 40 8 = 0) :
    closeAt s (.watchdog k p) = none := by
  rcases off with unpaused | disabled
  · simp only [closeAt, watchdogAt, unpaused, Option.bind_none, Option.map_none]
  · simp [closeAt, watchdogAt, disabled]

theorem watchdogClosed_some {x : Pause} (paused : (getMac s k).pauses.lookup p = some x) : watchdogClosed s k p =
    eventAndCodex (modMac (mark s (0x170180 + 8 * k) 6) k fun m => { m with
      pauses := [], holdoff := some (s.now + max 1 (fld (macCfgOf s k) 48 8) * 160000000), brokenSeen := true }) 0x0A 0x50 (macSource k) (k + 16 * p)
      (evData [(20, 64, x.began), (28, 8, pauseMode s k)]) := by
  simp only [watchdogClosed, paused]
  rfl

theorem closeAt_holdoff {g : Gtc} (opened : (getMac s k).holdoff = some g) : closeAt s (.holdoff k) = some (.at g) := by
  simp only [closeAt, opened, Option.map_some]

theorem closeAt_xoff {last : Gtc} (sent : (getMac s k).xoff.lookup p = some last) :
    closeAt s (.xoff k p) = some (.at (last + cdiv (quantaUnits s k (sendQuanta s k)) 2)) := by
  simp only [closeAt, xoffAt, sent, Option.map_some]

/-- A priority that still holds XON_KIB or more is stopped again (R369). -/
theorem xoffAgain_full {last : Gtc} {e : Nat × Option Nat × Nat} (sent : (getMac s k).xoff.lookup p = some last)
    (key : (flowKeys s k).find? (fun e => e.1 = p) = some e) (full : xonBytes s k ≤ e.2.2) : xoffAgain s k p =
      sendPauses (modMac s k fun m => { m with xoff := tput m.xoff p s.now, ctlq := m.ctlq ++ [(e.2.1, sendQuanta s k)] }) k := by
  simp only [xoffAgain, sent, key]
  exact if_pos full

/-- The close of a window of a unit that is there. -/
theorem need_closeCmd {named : Bool} {w : Timed} {g : Gtc} (running : s.running = true) (there : named = true)
    (opened : closeAt s w = some (.at g)) (reached : s.Reaches g) : need named (closeCmd s w) = .next (commit s (closed (s.goTo g) w)) :=
  (congrArg (need · _) there).trans (closeCmd_at s w g running opened reached)

theorem named_prio (named : wfMac k = true ∧ wfPrio p = true) : (wfMac k && wfPrio p) = true := by rw [named.1, named.2, Bool.and_self]

end

/-- Settles O47: each timer is a window, which closes at its moment, and its close by what it finds. -/
theorem ethernetFlowControlTimers : Obligations.EthernetFlowControlTimers := by
  unfold Obligations.EthernetFlowControlTimers
  refine ⟨?timer, ?ends, ?watchdog, ?broken, ?off, ?holdoff, ?refresh, ?again⟩
  case timer => exact fun s k p x running named paused reached => need_closeCmd running (named_prio named) (closeAt_pause paused) reached
  case ends => exact fun s k p x => pauseClosed_some
  case watchdog =>
    intro s k p g x running named paused ⟨on, holds⟩ ⟨moment, stands⟩ reached
    exact need_closeCmd running (named_prio named) (closeAt_watchdog paused on holds moment stands) reached
  case broken => exact fun s k p x => watchdogClosed_some
  case off =>
    intro s k p ready named off
    show need _ (closeCmd s (.watchdog k p)) = _
    rw [named_prio named, need_true, closeCmd_none s _ ready.1.1 (closeAt_watchdog_none off), commit_self ready.2]
  case holdoff => exact fun s k g running named opened reached => need_closeCmd running named (closeAt_holdoff opened) reached
  case refresh => exact fun s k p last running named sent reached => need_closeCmd running (named_prio named) (closeAt_xoff sent) reached
  case again => exact fun s k p last e => xoffAgain_full

end Sys2Proof.Machine
end

section
/-! PROOFS. Contexts and segment entries: their creation, withdrawal and end; faults resumed and timed out; dirty logs (R402 to R405, R411,
R413, R415, R416, R418, R442). -/

namespace Sys2Proof.Machine

section
variable {s t : State} {d : Line} {f : State → State}

/-- A manager command by its effect on the state that has taken it off the manager ring. -/
theorem mgrCmd_effect (ready : s.MgrReady) (effect : f (takeHanded s .mgrSq d) = t) : mgrCmd s d f = .next (commitNow s t) := by
  rw [mgrCmd_ready s d f ready, effect]

end

/-! ## Contexts (R402, R403) -/

section
variable {s : State} {d : Line} {dom : Domain} {x : Ctx}

theorem ctxCreate_owned (low : dfld d 16 0 7 ≤ 64) (fits : dfld d 18 0 16 ≤ 512) (owner : fnDom s (dfld d 18 0 16) = some (dfld d 16 0 7))
    (found : getDom s (dfld d 16 0 7) = some dom) : ctxCreate s d =
      (let i := freeFrom (fun i => (getCtx s i).isSome) s.xl.ctxs.length dom.cfg.ctxBase
       if dom.cfg.ctxBase + dom.cfg.ctxCount ≤ i ∨ 4096 ≤ i then mgrFail s d 4
       else mgrOk (modXl s fun t => { t with
        ctxs := tput t.ctxs i
          { dom := dfld d 16 0 7, atsFn := dfld d 18 0 16, pasid := dfld d 20 0 20, pasidEn := dbit d 22 4, timeoutMs := max 1 (dfld d 24 0 16)
            segs := [] } }) d i) := by
  simp only [ctxCreate, if_neg (Nat.not_lt.2 low), fits, owner, decide_true, Bool.and_self, if_true, found, Bool.or_eq_true, decide_eq_true_eq,
    gt_iff_lt, ge_iff_le]

theorem ctxCreate_noCarrel (high : 64 < dfld d 16 0 7) : ctxCreate s d = mgrFail s d 3 := if_pos high

theorem ctxCreate_foreign (low : dfld d 16 0 7 ≤ 64) (foreign : fnDom s (dfld d 18 0 16) ≠ some (dfld d 16 0 7)) :
    ctxCreate s d = mgrFail s d 1 := by
  simp only [ctxCreate, if_neg (Nat.not_lt.2 low), foreign, decide_false, Bool.and_false, Bool.false_eq_true, if_false]

theorem ctxDestroy_none (absent : getCtx s (dfld d 16 0 12) = none) : ctxDestroy s d = mgrFail s d 1 := by simp only [ctxDestroy, absent]

theorem ctxDestroy_some (found : getCtx s (dfld d 16 0 12) = some x) : ctxDestroy s d =
    if x.segs ≠ [] ∨ ctxNamed s (dfld d 16 0 12) = true then mgrFail s d 2
    else mgrOk (modXl s fun t => { t with ctxs := tdel t.ctxs (dfld d 16 0 12) }) d := by
  simp only [ctxDestroy, found, Bool.or_eq_true, Bool.not_eq_true', List.isEmpty_eq_false_iff]

end

/-! ## SEG_SET (R404, R405) -/

section
variable {s : State} {d : Line} {x : Ctx} {pins : List Pin}

/-- The entry would overlap one that stands (R404). -/
def overlaps (x : Ctx) (g : Seg) : Bool := x.segs.any fun e => e.2.base < g.base + g.len && g.base < e.2.base + e.2.len

theorem segSet_noCtx (absent : getCtx s (dfld d 16 0 12) = none) : segSet s d pins = mgrFail s d 1 := by simp only [segSet, absent]

variable (found : getCtx s (dfld d 16 0 12) = some x)
include found

theorem segSet_inUse (inUse : (x.segs.lookup (dfld d 18 0 4)).isSome = true) : segSet s d pins = mgrFail s d 2 := by
  simp only [segSet, found, inUse, if_true]

variable (free : x.segs.lookup (dfld d 18 0 4) = none)
include free

theorem segSet_badFields (bad : segFields (segOf d) = false) : segSet s d pins = mgrFail s d 3 := by
  simp only [segSet, found, free, bad, Option.isSome_none, Bool.not_false, Bool.true_or, if_true, Bool.false_eq_true, if_false]

variable (fields : segFields (segOf d) = true) (apart : overlaps x (segOf d) = false) (target : segTarget s x.dom (segOf d) = true)
include fields apart target

/-- The checks of R404 are passed: the entry's range may be leaving, or its pages may not be there to be pinned. -/
theorem segSet_good : segSet s d pins =
    if (segOf d).target = 1 ∧ leaving s x.dom (segOf d).tbase (segOf d).len = true then mgrFail s d 2
    else match (if (segOf d).pinned then pinRange s x [(dfld d 18 0 4, segOf d, (segOf d).base, (segOf d).len)] pins else Except.ok s) with
      | .error r => mgrFail s d r
      | .ok s => mgrOk (modCtx s (dfld d 16 0 12) fun x => { x with segs := tput x.segs (dfld d 18 0 4) (segOf d) }) d := by
  unfold overlaps at apart
  simp only [segSet, found, free, fields, apart, target, Option.isSome_none, Bool.not_true, Bool.or_self, Bool.false_eq_true, if_false,
    Bool.and_eq_true, decide_eq_true_eq] <;> rfl

theorem segSet_leaving (hbm : (segOf d).target = 1) (leaves : leaving s x.dom (segOf d).tbase (segOf d).len = true) :
    segSet s d pins = mgrFail s d 2 := by
  rw [segSet_good found free fields apart target, if_pos ⟨hbm, leaves⟩]

theorem segSet_accepted (stays : (segOf d).target = 1 → leaving s x.dom (segOf d).tbase (segOf d).len = false)
    (pinned : (segOf d).pinned = false ∨ pinRange s x [(dfld d 18 0 4, segOf d, (segOf d).base, (segOf d).len)] pins = .ok s) :
    segSet s d pins = mgrOk (modCtx s (dfld d 16 0 12) fun x => { x with segs := tput x.segs (dfld d 18 0 4) (segOf d) }) d := by
  have here : ¬ ((segOf d).target = 1 ∧ leaving s x.dom (segOf d).tbase (segOf d).len = true) := by
    rintro ⟨hbm, leaves⟩
    rw [stays hbm] at leaves
    exact absurd leaves Bool.false_ne_true
  have taken : (if (segOf d).pinned then pinRange s x [(dfld d 18 0 4, segOf d, (segOf d).base, (segOf d).len)] pins else Except.ok s) = .ok s := by
    rcases pinned with unpinned | held
    · rw [unpinned]; rfl
    · rw [held]; exact ite_self _
  rw [segSet_good found free fields apart target, if_neg here, taken]

end

/-! ## SEG_INVALIDATE (R415, R416) -/

/-- Entry `i` of context `c`. -/
def entryAt (s : State) (c i : Nat) : Option Seg := (getCtx s c).bind fun x => x.segs.lookup i

section
variable {s : State} {d : Line} {g : Seg}

theorem segInvalidate_none (absent : entryAt s (dfld d 16 0 12) (dfld d 18 0 4) = none) : segInvalidate s d = mgrFail s d 1 := by
  unfold entryAt at absent
  simp only [segInvalidate, absent]

theorem segInvalidate_busy (found : entryAt s (dfld d 16 0 12) (dfld d 18 0 4) = some g)
    (busy : g.withdrawn.isSome = true ∨ ringInSeg s (dfld d 16 0 12) (dfld d 18 0 4) = true) : segInvalidate s d = mgrFail s d 2 := by
  unfold entryAt at found
  simp only [segInvalidate, found, Bool.or_eq_true, if_pos busy]

/-- The entry is withdrawn; its holders go on (INV_POLICY 0). -/
theorem segInvalidate_accepted (found : entryAt s (dfld d 16 0 12) (dfld d 18 0 4) = some g) (stands : g.withdrawn = none)
    (noRing : ringInSeg s (dfld d 16 0 12) (dfld d 18 0 4) = false) (gentle : g.invAbort = false) : segInvalidate s d =
      settleAll (modCtx s (dfld d 16 0 12) fun x => { x with segs := tupd x.segs (dfld d 18 0 4) fun g => { g with withdrawn := some d } }) := by
  unfold entryAt at found
  simp only [segInvalidate, found, stands, noRing, gentle, Option.isSome_none, Bool.or_self, Bool.false_eq_true, if_false]

theorem segDone_standing {c i : Nat} (standing : ((getCtx s c).bind fun x => (x.segs.lookup i).bind fun g => g.withdrawn) = none) :
    segDone s c i = s := by
  unfold segDone
  split
  · rfl
  next x ctx =>
    rw [ctx, Option.bind_some] at standing
    split
    · rfl
    next g seg =>
      rw [seg, Option.bind_some] at standing
      simp only [standing]

/-- Nothing holds the withdrawn entry: it is gone, and the command completes (R416). -/
theorem segDone_free {c i : Nat} {x : Ctx} (ctx : getCtx s c = some x) (seg : x.segs.lookup i = some g) (withdrawn : g.withdrawn = some d)
    (unlogged : g.log = none) (unpinned : g.pinned = false) (device : g.target ≠ 0) (noHolder : segHolders s c g = [])
    (noAccess : (s.xl.accesses.any fun a => a.ctx = c && a.seg = i) = false) (answered : nearUnanswered s g = false) :
    segDone s c i = mgrOk (modCtx s c fun x => { x with segs := tdel x.segs i }) d := by
  simp only [segDone, ctx, seg, withdrawn, unlogged, unpinned, if_neg device, noHolder, noAccess, answered, List.isEmpty_nil, Bool.not_true,
    Bool.or_self, Bool.false_eq_true, if_false, Option.bind_none]

end

section
variable {s t : State} {d : Line} {pins : List Pin} (ready : s.MgrReady)
include ready

theorem exec_ctxCreate (effect : ctxCreate (takeHanded s .mgrSq d) d = t) : exec (.ctxCreate d) s = .next (commitNow s t) :=
  mgrCmd_effect (f := fun s => ctxCreate s d) ready effect

theorem exec_ctxDestroy (effect : ctxDestroy (takeHanded s .mgrSq d) d = t) : exec (.ctxDestroy d) s = .next (commitNow s t) :=
  mgrCmd_effect (f := fun s => ctxDestroy s d) ready effect

theorem exec_segSet (effect : segSet (takeHanded s .mgrSq d) d pins = t) : exec (.segSet d pins) s = .next (commitNow s t) :=
  mgrCmd_effect (f := fun s => segSet s d pins) ready effect

theorem exec_segInvalidate (effect : segInvalidate (takeHanded s .mgrSq d) d = t) : exec (.segInvalidate d) s = .next (commitNow s t) :=
  mgrCmd_effect (f := fun s => segInvalidate s d) ready effect

theorem exec_faultResume (effect : faultResume (takeHanded s .mgrSq d) d = t) : exec (.faultResume d) s = .next (commitNow s t) :=
  mgrCmd_effect (f := fun s => faultResume s d) ready effect

theorem exec_dirtyLog (effect : dirtyLog (takeHanded s .mgrSq d) d = t) : exec (.dirtyLog d) s = .next (commitNow s t) :=
  mgrCmd_effect (f := fun s => dirtyLog s d) ready effect

end

/-- Settles O52: each command by its checks, on the state that has taken it off the manager ring. -/
theorem contextsAndSegments : Obligations.ContextsAndSegments := by
  unfold Obligations.ContextsAndSegments
  refine ⟨?create, ?refused, ?destroy, ?set, ?leaving, ?unset, ?invalidate, ?done, ?standing⟩
  case create =>
    exact fun s d dom ready low ⟨fits, owner⟩ found => exec_ctxCreate ready (ctxCreate_owned (s := takeHanded s .mgrSq d) low fits owner found)
  case refused =>
    exact fun s d ready => ⟨fun high => exec_ctxCreate ready (ctxCreate_noCarrel high),
      fun low _ foreign => exec_ctxCreate ready (ctxCreate_foreign (s := takeHanded s .mgrSq d) low foreign)⟩
  case destroy =>
    intro s d ready
    refine exec_ctxDestroy ready ?_
    cases found : getCtx s (dfld d 16 0 12) with
    | none => exact (ctxDestroy_none (s := takeHanded s .mgrSq d) found).trans (by unfold getCtx at found; rw [found])
    | some x => exact (ctxDestroy_some (s := takeHanded s .mgrSq d) found).trans (by unfold getCtx at found; rw [found]; rfl)
  case set =>
    intro s d x pins ready found free ⟨fields, apart, target, stays⟩ pinned
    exact exec_segSet ready (segSet_accepted (s := takeHanded s .mgrSq d) found free fields apart target stays pinned)
  case leaving =>
    intro s d x pins ready found free ⟨fields, apart, target, hbm, leaves⟩
    exact exec_segSet ready (segSet_leaving (s := takeHanded s .mgrSq d) found free fields apart target hbm leaves)
  case unset =>
    exact fun s d pins ready => ⟨fun absent => exec_segSet ready (segSet_noCtx (s := takeHanded s .mgrSq d) absent),
      fun x found inUse => exec_segSet ready (segSet_inUse (s := takeHanded s .mgrSq d) found inUse),
      fun x found free bad => exec_segSet ready (segSet_badFields (s := takeHanded s .mgrSq d) found free bad)⟩
  case invalidate =>
    exact fun s d ready => ⟨fun absent => exec_segInvalidate ready (segInvalidate_none (s := takeHanded s .mgrSq d) absent),
      fun g found busy => exec_segInvalidate ready (segInvalidate_busy (s := takeHanded s .mgrSq d) found busy),
      fun g found stands noRing gentle => exec_segInvalidate ready (segInvalidate_accepted (s := takeHanded s .mgrSq d) found stands noRing gentle)⟩
  case done =>
    intro s c i x g d ready ctx seg ⟨withdrawn, unlogged, unpinned, device⟩ ⟨noHolder, noAccess, answered⟩
    show act s (fun s => segDone s c i) = _
    rw [act_running s _ ready.1, segDone_free ctx seg withdrawn unlogged unpinned device noHolder noAccess answered]
  case standing =>
    exact fun s c i ready standing => act_only (f := fun s => segDone s c i) ready (segDone_standing standing)
      ⟨⟨rfl, rfl, rfl, rfl⟩, rfl, rfl, rfl, rfl⟩

/-! ## Faults (R411, R413) -/

/-- Access `id`, without a result, waits on fault `f` (R414). -/
def waitsOn (f id : Nat) (a : Access) : Bool :=
  a.id = id && a.result.isNone && (match a.fault with | some (g, _) => g = f | none => false)

section
variable {s : State} {d : Line} {f id : Nat} {a : Access}

theorem faultResume_eq : faultResume s d =
    if (s.xl.faults.any fun f => f.id = dfld d 16 0 32 && !f.resolved) = false then mgrFail s d 1
    else if dbit d 20 0 = true then
      settleAll (mgrOk (modXl (abortFault s (dfld d 16 0 32)) fun x => { x with
        faults := x.faults.map fun f => if f.id = dfld d 16 0 32 then { f with resolved := true } else f }) d)
    else settleAll (mgrOk (resolveFault s (dfld d 16 0 32)) d) := by
  simp only [faultResume, Bool.not_eq_true']
  split
  · rfl
  split <;> rfl

theorem waiterAt_eq : waiterAt s f id = (s.xl.accesses.find? (waitsOn f id)).bind
    fun a => a.fault.map fun f => f.2 + 16000000 * ((getCtx s a.ctx).map (·.timeoutMs)).getD 1 := rfl

theorem closeAt_waiter {o : Gtc} (waiting : s.xl.accesses.find? (waitsOn f id) = some a) (since : a.fault = some (f, o)) :
    closeAt s (.waiter f id) = some (.at (o + 16000000 * ((s.xl.ctxs.lookup a.ctx).map (·.timeoutMs)).getD 1)) := by
  simp only [closeAt, waiterAt_eq, waiting, Option.bind_some, since, Option.map_some, getCtx]

theorem closeAt_waiter_none (noWaiter : s.xl.accesses.find? (waitsOn f id) = none) : closeAt s (.waiter f id) = none := by
  simp only [closeAt, waiterAt_eq, noWaiter, Option.bind_none, Option.map_none]

theorem waiterTimeout_eq : waiterTimeout s f id = match s.xl.accesses.find? (waitsOn f id) with
    | none => s
    | some _ => settleAll (closeEmptyFaults (endAccess s id 3)) := rfl

theorem waiterTimeout_some (waiting : s.xl.accesses.find? (waitsOn f id) = some a) :
    waiterTimeout s f id = settleAll (closeEmptyFaults (endAccess s id 3)) := by
  simp only [waiterTimeout_eq, waiting]

end

/-! ## Dirty logs (R418) -/

section
variable {s : State} {d : Line} {l : DirtyLog} {b0 b1 n : Nat}

theorem dirtyLog_none (absent : entryAt s (dfld d 16 0 12) (dfld d 18 0 4) = none) :
    dirtyLog s d = mgrFail s d (if dfld d 18 4 2 = 3 then 3 else 1) := by
  unfold entryAt at absent
  simp only [dirtyLog, absent]

theorem dirtyLog_some {g : Seg} (found : entryAt s (dfld d 16 0 12) (dfld d 18 0 4) = some g) : dirtyLog s d =
    match logCommand s g.log (dfld d 18 4 2) (dfld d 24 0 39) (dfld d 32 0 39) (bitmapLen g.len) d with
    | .error r => mgrFail s d r
    | .ok (u, l) =>
      if dfld d 18 4 2 = 1 then modCtx u (dfld d 16 0 12) fun x => { x with segs := tupd x.segs (dfld d 18 0 4) fun g => { g with log := some l } }
      else mgrOk (modCtx u (dfld d 16 0 12) fun x => { x with segs := tupd x.segs (dfld d 18 0 4) fun g => { g with log := some l } }) d := by
  unfold entryAt at found
  simp only [dirtyLog, found] <;> rfl

theorem logCommand_start (first : b0 % 64 = 0) (second : b1 % 64 = 0) (there0 : domNamed s 64 b0 n = true) (there1 : domNamed s 64 b1 n = true) :
    logCommand s none 0 b0 b1 n d = .ok (wrAlloc s 64 b0 (List.replicate n 0), ⟨b0, b1, 0, s.folio + 1, none, none⟩) := by
  simp [logCommand, first, second, there0, there1, zeroPf0]

theorem logCommand_started (runs : l.stopAt = none) : logCommand s (some l) 0 b0 b1 n d = .error 2 := by
  obtain ⟨bitmap0, bitmap1, active, from_, stopAt, harvest⟩ := l
  cases runs
  rfl

theorem logCommand_harvest (runs : l.stopAt = none) (free : l.harvest = none) : logCommand s (some l) 1 b0 b1 n d =
    .ok (wrAlloc s 64 (if l.active = 0 then l.bitmap1 else l.bitmap0) (List.replicate n 0), { l with harvest := some (s.folio + 1, d) }) := by
  obtain ⟨bitmap0, bitmap1, active, from_, stopAt, harvest⟩ := l
  cases runs
  cases free
  rfl

theorem logCommand_stop (runs : l.stopAt = none) : logCommand s (some l) 2 b0 b1 n d = .ok (s, { l with stopAt := some (s.folio + 1) }) := by
  obtain ⟨bitmap0, bitmap1, active, from_, stopAt, harvest⟩ := l
  cases runs
  rfl

end

/-- Settles O53: FAULT_RESUME by the fault it names, a waiter's window by the access that waits, DIRTY_LOG by its operation. -/
theorem faultsAndDirtyLogs : Obligations.FaultsAndDirtyLogs := by
  unfold Obligations.FaultsAndDirtyLogs
  refine ⟨?resume, ?window, ?timeout, ?closed, ?absent, ?log, ?operations⟩
  case resume => exact fun s d ready => exec_faultResume ready faultResume_eq
  case window =>
    exact fun s f id a o running waiting since reached => closeCmd_at s (.waiter f id) _ running (closeAt_waiter waiting since) reached
  case timeout => exact fun s f id a waiting => waiterTimeout_some waiting
  case closed =>
    intro s f id ready noWaiter
    show closeCmd s (.waiter f id) = _
    rw [closeCmd_none s _ ready.1.1 (closeAt_waiter_none noWaiter), commit_self ready.2]
  case absent => exact fun s d ready absent => exec_dirtyLog ready (dirtyLog_none (s := takeHanded s .mgrSq d) absent)
  case log => exact fun s d g ready found => exec_dirtyLog ready (dirtyLog_some (s := takeHanded s .mgrSq d) found)
  case operations =>
    exact fun s l b0 b1 n d runs => ⟨logCommand_started runs, rfl, rfl, rfl, logCommand_start, logCommand_harvest runs, logCommand_stop runs⟩

end Sys2Proof.Machine
end

section
/-! PROOFS. The reset of a VF from its trigger to its end, and the scheduler's commands that wait for a tick (R423, R435 to R437, R441, R453,
R454). -/

namespace Sys2Proof.Machine

/-- A command of a unit that is there, whose effect leaves memory, the queue and the clock. -/
theorem need_only {s t : State} {named : Bool} {f : State → State} (ready : s.Ready) (there : named = true) (effect : f s = t)
    (only : s.OnlyState t) : need named (act s f) = .next t := by
  rw [there, need_true]
  exact act_only ready effect only

/-! ## The trigger (R435) -/

section
variable {s : State} {n : Nat} {e : Bool} {c : Option Line}

/-- A reset that starts: its fence lies at the next tick. -/
def resetStarted (k : Nat) (e : Bool) (c : Option Line) (f : Fn) : Fn :=
  { f with
    waiters := f.waiters ++ c.toList, endEnabled := e, state := .quiescing, fence := some (k + 1), fenced := false, cleaned := false
    enableNext := false }

/-- What comes too late in the cycle of a trigger is the control ring alone. -/
theorem getFn_ctlUndo (s : State) (n : Nat) : ∃ cfg err sq cq, getFn (ctlUndo s n) n =
    { getFn s n with ctlCfg := cfg, ctlErr := err, ctlSq := sq, ctlCq := cq } := by
  unfold ctlUndo
  split
  · exact ⟨_, _, _, _, rfl⟩
  · exact ⟨_, _, _, _, getFn_modFn_same _ _ _⟩

theorem ctlUndo_folio (s : State) (n : Nat) : (ctlUndo s n).folio = s.folio := by
  unfold ctlUndo
  split <;> rfl

theorem ctlUndo_state (s : State) (n : Nat) : (getFn (ctlUndo s n) n).state = (getFn s n).state := by
  obtain ⟨cfg, err, sq, cq, undone⟩ := getFn_ctlUndo s n
  rw [undone]

theorem vfTrigger_starts (idle : (getFn s n).state ≠ .quiescing) :
    getFn (vfTrigger s n e c) n = resetStarted s.folio e c (getFn (ctlUndo s n) n) := by
  have undone : (getFn (ctlUndo s n) n).state ≠ .quiescing := by rwa [ctlUndo_state]
  rw [vfTrigger, if_neg idle, getFn_modFn_same]
  simp only [if_neg undone, resetStarted]

theorem vfTrigger_joins (busy : (getFn s n).state = .quiescing) :
    getFn (vfTrigger s n e c) n = { getFn s n with waiters := (getFn s n).waiters ++ c.toList, endEnabled := e } := by
  rw [vfTrigger, if_pos busy, getFn_modFn_same]
  exact if_pos busy

end

/-! ## A write of CAR_VF (Table 16.11) -/

section
variable {s : State} {n : Nat} {v : W64}

/-- RESET_SEEN cleared where the write names it. -/
def seenCleared (s : State) (n : Nat) (v : W64) : State := if bitAt v 4 then modFn s n fun f => { f with resetSeen := false } else s

/-- ENABLE as written. -/
def enableWritten (s : State) (n : Nat) (v : W64) : State := modFn (seenCleared s n v) n fun f => { f with enable := bitAt v 0 }

theorem getFn_seenCleared (s : State) (n : Nat) (v : W64) :
    getFn (seenCleared s n v) n = { getFn s n with resetSeen := (getFn s n).resetSeen && !bitAt v 4 } := by
  unfold seenCleared
  cases bitAt v 4 with
  | false => rw [if_neg Bool.false_ne_true, Bool.not_false, Bool.and_true]
  | true => rw [if_pos rfl, getFn_modFn_same, Bool.not_true, Bool.and_false]

theorem fnDom_seenCleared (s : State) (n m : Nat) (v : W64) : fnDom (seenCleared s n v) m = fnDom s m := by
  unfold seenCleared
  split <;> rfl

theorem getFn_enableWritten (s : State) (n : Nat) (v : W64) : getFn (enableWritten s n v) n =
    { getFn s n with resetSeen := (getFn s n).resetSeen && !bitAt v 4, enable := bitAt v 0 } := by
  rw [enableWritten, getFn_modFn_same, getFn_seenCleared]

theorem vfWrite_foreign (foreign : (fnDom s n).isNone = true) : vfWrite s n v = seenCleared s n v := by
  show (if (fnDom (seenCleared s n v) n).isNone then seenCleared s n v else _) = _
  rw [fnDom_seenCleared, if_pos foreign]

theorem vfWrite_owned (owned : (fnDom s n).isSome = true) : vfWrite s n v = match (getFn s n).state with
    | .enabled => if bitAt v 0 then enableWritten s n v else vfTrigger (enableWritten s n v) n false none
    | .quiescing => modFn (enableWritten s n v) n fun f => { f with endEnabled := bitAt v 0 }
    | .disabled => modFn (enableWritten s n v) n fun f => { f with enableNext := bitAt v 0 } := by
  have state : (getFn (enableWritten s n v) n).state = (getFn s n).state := by rw [getFn_enableWritten]
  have found : ¬ (fnDom (seenCleared s n v) n).isNone = true := by
    rw [fnDom_seenCleared, Option.isNone_iff_eq_none]
    exact Option.isSome_iff_ne_none.1 owned
  rw [← state]
  exact if_neg found

/-- An owned VF after the write: ENABLE is as written, and RESET_SEEN is cleared where the write names it. -/
theorem getFn_vfWrite_owned (owned : (fnDom s n).isSome = true) : (getFn (vfWrite s n v) n).resetSeen = ((getFn s n).resetSeen && !bitAt v 4) ∧
    (getFn (vfWrite s n v) n).enable = bitAt v 0 ∧
    ((getFn s n).state = .enabled → (getFn (vfWrite s n v) n).state = if bitAt v 0 then .enabled else .quiescing) ∧
    ((getFn s n).state = .disabled → (getFn (vfWrite s n v) n).state = .disabled ∧ (getFn (vfWrite s n v) n).enableNext = bitAt v 0) ∧
    ((getFn s n).state = .quiescing → (getFn (vfWrite s n v) n).state = .quiescing ∧ (getFn (vfWrite s n v) n).endEnabled = bitAt v 0) := by
  rw [vfWrite_owned owned]
  cases state : (getFn s n).state with
  | enabled =>
    cases on : bitAt v 0 with
    | true => simp only [if_true, getFn_enableWritten, state, on, reduceCtorEq, false_implies, and_self, implies_true]
    | false =>
      have live : (getFn (enableWritten s n v) n).state ≠ .quiescing := by simp [getFn_enableWritten, state]
      obtain ⟨cfg, err, sq, cq, undone⟩ := getFn_ctlUndo (enableWritten s n v) n
      simp only [Bool.false_eq_true, if_false, vfTrigger_starts live, resetStarted, undone, getFn_enableWritten, on, reduceCtorEq,
        false_implies, and_self, implies_true]
  | quiescing => simp only [getFn_modFn_same, getFn_enableWritten, state, reduceCtorEq, false_implies, and_self, implies_true]
  | disabled => simp only [getFn_modFn_same, getFn_enableWritten, state, reduceCtorEq, false_implies, and_self, implies_true]

end

/-! ## The end of a reset (R436, R437) -/

section
variable {s : State} {n k : Nat}

theorem vfResetDone_early (early : (getFn s n).fence = none ∨ (getFn s n).state ≠ .quiescing ∨ (getFn s n).cleaned = false) :
    vfResetDone s n = s := by
  simp only [vfResetDone]
  split
  · rfl
  next k fence =>
    refine if_pos ?_
    rcases early with none | busy | dirty
    · exact absurd (fence.symm.trans none) (Option.some_ne_none k)
    · simp only [busy, ne_eq, not_false_eq_true, decide_true, Bool.true_or]
    · simp only [dirty, Bool.not_false, Bool.or_true, Bool.true_or]

theorem vfResetDone_ends (fence : (getFn s n).fence = some k) (state : (getFn s n).state = .quiescing) (cleaned : (getFn s n).cleaned = true)
    (ended : vfAnswered s n = true ∨ k * s.F + 14400000 ≤ s.now) (alone : (getFn s n).waiters = []) : vfResetDone s n =
      codexHand (modFn (mark s (0x1A1000 + 8 * (n - 1)) 4) n fun f => { f with
        state := .disabled, fence := none, fenced := false, cleaned := false, waiters := [], awaits := [], enableNext := f.endEnabled
        resetSeen := true, resets := sat 65535 (f.resets + 1) }) 0x70 (fnSource n) (carrelField ((fnDom s n).getD 64)) (codexCause 0 n) := by
  have done : (vfAnswered s n || decide (k * s.F + 14400000 ≤ s.now)) = true := by simpa using ended
  simp only [vfResetDone, fence, state, cleaned, done, alone, ne_eq, not_true_eq_false, decide_false, Bool.not_true, Bool.or_self,
    Bool.false_eq_true, if_false, List.foldl_nil]
  rfl

end

/-! ## Commands of the manager ring -/

section
variable {s : State} {d : Line}

theorem vfReset_eq : vfReset s d =
    if dfld d 16 0 10 = 0 ∨ 512 < dfld d 16 0 10 then mgrFail s d 3
    else if (fnDom s (dfld d 16 0 10)).isNone = true then mgrFail s d 1
    else vfTrigger s (dfld d 16 0 10) true (some d) := by
  simp only [vfReset, Bool.or_eq_true, decide_eq_true_eq, gt_iff_lt]

theorem schedCarrel_eq : schedCarrel s d =
    if 64 < dfld d 16 0 7 then mgrFail s d 3
    else if getDom s (dfld d 16 0 7) = none then mgrFail s d 1
    else modDom s (dfld d 16 0 7) fun x => { x with schedNext := x.schedNext ++ [d] } := by
  simp only [schedCarrel, gt_iff_lt]
  split
  · rfl
  cases getDom s (dfld d 16 0 7) <;> rfl

theorem qpShape_none (absent : getQp s (dfld d 16 0 20) = none) : qpShape s d = mgrFail s d 1 := by simp only [qpShape, absent]

theorem qpShape_some {q : Qp} (found : getQp s (dfld d 16 0 20) = some q) :
    qpShape s d = if 64 ≤ qpDom s q then mgrFail s d 1 else { s with qpNext := s.qpNext ++ [(dfld d 16 0 20, d)] } := by
  simp only [qpShape, found, ge_iff_le]

/-- QP_PEER_MOVE (R441). -/
def qpPeerMove (s : State) (d : Line) : State :=
  match getQp s (dfld d 16 0 20) with
  | none => mgrFail s d 1
  | some q => if qpLive q then { s with qpNext := s.qpNext ++ [(dfld d 16 0 20, d)] } else mgrFail s d 2

theorem qpPeerMove_none (absent : getQp s (dfld d 16 0 20) = none) : qpPeerMove s d = mgrFail s d 1 := by simp only [qpPeerMove, absent]

theorem qpPeerMove_some {q : Qp} (found : getQp s (dfld d 16 0 20) = some q) :
    qpPeerMove s d = if qpLive q = true then { s with qpNext := s.qpNext ++ [(dfld d 16 0 20, d)] } else mgrFail s d 2 := by
  simp only [qpPeerMove, found]

variable {t : State} (ready : s.MgrReady)
include ready

theorem exec_vfReset (effect : vfReset (takeHanded s .mgrSq d) d = t) : exec (.vfReset d) s = .next (commitNow s t) :=
  mgrCmd_effect (f := fun s => vfReset s d) ready effect

theorem exec_schedCarrel (effect : schedCarrel (takeHanded s .mgrSq d) d = t) : exec (.schedCarrel d) s = .next (commitNow s t) :=
  mgrCmd_effect (f := fun s => schedCarrel s d) ready effect

theorem exec_qpShape (effect : qpShape (takeHanded s .mgrSq d) d = t) : exec (.qpShape d) s = .next (commitNow s t) :=
  mgrCmd_effect (f := fun s => qpShape s d) ready effect

theorem exec_qpPeerMove (effect : qpPeerMove (takeHanded s .mgrSq d) d = t) : exec (.qpPeerMove d) s = .next (commitNow s t) :=
  mgrCmd_effect (f := fun s => qpPeerMove s d) ready effect

end

/-- VF_ENABLE and VF_DISABLE are one write of CAR_VF. -/
theorem exec_vfWrite {s : State} {n : Nat} {v : W64} (ready : s.BarReady) (vf : wfVf n = true) :
    exec (if bitAt v 0 then .vfEnable n v else .vfDisable n v) s = .next (commitNow s (vfWrite s n v)) := by
  have written := barAct_ready s (fun s => vfWrite s n v) ready
  cases on : bitAt v 0 with
  | true =>
    show need (wfVf n && bitAt v 0) _ = _
    rw [vf, on, Bool.and_self, need_true, written]
  | false =>
    show need (wfVf n && !bitAt v 0) _ = _
    rw [vf, on, Bool.not_false, Bool.and_self, need_true, written]

/-- Settles O55: the trigger by the state it meets, the write of CAR_VF by the VF's state, the end of a reset by its conditions. -/
theorem vfResetsAndShaping : Obligations.VfResetsAndShaping := by
  unfold Obligations.VfResetsAndShaping
  refine ⟨?flr, ?reset, ?trigger, ?write, ?ends, ?early, ?carrel, ?qp, ?absent⟩
  case flr =>
    intro s n ready vf
    refine need_act ready vf ?_
    simp only [Bool.or_eq_true, Bool.not_eq_true', or_assoc]
  case reset => exact fun s d ready => exec_vfReset ready vfReset_eq
  case trigger =>
    intro s n e c
    refine ⟨fun idle none => ?_, fun idle _ => vfTrigger_starts idle, vfTrigger_joins⟩
    have unchanged : ctlUndo s n = s := by simp only [ctlUndo, none]
    rw [vfTrigger_starts idle, unchanged]
    rfl
  case write =>
    rintro s n v i ready vf rfl
    refine ⟨_, exec_vfWrite ready vf, ?_⟩
    show (getFn (vfWrite s n v) n).resetSeen = _ ∧ (_ → (getFn (vfWrite s n v) n).enable = _ ∧ (getFn (vfWrite s n v) n).state = _) ∧ _
    cases owner : fnDom s n with
    | none =>
      have after := (congrArg (getFn · n) (vfWrite_foreign (v := v) (Option.isNone_iff_eq_none.2 owner))).trans (getFn_seenCleared s n v)
      rw [after]
      exact ⟨rfl, fun _ => ⟨rfl, rfl⟩, fun some => absurd some Bool.false_ne_true⟩
    | some c =>
      obtain ⟨seen, enable⟩ := getFn_vfWrite_owned (v := v) (Option.isSome_iff_exists.2 ⟨c, owner⟩)
      exact ⟨seen, fun none => absurd none Bool.false_ne_true, fun _ => enable⟩
  case ends =>
    intro s n k ready vf ⟨fence, state, cleaned⟩ ended alone
    exact need_only ready vf (vfResetDone_ends fence state cleaned ended alone) ⟨⟨rfl, rfl, rfl, rfl⟩, rfl, rfl, rfl, rfl⟩
  case early =>
    intro s n ready vf early
    exact need_only ready vf (vfResetDone_early early) ⟨⟨rfl, rfl, rfl, rfl⟩, rfl, rfl, rfl, rfl⟩
  case carrel => exact fun s d ready => exec_schedCarrel ready schedCarrel_eq
  case qp =>
    exact fun s d q ready found => ⟨exec_qpShape ready (qpShape_some (s := takeHanded s .mgrSq d) found),
      exec_qpPeerMove ready (qpPeerMove_some (s := takeHanded s .mgrSq d) found)⟩
  case absent =>
    intro s d ready absent i named
    simp only [List.mem_cons, List.not_mem_nil, or_false] at named
    rcases named with rfl | rfl
    · exact exec_qpShape ready (qpShape_none (s := takeHanded s .mgrSq d) absent)
    · exact exec_qpPeerMove ready (qpPeerMove_none (s := takeHanded s .mgrSq d) absent)

end Sys2Proof.Machine
end

section
/-! PROOFS. A carrel's counter dump, the end of a bandwidth window, a sample record (R459, R460, R463, R466, R467). -/

namespace Sys2Proof.Machine

section
variable {s : State} {d : Line} {x : Domain}

theorem carrelDumpSet_noCarrel (high : 64 ≤ dfld d 16 0 7) : carrelDumpSet s d = mgrFail s d 3 := if_pos high

variable (low : ¬ 64 ≤ dfld d 16 0 7)
include low

theorem carrelDumpSet_none (absent : getDom s (dfld d 16 0 7) = none) : carrelDumpSet s d = mgrFail s d 1 := by
  simp only [carrelDumpSet, ge_iff_le, if_neg low, absent]

theorem carrelDumpSet_some (found : getDom s (dfld d 16 0 7) = some x) : carrelDumpSet s d =
    if dfld d 20 0 39 % 64 ≠ 0 ∨ allocNamed x.cfg (dfld d 20 0 39) (2304 * 2 ^ dfld d 28 0 4) = false then mgrFail s d 3
    else if dbit d 28 4 = true ∧ leaving s (dfld d 16 0 7) (dfld d 20 0 39) (2304 * 2 ^ dfld d 28 0 4) = true then mgrFail s d 2
    else mgrOk (modCnt s fun t => { t with
      carrelNext := tput t.carrelNext (dfld d 16 0 7)
        { offset := dfld d 20 0 39, log2 := dfld d 28 0 4, enable := dbit d 28 4, seq := 0, prevTick := 0, stepped := false } }) d := by
  simp only [carrelDumpSet, ge_iff_le, if_neg low, found, Bool.or_eq_true, Bool.and_eq_true, decide_eq_true_eq, Bool.not_eq_true']

end

theorem exec_cntCarrelDump {s t : State} {d : Line} (ready : s.MgrReady) (effect : carrelDumpSet (takeHanded s .mgrSq d) d = t) :
    exec (.cntCarrelDump d) s = .next (commitNow s t) :=
  mgrCmd_effect (f := fun s => carrelDumpSet s d) ready effect

section
variable {s : State}

theorem bwClose_due {k : Nat} {b : Tbl Nat} (due : s.cnt.bwDue = some (k, b)) :
    bwClose s = modCnt s fun c => { c with bwDue := none, bwEnd := k, bwLast := b } := by simp only [bwClose, due]

/-- The end of a window that closed at a past tick takes no time. -/
theorem exec_bwWindowClose_due {k : Nat} {b : Tbl Nat} (ready : s.Ready) (due : s.cnt.bwDue = some (k, b)) (past : k ≤ s.folio) :
    exec .bwWindowClose s = .next (modCnt s fun c => { c with bwDue := none, bwEnd := k, bwLast := b }) := by
  have closes : closeAt s .bandwidth = some (.tick k) := by simp only [closeAt, due, Option.map_some]
  have effect : closed s .bandwidth = _ := bwClose_due due
  show closeCmd s .bandwidth = _
  rw [closeCmd_tick s _ k ready.1.1 closes past, effect]
  exact congrArg _ (commit_plain s _ ready.2.1 ready.2.2 rfl rfl)

theorem exec_bwWindowClose_none (ready : s.Ready) (noWindow : s.cnt.bwDue = none) : exec .bwWindowClose s = .next s := by
  have closes : closeAt s .bandwidth = none := by simp only [closeAt, noWindow, Option.map_none]
  show closeCmd s .bandwidth = _
  rw [closeCmd_none s _ ready.1.1 closes, commit_self ready.2]

end

/-- Settles O56: the dump by its checks, the window by whether one is due; the sample record is what `capture` says. -/
theorem dumpsWindowsAndSamples : Obligations.DumpsWindowsAndSamples := by
  unfold Obligations.DumpsWindowsAndSamples
  refine ⟨?dump, ?window, ?sample⟩
  case dump =>
    intro s d ready
    refine exec_cntCarrelDump ready ?_
    split
    case isTrue high => exact carrelDumpSet_noCarrel high
    case isFalse low =>
      cases found : getDom s (dfld d 16 0 7) with
      | none => exact carrelDumpSet_none (s := takeHanded s .mgrSq d) low found
      | some x => exact carrelDumpSet_some (s := takeHanded s .mgrSq d) low found
  case window => exact fun s ready => ⟨fun k b due past => exec_bwWindowClose_due ready due past, exec_bwWindowClose_none ready⟩
  case sample => exact fun s skid ready => act_running s (fun s => capture s skid) ready.1

end Sys2Proof.Machine
end

section
/-! PROOFS. SPDM requests by what a bus has agreed and by the session they name (R482 to R485). -/

namespace Sys2Proof.Machine

section
variable {s : State} {b : SpdmBus}

/-! ## Whether a request is heard, and what must be agreed before it (R484) -/

/-- The request has the effect `f` where it is heard, and none where it is not. -/
def AnswersHeard (i : Instr) (b : SpdmBus) (f : State → State) : Prop := ∀ s, exec i s = act s fun s => if spdmHeard s b then f s else s

/-- The effect of a request that needs the algorithms agreed: UnexpectedRequest before. -/
def onceAgreed (b : SpdmBus) (f : State → State) (s : State) : State := if (spdmAgreed s b).2.2 then f s else spdmError s b 4

/-- The effect of GET_CAPABILITIES, which needs the version. -/
def capabilities (b : SpdmBus) (s : State) : State :=
  if (spdmAgreed s b).1 then spdmAnswer (setAgreed s b (true, true, false)) b 0x61 [] else spdmError s b 4

/-- The effect of NEGOTIATE_ALGORITHMS, which needs the capabilities and all four algorithms (`all`). -/
def algorithms (b : SpdmBus) (all : Bool) (s : State) : State :=
  if !(spdmAgreed s b).2.1 then spdmError s b 4
  else if all then spdmAnswer (setAgreed s b (true, true, true)) b 0x63 [] else spdmError s b 7

theorem answersHeard_guarded {i : Instr} {f : State → State} (kind : ∀ s, exec i s = act s fun s => if !spdmHeard s b then s else f s) :
    AnswersHeard i b f := by
  have guard : (fun s => if !spdmHeard s b then s else f s) = fun s => if spdmHeard s b then f s else s := by
    funext s
    cases spdmHeard s b <;> rfl
  exact fun s => (kind s).trans (congrArg (act s) guard)

theorem answersHeard_version :
    AnswersHeard (.spdmGetVersion b) b fun s => spdmAnswer (setAgreed s b (true, false, false)) b 0x04 [0x13] := fun _ => rfl

theorem answersHeard_capabilities : AnswersHeard (.spdmGetCapabilities b) b (capabilities b) := answersHeard_guarded fun _ => rfl

theorem answersHeard_algorithms (h a1 a2 a3 : Bool) :
    AnswersHeard (.spdmNegotiateAlgorithms b h a1 a2 a3) b (algorithms b (h && a1 && a2 && a3)) := answersHeard_guarded fun _ => rfl

/-- A request that needs the algorithms agreed, with the effect `f`. -/
theorem answersHeard_onceAgreed {i : Instr} {f : State → State} (kind : ∀ s, exec i s = act s fun s => spdmReady s b f) :
    AnswersHeard i b (onceAgreed b f) := answersHeard_guarded kind

theorem onceAgreed_listed {i : Instr} (n m k : Nat) (h : Bool) (x : BitVec 256)
    (listed : i ∈ [Instr.spdmGetDigests b, .spdmGetCertificate b n m k, .spdmChallenge b n x, .spdmGetMeasurements b n x h,
      .spdmKeyExchange b n, .spdmFinish b n h, .spdmEndSession b n, .spdmHeartbeat b n]) : ∃ f, AnswersHeard i b (onceAgreed b f) := by
  simp only [List.mem_cons, List.not_mem_nil, or_false] at listed
  rcases listed with rfl | rfl | rfl | rfl | rfl | rfl | rfl | rfl <;> exact ⟨_, answersHeard_onceAgreed fun _ => rfl⟩

section
variable {i : Instr} {f : State → State} {t : State} (ready : s.Ready)
include ready

theorem AnswersHeard.unheard (kind : AnswersHeard i b f) (deaf : spdmHeard s b = false) : exec i s = .next s := by
  rw [kind s]
  exact act_only (f := fun s => if spdmHeard s b then f s else s) ready (if_neg (ne_true_of_eq_false deaf))
    ⟨⟨rfl, rfl, rfl, rfl⟩, rfl, rfl, rfl, rfl⟩

theorem AnswersHeard.heard (kind : AnswersHeard i b f) (heard : spdmHeard s b = true) (effect : f s = t) :
    exec i s = .next (commitNow s t) := by
  rw [kind s, act_running s _ ready.1, if_pos heard, effect]

theorem AnswersHeard.agreed (kind : ∀ s, exec i s = act s fun s => spdmReady s b f) (heard : spdmHeard s b = true)
    (agreed : (spdmAgreed s b).2.2 = true) (effect : f s = t) : exec i s = .next (commitNow s t) :=
  (answersHeard_onceAgreed kind).heard ready heard ((if_pos agreed).trans effect)

end

/-! ## The requests of an agreement (R484, R485) -/

theorem spdmSign_eq (code : Nat) (args : List Nat) : spdmSign s b code args =
    if certReady s = false then spdmError s b 7 else sigPump (modSec s fun x => { x with spdmQ := x.spdmQ ++ [⟨b, code, args, s.now⟩] }) := by
  simp only [spdmSign, Bool.not_eq_true']

theorem keyExchange_eq (n : Nat) : keyExchange s b n =
    if 4 ≤ s.sec.sessions.length then spdmError s b 0x0A
    else if certReady s = false then spdmError s b 7
    else spdmSign (modSec s fun y => { y with nextSession := y.nextSession + 1, sessions := y.sessions ++ [⟨s.sec.nextSession, b, false⟩] }) b 0x64
      [n, s.sec.nextSession] := by
  simp only [keyExchange, ge_iff_le, Bool.not_eq_true']
  rfl

/-! ## Sessions -/

variable {id : Nat} {x : Session}

theorem finishSession_none (ok : Bool) (absent : getSession s b id = none) : finishSession s b id ok = spdmError s b 2 := by
  simp only [finishSession, absent]

theorem finishSession_established (ok : Bool) (found : getSession s b id = some x) (established : x.established = true) :
    finishSession s b id ok = spdmError s b 4 := by
  simp only [finishSession, found, established, if_true]

theorem finishSession_good (found : getSession s b id = some x) (fresh : x.established = false) : finishSession s b id true =
    spdmAnswer (modSec s fun y => { y with sessions := y.sessions.map fun z => if z.id = id then { z with established := true } else z }) b 0x65
      [id] := by
  simp only [finishSession, found, fresh, Bool.not_true, Bool.false_eq_true, if_false]

theorem finishSession_bad (found : getSession s b id = some x) (fresh : x.established = false) :
    finishSession s b id false = spdmError (modSec s fun x => { x with sessions := x.sessions.filter fun y => y.id ≠ id }) b 6 := by
  simp only [finishSession, found, fresh, Bool.not_false, Bool.false_eq_true, if_false, if_true, dropSession]

theorem inSession_none (f : State → State) (absent : getSession s b id = none) : inSession s b id f = spdmError s b 2 := by
  simp only [inSession, absent]

theorem inSession_established (f : State → State) (found : getSession s b id = some x) (established : x.established = true) :
    inSession s b id f = f s := by
  simp only [inSession, found, established, if_true]

theorem inSession_fresh (f : State → State) (found : getSession s b id = some x) (fresh : x.established = false) :
    inSession s b id f = spdmError s b 4 := by
  simp only [inSession, found, fresh, Bool.false_eq_true, if_false]

end

/-! ## ResponseNotReady (R485) -/

section
variable {s : State}

/-- Requests that wait for a signature, the one being signed first. -/
def waitingRequests (s : State) : List SpdmReq :=
  (match s.sec.signing with | some (.spdm r) => (if r.code = 0 then [] else [r]) | _ => []) ++ s.sec.spdmQ

/-- The oldest waiting request is told so. -/
def notReady (s : State) : State :=
  match waitingRequests s with
  | r :: _ => if spdmHeard s r.bus then spdmError s r.bus 0x42 else s
  | [] => s

theorem exec_spdmResponseNotReady (s : State) : exec .spdmResponseNotReady s = act s notReady := rfl

theorem exec_notReady_none (ready : s.Ready) (none : waitingRequests s = []) : exec .spdmResponseNotReady s = .next s :=
  act_only (f := notReady) ready (by rw [notReady, none]) ⟨⟨rfl, rfl, rfl, rfl⟩, rfl, rfl, rfl, rfl⟩

theorem exec_notReady_oldest {r : SpdmReq} {rest : List SpdmReq} (ready : s.Ready) (waiting : waitingRequests s = r :: rest) :
    exec .spdmResponseNotReady s = .next (if spdmHeard s r.bus = true then commitNow s (spdmError s r.bus 0x42) else s) := by
  have effect : notReady s = if spdmHeard s r.bus then spdmError s r.bus 0x42 else s := by rw [notReady, waiting]
  rw [exec_spdmResponseNotReady, act_running s _ ready.1, effect]
  split
  · rfl
  · rw [commitNow_only ready.2 ⟨⟨rfl, rfl, rfl, rfl⟩, rfl, rfl, rfl, rfl⟩]

end

/-- Settles O58: each request by whether it is heard, by what is agreed and by the session it names. -/
theorem spdmRequests : Obligations.SpdmRequests := by
  unfold Obligations.SpdmRequests
  refine ⟨?unheard, ?early, ?agreement, ?agreed, ?sign, ?session, ?notReady⟩
  case unheard =>
    intro s b i n m k h a1 a2 a3 x ready deaf listed
    rw [List.mem_cons, List.mem_cons, List.mem_cons] at listed
    rcases listed with rfl | rfl | rfl | listed
    · exact answersHeard_version.unheard ready deaf
    · exact answersHeard_capabilities.unheard ready deaf
    · exact (answersHeard_algorithms h a1 a2 a3).unheard ready deaf
    · obtain ⟨f, kind⟩ := onceAgreed_listed n m k h x listed
      exact kind.unheard ready deaf
  case early =>
    intro s b i n m k h x ready heard unagreed listed
    obtain ⟨f, kind⟩ := onceAgreed_listed n m k h x listed
    exact kind.heard ready heard (if_neg (ne_true_of_eq_false unagreed))
  case agreement =>
    intro s b h a1 a2 a3 ready heard
    refine ⟨answersHeard_version.heard ready heard rfl, answersHeard_capabilities.heard ready heard rfl,
      (answersHeard_algorithms h a1 a2 a3).heard ready heard ?_⟩
    simp only [algorithms, Bool.not_eq_true']
  case agreed =>
    intro s b n o l id x ok ready heard agreed
    have effect {i : Instr} {f : State → State} {t : State} (kind : ∀ s, exec i s = act s fun s => spdmReady s b f) :=
      AnswersHeard.agreed (t := t) ready kind heard agreed
    refine ⟨effect (f := fun s => spdmAnswer s b 0x01 [] (sha256 (s.sec.identCert ++ s.sec.attCert))) (fun _ => rfl) rfl,
      effect (fun _ => rfl) ?_, effect (fun _ => rfl) ?_, effect (f := fun s => getMeasurements s b n x ok) (fun _ => rfl) rfl,
      effect (f := fun s => keyExchange s b n) (fun _ => rfl) (keyExchange_eq n), ?_⟩
    · by_cases slot : n = 0
      · simp only [slot, ne_eq, not_true_eq_false, if_false, if_true]
      · simp only [slot, ne_eq, not_false_eq_true, if_false, if_true]
    · exact ite_not _ _ _
    · intro absent i listed
      simp only [List.mem_cons, List.not_mem_nil, or_false] at listed
      rcases listed with rfl | rfl | rfl
      · exact effect (fun _ => rfl) (finishSession_none ok absent)
      · exact effect (fun _ => rfl) (inSession_none _ absent)
      · exact effect (fun _ => rfl) (inSession_none _ absent)
  case sign => exact fun s b code args => spdmSign_eq code args
  case session =>
    intro s b id x ready heard agreed found
    have effect {i : Instr} {f : State → State} {t : State} (kind : ∀ s, exec i s = act s fun s => spdmReady s b f) :=
      AnswersHeard.agreed (t := t) ready kind heard agreed
    refine ⟨fun established => ⟨?_, ?_, ?_⟩, fun fresh => ⟨?_, ?_, ?_, ?_⟩⟩
    · exact effect (fun _ => rfl) (inSession_established _ found established)
    · exact effect (fun _ => rfl) (inSession_established _ found established)
    · exact effect (fun _ => rfl) (finishSession_established true found established)
    · exact effect (fun _ => rfl) (finishSession_good found fresh)
    · exact effect (fun _ => rfl) (finishSession_bad found fresh)
    · exact effect (fun _ => rfl) (inSession_fresh _ found fresh)
    · exact effect (fun _ => rfl) (inSession_fresh _ found fresh)
  case notReady =>
    rintro s l ready rfl
    exact ⟨exec_notReady_none ready, fun r rest => exec_notReady_oldest ready⟩

end Sys2Proof.Machine
end
